-- ==== Sys2Proof/Word.lean ====
section
/-! DEFINITION. The words of the Kestrac KT620: bytes and stroke values. -/

namespace Sys2Proof

/-- One byte: of dictionary memory, of a line character, of a host transaction. -/
abbrev Byte := BitVec 8

/-- A stroke value: 23 bits, key 1 the lowest, key 23 the highest (00, Strokes). The value 0 is not a stroke. -/
abbrev Stroke := BitVec 23

/-- A reading of the millisecond clock (R1): 32 bits, wrapping. -/
abbrev Ms := BitVec 32

end Sys2Proof
end

