-- ==== Sys2Proof/Config.lean ====
section
/-! DEFINITION. What the manual leaves open as a value (the free values), and nothing else: the node's own settings are
the configuration record, which is state (R188). -/

namespace Sys2Proof.Config

/-- FREE VALUE (log 9). Where one table or cell shows several faults of R26 or R40 at once, the manual reports the fault
once and does not say which: the choice among them, from the codes of the kinds found and the address of the thing at fault.
No body: nothing can be proved of it. -/
opaque faultChoice : List Nat → Nat → Nat

/-- FREE VALUE (log 10). The manual does not say what a new cell holds in the fields its flags mark absent (R24, R35): the byte at an
address, in a cell written for the definition in service at a generation. No body: nothing can be proved of it. -/
opaque absentByte : BitVec 16 → Nat → Byte

end Sys2Proof.Config
end

