-- ==== Sys2Proof/Syntax.lean ====
section
/-! DEFINITION. The commands of the KT620: one constructor per row of spec/opcode_table.json, in the table's order. -/

namespace Sys2Proof

/-- Where a full reset comes from (R58 tells the two apart). -/
inductive ResetSource where
  | powerUp
  | pin
  deriving DecidableEq, Repr

/-- The commands: events of the part's own blocks, of its pins, and host transactions.
Host command rows carry the parameter bytes of the transaction; where several rows share a command code, the bytes after
the selecting byte, which is the row's own (log 5). -/
inductive Instr where
  | fullReset (source : ResetSource)
  | rawLevelChange (contact : Nat) (down : Bool)
  | settlingTimerExpiry (contact : Nat)
  | stuckTimerExpiry (contact : Nat)
  | takeStroke
  | walkReadEnd
  | resolveTimerExpiry
  | retrReadEnd
  | matchCheck
  | replacement
  | duServiceStart
  | defOperationEnd
  | exportOperationEnd
  | characterReceived (heading : Bool) (byte : Byte) (stopIdle : Bool)
  | frameEndBySilence
  | turnaroundGuardExpiry
  | transmitStart
  | creditReach
  | deliverStation
  | deliverClaim
  | deliverRelease
  | deliverRefuse
  | deliverDefine
  | deliverAsk
  | deliverTail
  | deliverLine
  | beaconTimerExpiry
  | refreshTimerExpiry
  | lapseTimerExpiry (slot : Nat)
  | freeTimerExpiry (slot : Nat)
  | claimTimerExpiry
  | settleTimerExpiry
  | commitAll
  | gapTimerExpiry (line : Nat)
  | rowSendStart
  | busyChange (high : Bool)
  | rowSendComplete
  | commandTakeBusy (code : Byte) (params : List Byte)
  | responseRead (clocked : Nat)
  | unknownCommand (code : Byte) (params : List Byte)
  | configure (params : List Byte)
  | load (params : List Byte)
  | readDict (params : List Byte)
  | go (params : List Byte)
  | restart (params : List Byte)
  | define (params : List Byte)
  | forget (params : List Byte)
  | flushCacheAll (rest : List Byte)
  | flushCacheLayer (rest : List Byte)
  | flushCacheStroke (rest : List Byte)
  | flushCacheStrokeLayer (rest : List Byte)
  | custodyClaim (rest : List Byte)
  | custodyRelease (rest : List Byte)
  | custodyEnterShadow (rest : List Byte)
  | custodyLeaveShadow (rest : List Byte)
  | custodyHold (rest : List Byte)
  | custodyUnhold (rest : List Byte)
  | pane (params : List Byte)
  | readLinesAuto (rest : List Byte)
  | readLinesPeek (rest : List Byte)
  | readNotesAuto (rest : List Byte)
  | readNotesPeek (rest : List Byte)
  | readStatus (params : List Byte)
  | readRoster (params : List Byte)
  | readEvent (params : List Byte)
  | setMask (params : List Byte)
  | fenceComplete
  | startBitSeen (atStart : Bool)
  | shortCommandTransaction (sent : List Byte)
  deriving DecidableEq, Repr

end Sys2Proof
end

