-- ==== Sys2Proof/Machine/State.lean ====
section
/-! DEFINITION. The state of the KT620 as plain data: one structure per block, and the queue of waiting commands.
Every field names the rule of spec/ that gives it; INVENTORY.md lists them all with their reset values. -/

namespace Sys2Proof.Machine

/-! ## Clocks -/

/-- The millisecond clock (R1) and the character-time count (R139), which advance together: `us` is the part of the current
millisecond already passed, in microseconds (log 2). -/
structure Clock where
  ms    : Ms
  us    : Nat
  chars : Nat
  deriving DecidableEq, Repr

/-! ## Stroke capture (01) -/

inductive ContactMark where
  | none
  | stuck
  | heldOver
  deriving DecidableEq, Repr

/-- One key contact (1.1). `rawDown` is the level of its input pin; timers hold the reading at which they expire. -/
structure Contact where
  rawDown      : Bool
  acceptedDown : Bool
  settleAt     : Option Ms
  mark         : ContactMark
  stuckAt      : Option Ms
  deriving DecidableEq, Repr

/-- A chord being written (1.3): key k of the chord set is bit k - 1. -/
structure Chord where
  keys     : Stroke
  openTime : Ms
  deriving DecidableEq, Repr

/-- The Key Capture Unit. `chord = none` is IDLE. Contact n is element n - 1. -/
structure Kcu where
  contacts   : Vector Contact 28
  keyMap     : Vector Nat 28
  debounce   : Nat
  graze      : Nat
  stuckLimit : Nat
  chord      : Option Chord
  nextStroke : Nat
  exhausted  : Bool
  grazes     : Nat
  deriving DecidableEq, Repr

/-- A stroke record (1.5). -/
structure StrokeRecord where
  number        : Nat
  value         : Stroke
  openTime      : Ms
  closeTime     : Ms
  notTranslated : Bool
  afterDrop     : Bool
  deriving DecidableEq, Repr

/-- The Stroke Queue (1.6), oldest first. -/
structure StrokeQueue where
  records     : List StrokeRecord
  dropPending : Bool
  dropped     : Nat
  deriving DecidableEq, Repr

/-- The Notes Log (1.7), oldest first. The export cursor stands before the last `unexported` entries. -/
structure NotesLog where
  entries    : List StrokeRecord
  unexported : Nat
  lost       : Nat
  deriving DecidableEq, Repr

/-! ## Dictionary memory, lookups and the Definition Unit (02) -/

/-- Dictionary memory (R19): the listed bytes, by rising address; an unlisted address reads as `Memory.unlisted`. -/
abbrev Memory := List Host.Cell

/-- The directory copy taken at GO (R20). -/
structure Directory where
  caseRoot      : Nat
  jobRoot       : Nat
  mainRoot      : Nat
  cellFirst     : Nat
  cellCount     : Nat
  heapStart     : Nat
  heapSize      : Nat
  jobTextStart  : Nat
  jobTextSize   : Nat
  mainTextStart : Nat
  mainTextSize  : Nat
  deriving DecidableEq, Repr

/-- A text reference (2.5): address and length. -/
structure TextRef where
  addr : Nat
  len  : Nat
  deriving DecidableEq, Repr

/-- The fault kinds of DICT_FAULT (R26, R27, R32, R40), in the order of their codes (11.5). -/
inductive FaultKind where
  | address
  | spare
  | exponent
  | length
  | textRange
  | chainLimit
  | textCode
  | region
  | shared
  | duplicate
  deriving DecidableEq, Repr

/-- What a found cell gives (R25): present text and next level only where their flags are set. -/
structure CellContent where
  cell  : Nat
  fixed : Bool
  text  : Option TextRef
  next  : Option Nat
  deriving DecidableEq, Repr

/-- The operation a lookup waits for. -/
inductive LookupStage where
  | header
  | head
  | cell
  deriving DecidableEq, Repr

/-- A lookup in progress (R25). `duRules` is set for the Definition Unit's lookups, which also keep to the CASE cell region
(R32). `head` is the bucket head read; `place` counts the chain's cells read or being read; `prev` is the chain predecessor with
its bytes. -/
structure Lookup where
  layer     : Nat
  table     : Nat
  stroke    : Stroke
  duRules   : Bool
  stage     : LookupStage
  exponent  : Nat
  cellCount : Nat
  headAddr  : Nat
  head      : Nat
  cellAddr  : Nat
  place     : Nat
  prev      : Option (Nat × List Byte)
  deriving DecidableEq, Repr

inductive DefKind where
  | define
  | forget
  deriving DecidableEq, Repr

/-- An entry of the definition queue (2.8). `source` is 0 for LOCAL. -/
structure DefEntry where
  kind      : DefKind
  source    : Nat
  rank      : Nat
  defNumber : Option Nat
  strokes   : List Stroke
  text      : List Byte
  share     : Bool
  deriving DecidableEq, Repr

/-- One found step of a PLAN walk (R32): the table with its header fields and the bucket head address, the cell found with
its bytes, and the chain predecessor, if any. -/
structure PlanStep where
  table     : Nat
  exponent  : Nat
  cellCount : Nat
  headAddr  : Nat
  cellAddr  : Nat
  bytes     : List Byte
  prev      : Option (Nat × List Byte)
  deriving DecidableEq, Repr

/-- One write of WRITE, with the cells that join the free-cell list when it is done (R38). -/
structure PlannedWrite where
  addr  : Nat
  bytes : List Byte
  freed : List Nat
  deriving DecidableEq, Repr

/-- One table open in the CASE scan (R40): its extent and header count, the bucket in hand, the chain's next cell and place,
and what was found in it so far. -/
structure ScanTable where
  table       : Nat
  exponent    : Nat
  headerCount : Nat
  bucket      : Nat
  link        : Nat
  place       : Nat
  found       : Nat
  strokes     : List Nat
  deriving DecidableEq, Repr

/-- The operation the CASE scan waits for. -/
inductive ScanRead where
  | header (table : Nat)
  | head
  | cell (addr : Nat)
  deriving DecidableEq, Repr

/-- The CASE scan at GO (R40, R41): open tables, innermost first; extents reached; the highest text end + 1 so far; header
rewrites owed. -/
structure Scan where
  tables  : List ScanTable
  want    : ScanRead
  reached : List (Nat × Nat)
  textTop : Option Nat
  fixes   : List PlannedWrite
  deriving DecidableEq, Repr

/-- What the Definition Unit has in hand: an entry in service with its phase (R31), or the work of a GO. -/
inductive DuWork where
  | idle
  | plan (entry : DefEntry) (lookup : Lookup) (path : List PlanStep)
  | write (entry : DefEntry) (ref : TextRef) (todo : List PlannedWrite)
  | finish (entry : DefEntry) (ref : TextRef) (fences : List Stroke)
  | goDirectory (got : List Byte)
  | goScan (scan : Scan)
  | goCounts (todo : List PlannedWrite)
  deriving DecidableEq, Repr

/-- The Definition Unit (2.8). -/
structure Du where
  dir          : Option Directory
  queue        : List DefEntry
  work         : DuWork
  freeCells    : List Nat
  heapTop      : Option Nat
  generation   : BitVec 16
  receivedLost : Nat
  deriving DecidableEq, Repr

/-! ## Path Cache and Store Arbiter (03) -/

/-- One entry of the Path Cache (R43): key and content. -/
structure CacheEntry where
  layer   : Nat
  table   : Nat
  stroke  : Stroke
  content : CellContent
  deriving DecidableEq, Repr

/-- One set of four ways, with its occupied ways from most to least recently used (3.1). -/
structure CacheSet where
  ways    : Vector (Option CacheEntry) 4
  recency : List Nat
  deriving DecidableEq, Repr

structure Cache where
  sets   : Vector CacheSet 16
  hits   : Nat
  misses : Nat
  deriving DecidableEq, Repr

/-- The four classes of requester, in priority order (3.6). -/
inductive MemClass where
  | defn
  | walk
  | retr
  | host
  deriving DecidableEq, Repr

/-- A memory operation (R52). -/
inductive MemOp where
  | read (addr count : Nat)
  | write (addr : Nat) (bytes : List Byte)
  deriving DecidableEq, Repr

structure Request where
  cls : MemClass
  op  : MemOp
  deriving DecidableEq, Repr

/-- The Store Arbiter (3.6). -/
structure Arbiter where
  inService : Option Request
  batch     : List Request
  stacked   : List Request
  deriving DecidableEq, Repr

/-! ## Translation (04) -/

/-- A stroke with its number. -/
structure NumStroke where
  number : Nat
  value  : Stroke
  deriving DecidableEq, Repr

inductive WalkPos where
  | root
  | at (content : CellContent)
  | off
  deriving DecidableEq, Repr

inductive TePhase where
  | idle
  | step
  | fetch
  | hold
  deriving DecidableEq, Repr

inductive Demand where
  | none
  | one
  | all
  deriving DecidableEq, Repr

/-- What a TE request in flight carries for the checks of R47 and R49. -/
structure ReqMarks where
  generation : BitVec 16
  raiseSeen  : Bool
  fenceSeen  : Bool
  deriving DecidableEq, Repr

/-- A reference found in a layer (R62). -/
structure LayerRef where
  layer : Nat
  ref   : TextRef
  deriving DecidableEq, Repr

/-- The walk side's request in flight: a lookup made on a miss, or a text fetch for a match of `count` strokes. -/
inductive WalkReq where
  | lookup (lookup : Lookup) (marks : ReqMarks)
  | fetch (ref : LayerRef) (count : Nat) (got : List Byte) (marks : ReqMarks)
  deriving DecidableEq, Repr

structure KeptText where
  ref  : TextRef
  text : List Byte
  deriving DecidableEq, Repr

/-- A handing for retranslation (R74). -/
structure Handing where
  strokes : List Stroke
  ref     : TextRef
  deriving DecidableEq, Repr

/-- The retranslation side (R75): IDLE, FETCH, or a replacement requested and not yet taken. -/
inductive RetrWork where
  | idle
  | fetch (handing : Handing) (got : List Byte) (marks : ReqMarks)
  | requested (strokes : List Stroke) (text : List Byte)
  deriving DecidableEq, Repr

/-- The Translation Engine (4.1). -/
structure Te where
  pendingBuf : List NumStroke
  walked     : Nat
  positions  : Vector WalkPos 3
  table      : Vector (List LayerRef) 8
  phase      : TePhase
  stepLayer  : Nat
  walkReq    : Option WalkReq
  demand     : Demand
  flushOwed  : Bool
  rewalkDue  : Bool
  inHand     : Option StrokeRecord
  resolveAt  : Option Ms
  kept       : Option KeptText
  taken      : Nat
  consumed   : Nat
  lateUndo   : Nat
  handings   : List Handing
  retr       : RetrWork
  retrLost   : Nat
  deriving DecidableEq, Repr

/-! ## Transcript building (05) -/

/-- The format state (R79). -/
structure Format where
  cap      : Bool
  lower    : Bool
  attach   : Bool
  glueLast : Bool
  deriving DecidableEq, Repr

inductive UnitKind where
  | translation
  | untranslate
  | drop
  deriving DecidableEq, Repr

/-- An open unit (R80). `anchor` is the index of its anchor line among the open lines. -/
structure TextUnit where
  kind     : UnitKind
  strokes  : List NumStroke
  text     : List Byte
  snapshot : Format
  anchor   : Nat
  deriving DecidableEq, Repr

/-- The lead with its base state (R88). No lead is one empty line with line-start set. -/
structure Lead where
  lines     : List (List Byte)
  lineStart : Bool
  base      : Format
  deriving DecidableEq, Repr

/-- The open region (R88): lead and open units, with the rendering of them: the open lines, the line-start flag of the
insertion point (which is at the end of the last line) and the current format state. -/
structure Region where
  lead      : Lead
  units     : List TextUnit
  lines     : List (List Byte)
  lineStart : Bool
  format    : Format
  deriving DecidableEq, Repr

inductive Series where
  | draft
  | record
  deriving DecidableEq, Repr

/-- A committed line record (R93). -/
structure CommittedLine where
  series  : Series
  number  : Nat
  ordinal : Nat
  station : Nat
  brk     : Bool
  carried : Bool
  text    : List Byte
  strokes : Nat
  deriving DecidableEq, Repr

/-- The Transcript Builder (5.1). `carried` is the number of marked lines not yet committed (R99). -/
structure Tb where
  region           : Region
  carried          : Nat
  series           : Series
  nextDraft        : Nat
  nextRecord       : Option Nat
  horizon          : Nat
  ring             : List CommittedLine
  nextOrdinal      : Nat
  discardedLines   : Nat
  discardedStrokes : Nat
  deriving DecidableEq, Repr

/-! ## The courtroom line (06) -/

/-- A frame being assembled (R106): at most 363 bytes kept, all counted. -/
structure Assembly where
  bytes   : List Byte
  count   : Nat
  damaged : Bool
  own     : Bool
  deriving DecidableEq, Repr

/-- A good frame: heading byte and body. -/
structure Frame where
  heading : Byte
  body    : List Byte
  deriving DecidableEq, Repr

/-- The sources of the transmit slot (R115). -/
inductive Source where
  | custody
  | station
  | line
  | define
  | answer (number : Nat)
  | ask
  | tail
  deriving DecidableEq, Repr

/-- The transmit slot (6.7). In DRIVING: the characters (heading flag, byte) of the frame, and how many were read back equal. -/
inductive Slot where
  | empty
  | waiting (source : Source)
  | driving (source : Source) (chars : List (Bool × Byte)) (sent : Nat)
  deriving DecidableEq, Repr

inductive CustodyFrameKind where
  | claim
  | release
  | refuse (addressee : Nat)
  deriving DecidableEq, Repr

/-- A frame of the custody list (R116) with its attempt count. -/
structure CustodyFrame where
  kind     : CustodyFrameKind
  frame    : Frame
  attempts : Nat
  deriving DecidableEq, Repr

/-- The receive error counts (R112). -/
structure ErrorCounts where
  check   : Nat
  short   : Nat
  long    : Nat
  framing : Nat
  overrun : Nat
  total   : Nat
  deriving DecidableEq, Repr

/-- The Line Controller. `busySince` is the character time at which the line became busy; `held` says that it is busy because the
input stays at the start level past the stop bit of a damaged character (R105); `driver` is the driver enable output, set while a
character of the node's own is on the line (R117 to R121); `quiet` is the silence at which the quiet point was reached; `guardAt` is
the character time at which the turnaround guard expires. -/
structure Lnc where
  silence     : Nat
  busySince   : Option Nat
  held        : Bool
  driver      : Bool
  assembly    : Option Assembly
  guardAt     : Option Nat
  quiet       : Option Nat
  queue       : List Frame
  errors      : ErrorCounts
  slot        : Slot
  custodyList : List CustodyFrame
  aborted     : Nat
  txDropped   : Nat
  cutOff      : Nat
  deriving DecidableEq, Repr

/-! ## Publishing (07) -/

inductive CustodyState where
  | idle
  | shadow
  | claiming
  | onRecord
  | releasing
  deriving DecidableEq, Repr

/-- A TAIL image (R128) with its attempt count. -/
structure TailImage where
  series    : Series
  custody   : CustodyState
  committed : Nat
  firstOpen : Nat
  lines     : List (List Byte)
  attempts  : Nat
  deriving DecidableEq, Repr

/-- An entry of the LINE send queue (R130). -/
structure LineEntry where
  number   : Nat
  brk      : Bool
  text     : List Byte
  attempts : Nat
  deriving DecidableEq, Repr

/-- The answer form (R132). -/
inductive AnswerForm where
  | held (brk : Bool) (text : List Byte)
  | gone
  deriving DecidableEq, Repr

structure Answer where
  number   : Nat
  form     : AnswerForm
  attempts : Nat
  deriving DecidableEq, Repr

/-- An entry of the define send list (R134). -/
structure DefineSend where
  number   : Nat
  strokes  : List Stroke
  text     : List Byte
  attempts : Nat
  deriving DecidableEq, Repr

/-- The Publisher (7.1). A waiting or in-flight STATION is its attempt count: its fields are read at its start (R125). -/
structure Pub where
  beaconAt        : Option Ms
  stationWaiting  : Option Nat
  stationInFlight : Option Nat
  tailWaiting     : Option TailImage
  tailInFlight    : Option TailImage
  refreshAt       : Option Ms
  lineQueue       : List LineEntry
  answers         : List Answer
  defines         : List DefineSend
  nextDefine      : Nat
  signature       : Byte × Byte
  ownWeight       : Nat
  weightSum       : Nat
  share           : Nat
  muted           : Bool
  credit          : Nat
  remainder       : Nat
  creditMark      : Nat
  lineOverflow    : Nat
  answersDropped  : Nat
  defineSendLost  : Nat
  deriving DecidableEq, Repr

/-! ## Custody (08) -/

inductive SlotState where
  | heard
  | admitted
  | excluded
  | lapsed
  deriving DecidableEq, Repr

/-- A roster slot that holds a station (8.1). `refreshedAt` is the reading of the frame that last restarted the lapse timer
(R197). -/
structure RosterSlot where
  station     : Nat
  state       : SlotState
  newer       : Option (Byte × Byte)
  older       : Option (Byte × Byte)
  roles       : Nat
  custody     : CustodyState
  rank        : Nat
  flags       : Byte
  horizon     : Nat
  share       : Nat
  lapseAt     : Option Ms
  freeAt      : Option Ms
  lapsedAt    : Option Ms
  refreshedAt : Ms
  lastDefine  : Option Nat
  deriving DecidableEq, Repr

structure Roster where
  slots   : Vector (Option RosterSlot) 16
  refused : Nat
  deriving DecidableEq, Repr

inductive HandOver where
  | none
  | gathering
  | handingOver (target : Nat)
  deriving DecidableEq, Repr

structure Claim where
  station : Nat
  rank    : Nat
  horizon : Nat
  deriving DecidableEq, Repr

/-- The Custody Unit (8.3). `commitAllDue` is a commit-all requested of the Transcript Builder and not yet taken (R159). -/
structure Cu where
  state        : CustodyState
  prior        : Option CustodyState
  handOver     : HandOver
  hold         : Bool
  recordClosed : Bool
  conflict     : Bool
  claims       : List Claim
  claimAt      : Option Ms
  settleAt     : Option Ms
  commitAllDue : Bool
  deriving DecidableEq, Repr

/-! ## Viewing (09) -/

/-- What a tagged slot of the record store holds (R167). -/
inductive StoreState where
  | waiting (asks : Nat) (gapAt : Ms) (askOf : Nat)
  | lost
  | held (brk : Bool) (text : List Byte)
  deriving DecidableEq, Repr

/-- A tagged slot of the record store. -/
structure StoreSlot where
  index : Nat
  tag   : Nat
  state : StoreState
  deriving DecidableEq, Repr

inductive Followed where
  | station (number : Nat)
  | self
  deriving DecidableEq, Repr

inductive SlotMark where
  | none
  | named
  | released
  deriving DecidableEq, Repr

inductive PaneSource where
  | auto
  | station (number : Nat)
  | self
  deriving DecidableEq, Repr

/-- A pane's settings (R176); `pfx` is the prefix setting. -/
structure Pane where
  rows   : Nat
  source : PaneSource
  offset : Nat
  pfx    : Bool
  deriving DecidableEq, Repr

/-- An ASK of the ASK list (R174). -/
structure Ask where
  target   : Nat
  first    : Nat
  count    : Nat
  attempts : Nat
  deriving DecidableEq, Repr

/-- The Viewer (9.1). `store` lists the slots that are not EMPTY, by rising slot index. -/
structure Viewer where
  store     : List StoreSlot
  base      : Option Nat
  reach     : Option (Nat × Nat)
  followed  : Option Followed
  marks     : Vector SlotMark 16
  tails     : Vector (Option TailImage) 16
  asks      : List Ask
  paneA     : Option Pane
  paneB     : Option Pane
  asksLost  : Nat
  linesLost : Nat
  deriving DecidableEq, Repr

/-- A row record being sent (R182). -/
structure RowSend where
  row    : Nat
  record : List Byte
  given  : Nat
  deriving DecidableEq, Repr

/-- The Screen Port (9.8). `busyPin` is the BUSY input. -/
structure Screen where
  rows    : List (List Byte)
  dirty   : List Nat
  send    : Option RowSend
  busyPin : Bool
  deriving DecidableEq, Repr

/-! ## Host port (10) -/

inductive ShareMode where
  | dynamic
  | static
  deriving DecidableEq, Repr

inductive DefineSharing where
  | off
  | send
  | receive
  | both
  deriving DecidableEq, Repr

/-- The configuration record (10.4). `releaseToIdle` is the release-to setting: IDLE when set, SHADOW when clear. -/
structure Settings where
  station         : Nat
  writer          : Bool
  viewer          : Bool
  rank            : Nat
  audience        : BitVec 5
  recordAudience  : BitVec 5
  shadowAudience  : BitVec 5
  width           : Nat
  indent          : Nat
  pool            : Nat
  shareMode       : ShareMode
  shadowAllowance : Nat
  lapseTime       : Nat
  claimWait       : Nat
  settleWait      : Nat
  releaseToIdle   : Bool
  sharing         : DefineSharing
  debounce        : Nat
  graze           : Nat
  stuckLimit      : Nat
  resolveWait     : Nat
  undoStroke      : Stroke
  keyMap          : Vector Nat 28
  paneA           : Pane
  paneB           : Pane
  mask            : BitVec 16
  deriving DecidableEq, Repr

inductive ChangeCause where
  | taken
  | takenOver
  | released
  | closed
  | yielded
  | conflict
  deriving DecidableEq, Repr

inductive ClaimEnd where
  | refused
  | withdrawn
  | passed
  | noAnswer
  deriving DecidableEq, Repr

inductive DefineEnd where
  | done
  | full
  | fault
  | notFound
  | forgotten
  deriving DecidableEq, Repr

inductive ReceivedEnd where
  | applied
  | dropped
  | full
  | fault
  deriving DecidableEq, Repr

inductive RosterChange where
  | admitted
  | excluded
  | lapsed
  | removed
  deriving DecidableEq, Repr

/-- An event with its detail (10.9, 11.5), in priority order. -/
inductive Event where
  | stationConflict (station : Nat)
  | recordBreak (line : Nat)
  | recordEnd (discarded : Nat)
  | custodyChanged (cause : ChangeCause) (station line : Nat)
  | claimOutcome (outcome : ClaimEnd) (station reason : Nat)
  | notesFull (stroke : Nat)
  | notesNear (unexported : Nat)
  | keyStuck (contact key : Nat)
  | dictFault (layer : Nat) (kind : FaultKind) (addr : Nat)
  | defineResult (outcome : DefineEnd) (first : Stroke)
  | defineReceived (outcome : ReceivedEnd) (source : Nat)
  | followChanged (station : Nat)
  | lineLost (line : Nat)
  | exportMissed (ordinal : Nat)
  | rosterChanged (station : Nat) (change : RosterChange)
  | lineErrors (total : Nat)
  deriving DecidableEq, Repr

/-- A pending event latch (R198): the detail of the first occurrence and the occurrence count. -/
structure Latch where
  event : Event
  count : Nat
  deriving DecidableEq, Repr

/-- A host command in flight (R185). -/
structure HostCommand where
  code   : Byte
  params : List Byte
  deriving DecidableEq, Repr

/-- A response that is READY (R185). -/
structure Response where
  code : Byte
  data : List Byte
  deriving DecidableEq, Repr

/-- A LOAD or READ_DICT being served (R56, R189): the address of the operation requested, the bytes still to write or the
count still to read from there, and the bytes read so far. -/
inductive HostJob where
  | load (addr : Nat) (left : List Byte)
  | read (addr left : Nat) (got : List Byte)
  deriving DecidableEq, Repr

/-- The Local Control Port (10.1). `latches` element i - 1 is the event of priority i. `given` holds the bytes the port gave
in the last transaction (log 23). -/
structure Lcp where
  online     : Bool
  inFlight   : Option HostCommand
  response   : Option Response
  job        : Option HostJob
  config     : Option Settings
  lineCursor : Nat
  latches    : Vector (Option Latch) 16
  mask       : BitVec 16
  given      : List Byte
  deriving DecidableEq, Repr

/-! ## The machine -/

/-- The state of the part, block by block, and the queue of commands that are waiting, first in first out. -/
structure State where
  clock   : Clock
  kcu     : Kcu
  sq      : StrokeQueue
  notes   : NotesLog
  mem     : Memory
  du      : Du
  cache   : Cache
  arb     : Arbiter
  te      : Te
  tb      : Tb
  lnc     : Lnc
  pub     : Pub
  roster  : Roster
  cu      : Cu
  vw      : Viewer
  sp      : Screen
  lcp     : Lcp
  pending : List Instr
  deriving DecidableEq, Repr

/-- The machine stops with a fault: never. No row of the table stops the part (INVENTORY, Faults), so there is no
constructor; nobody raises one, and that is safe. -/
inductive Fault where
  deriving DecidableEq, Repr

/-- The model has no meaning for a command. -/
inductive Refusal where
  /-- An arm of `exec` still without a meaning, by the mnemonic of its row. Raised by such an arm only; safe. -/
  | notModelled (mnemonic : String)
  deriving DecidableEq, Repr

/-! ## Reset values, block by block -/

def Clock.reset : Clock := { ms := 0, us := 0, chars := 0 }

def Contact.reset : Contact :=
  { rawDown := false, acceptedDown := false, settleAt := none, mark := .none, stuckAt := none }

/-- The default key map (R3): contacts 1 to 23 are keys 1 to 23, contact 24 is `*`, contact 25 is `#`, 26 to 28 unmapped. -/
def defaultKeyMap : Vector Nat 28 :=
  #v[1, 2, 3, 4, 5, 6, 7, 8, 9, 10, 11, 12, 13, 14, 15, 16, 17, 18, 19, 20, 21, 22, 23, 10, 23, 0, 0, 0]

def Kcu.reset : Kcu :=
  { contacts := Vector.replicate 28 Contact.reset, keyMap := defaultKeyMap, debounce := 5, graze := 12, stuckLimit := 4,
    chord := none, nextStroke := 1, exhausted := false, grazes := 0 }

def StrokeQueue.reset : StrokeQueue := { records := [], dropPending := false, dropped := 0 }

def NotesLog.reset : NotesLog := { entries := [], unexported := 0, lost := 0 }

def Du.reset : Du :=
  { dir := none, queue := [], work := .idle, freeCells := [], heapTop := none, generation := 0, receivedLost := 0 }

def CacheSet.reset : CacheSet := { ways := Vector.replicate 4 none, recency := [] }

def Cache.reset : Cache := { sets := Vector.replicate 16 CacheSet.reset, hits := 0, misses := 0 }

def Arbiter.reset : Arbiter := { inService := none, batch := [], stacked := [] }

def Te.reset : Te :=
  { pendingBuf := [], walked := 0, positions := Vector.replicate 3 .root, table := Vector.replicate 8 [], phase := .idle,
    stepLayer := 0, walkReq := none, demand := .none, flushOwed := false, rewalkDue := false, inHand := none,
    resolveAt := none, kept := none, taken := 0, consumed := 0, lateUndo := 0, handings := [], retr := .idle, retrLost := 0 }

def Format.clear : Format := { cap := false, lower := false, attach := false, glueLast := false }

/-- The empty open region with a given base state: one empty line, line-start set. -/
def Region.empty (base : Format) : Region :=
  { lead := { lines := [[]], lineStart := true, base := base }, units := [], lines := [[]], lineStart := true, format := base }

def Tb.reset : Tb :=
  { region := Region.empty Format.clear, carried := 0, series := .draft, nextDraft := 1, nextRecord := none, horizon := 0,
    ring := [], nextOrdinal := 1, discardedLines := 0, discardedStrokes := 0 }

def ErrorCounts.reset : ErrorCounts := { check := 0, short := 0, long := 0, framing := 0, overrun := 0, total := 0 }

def Lnc.reset : Lnc :=
  { silence := 0, busySince := none, held := false, driver := false, assembly := none, guardAt := none, quiet := none, queue := [], errors := ErrorCounts.reset,
    slot := .empty, custodyList := [], aborted := 0, txDropped := 0, cutOff := 0 }

def Pub.reset : Pub :=
  { beaconAt := none, stationWaiting := none, stationInFlight := none, tailWaiting := none, tailInFlight := none,
    refreshAt := none, lineQueue := [], answers := [], defines := [], nextDefine := 0, signature := (0, 0), ownWeight := 0,
    weightSum := 0, share := 0, muted := false, credit := 0, remainder := 0, creditMark := 0, lineOverflow := 0,
    answersDropped := 0, defineSendLost := 0 }

def Roster.reset : Roster := { slots := Vector.replicate 16 none, refused := 0 }

def Cu.reset : Cu :=
  { state := .idle, prior := none, handOver := .none, hold := false, recordClosed := false, conflict := false, claims := [],
    claimAt := none, settleAt := none, commitAllDue := false }

def Viewer.reset : Viewer :=
  { store := [], base := none, reach := none, followed := none, marks := Vector.replicate 16 .none,
    tails := Vector.replicate 16 none, asks := [], paneA := none, paneB := none, asksLost := 0, linesLost := 0 }

def Screen.reset : Screen := { rows := [], dirty := [], send := none, busyPin := false }

def Lcp.reset : Lcp :=
  { online := false, inFlight := none, response := none, job := none, config := none, lineCursor := 1,
    latches := Vector.replicate 16 none, mask := BitVec.allOnes 16, given := [] }

/-- The machine right after power-up (the full-reset columns of every chapter). -/
def State.reset : State :=
  { clock := Clock.reset, kcu := Kcu.reset, sq := StrokeQueue.reset, notes := NotesLog.reset, mem := [], du := Du.reset,
    cache := Cache.reset, arb := Arbiter.reset, te := Te.reset, tb := Tb.reset, lnc := Lnc.reset, pub := Pub.reset,
    roster := Roster.reset, cu := Cu.reset, vw := Viewer.reset, sp := Screen.reset, lcp := Lcp.reset, pending := [] }

/-! ## One update per block (their lemmas: Laws/State.lean) -/

def State.setClock (s : State) (x : Clock) : State := { s with clock := x }
def State.setKcu (s : State) (x : Kcu) : State := { s with kcu := x }
def State.setSq (s : State) (x : StrokeQueue) : State := { s with sq := x }
def State.setNotes (s : State) (x : NotesLog) : State := { s with notes := x }
def State.setMem (s : State) (x : Memory) : State := { s with mem := x }
def State.setDu (s : State) (x : Du) : State := { s with du := x }
def State.setCache (s : State) (x : Cache) : State := { s with cache := x }
def State.setArb (s : State) (x : Arbiter) : State := { s with arb := x }
def State.setTe (s : State) (x : Te) : State := { s with te := x }
def State.setTb (s : State) (x : Tb) : State := { s with tb := x }
def State.setLnc (s : State) (x : Lnc) : State := { s with lnc := x }
def State.setPub (s : State) (x : Pub) : State := { s with pub := x }
def State.setRoster (s : State) (x : Roster) : State := { s with roster := x }
def State.setCu (s : State) (x : Cu) : State := { s with cu := x }
def State.setVw (s : State) (x : Viewer) : State := { s with vw := x }
def State.setSp (s : State) (x : Screen) : State := { s with sp := x }
def State.setLcp (s : State) (x : Lcp) : State := { s with lcp := x }
def State.setPending (s : State) (x : List Instr) : State := { s with pending := x }

end Sys2Proof.Machine
end

