-- ==== Sys2Proof/Machine/Ops.lean ====
section
/-! DEFINITION. The named operations over the state that the families share: counts, clocks and timers, the host's event
latches, dictionary memory, the Store Arbiter. -/

namespace Sys2Proof.Machine

/-! ## Counts and settings -/

/-- One more, stopping at 4,294,967,295 (the saturating counts). -/
def satSucc (n : Nat) : Nat := if n < 4294967295 then n + 1 else n

/-- The last record line number (00, Record lines and pages). -/
def maxLine : Nat := 16777215

/-- The default configuration record (10.4). -/
def Settings.default : Settings :=
  { station := 0, writer := false, viewer := false, rank := 1, audience := 31#5, recordAudience := 31#5, shadowAudience := 9#5,
    width := 56, indent := 5, pool := 800, shareMode := .dynamic, shadowAllowance := 3, lapseTime := 3, claimWait := 3,
    settleWait := 250, releaseToIdle := false, sharing := .both, debounce := 5, graze := 12, stuckLimit := 4,
    resolveWait := 600, undoStroke := 512#23, keyMap := defaultKeyMap,
    paneA := { rows := 25, source := .auto, offset := 0, pfx := true },
    paneB := { rows := 0, source := .auto, offset := 0, pfx := true }, mask := BitVec.allOnes 16 }

/-- The configuration in force (R191): while ONLINE, the record held. -/
def State.cfg (s : State) : Settings := s.lcp.config.getD Settings.default

/-- The node's own station number. -/
def State.own (s : State) : Nat := s.cfg.station

def State.online (s : State) : Bool := s.lcp.online

/-- ONLINE at a node whose roles include viewer: where the Viewer acts (09). -/
def State.viewing (s : State) : Bool := s.lcp.online && s.cfg.viewer

/-! ## Lists -/

/-- The list with its first element replaced. -/
def mapHead {α : Type} (f : α → α) : List α → List α
  | [] => []
  | x :: xs => f x :: xs

/-- The list without element `i`. -/
def dropAt {α : Type} : List α → Nat → List α
  | [], _ => []
  | _ :: xs, 0 => xs
  | x :: xs, i + 1 => x :: dropAt xs i

/-! ## Clocks and timers -/

/-- The clock `n` character times (44 µs each, R105) later. -/
def Clock.advance (c : Clock) (n : Nat) : Clock :=
  { ms := c.ms + BitVec.ofNat 32 ((c.us + 44 * n) / 1000), us := (c.us + 44 * n) % 1000, chars := c.chars + n }

/-- Silence, and the quiet point reached without a guard at silence 3 (R105, R113), `n` character times later. On a busy line
silence does not count. -/
def Lnc.advance (l : Lnc) (n : Nat) : Lnc :=
  match l.busySince with
  | some _ => l
  | none =>
    { l with silence := l.silence + n,
             quiet := if l.quiet = none ∧ l.guardAt = none ∧ 3 ≤ l.silence + n then some 3 else l.quiet }

/-- The row send, `n` character times later: one byte each while BUSY is low (R182; the pace is log 17). -/
def Screen.advance (p : Screen) (n : Nat) : Screen :=
  match p.send with
  | none => p
  | some w => if p.busyPin then p else { p with send := some { w with given := min w.record.length (w.given + n) } }

/-- Time passes: `n` character times (log 2). -/
def State.advance (s : State) (n : Nat) : State :=
  { s with clock := s.clock.advance n, lnc := s.lnc.advance n, sp := s.sp.advance n }

/-- The reading a timer started now for `d` milliseconds expires at. -/
def State.after (s : State) (d : Nat) : Ms := s.clock.ms + BitVec.ofNat 32 d

/-- The clock has reached the reading `t`: differences of readings are modulo 2^32 (R1). -/
def reached (now t : Ms) : Bool := decide ((now - t).toNat < 2147483648)

/-- The character times from the clock `c` until it reads `t`. -/
def Clock.charsTo (c : Clock) (t : Ms) : Nat := (1000 * (t - c.ms).toNat - c.us + 43) / 44

/-- The state at the expiry `t` of a millisecond timer: at once where the clock has reached `t`, otherwise when it does
(log 3). -/
def State.reachMs (s : State) (t : Ms) : State :=
  if reached s.clock.ms t then s else s.advance (s.clock.charsTo t)

/-- The state when the character-time count has reached `t`. -/
def State.reachChars (s : State) (t : Nat) : State := s.advance (t - s.clock.chars)

/-! ## Events (10.9) -/

/-- The priority of an event (10.9), 1 to 16. -/
def Event.priority : Event → Nat
  | .stationConflict _ => 1
  | .recordBreak _ => 2
  | .recordEnd _ => 3
  | .custodyChanged _ _ _ => 4
  | .claimOutcome _ _ _ => 5
  | .notesFull _ => 6
  | .notesNear _ => 7
  | .keyStuck _ _ => 8
  | .dictFault _ _ _ => 9
  | .defineResult _ _ => 10
  | .defineReceived _ _ => 11
  | .followChanged _ => 12
  | .lineLost _ => 13
  | .exportMissed _ => 14
  | .rosterChanged _ _ => 15
  | .lineErrors _ => 16

/-- The latch of the event of priority `p`. -/
def Lcp.latch (l : Lcp) (p : Nat) : Option Latch := (l.latches[p - 1]?).getD none

/-- A clear latch takes the event with count 1; a pending one keeps its detail and counts, stopping at 255 (R198). -/
def latchWith (e : Event) : Option Latch → Latch
  | none => { event := e, count := 1 }
  | some l => { l with count := if l.count < 255 then l.count + 1 else l.count }

def Lcp.latched (l : Lcp) (e : Event) : Lcp :=
  { l with latches := l.latches.setIfInBounds (e.priority - 1) (some (latchWith e (l.latch e.priority))) }

/-- A block latches an event, whatever the mask (R198). -/
def State.latch (s : State) (e : Event) : State := s.setLcp (s.lcp.latched e)

/-! ## Dictionary memory (2.1) -/

/-- What an unlisted address reads as (log 1). -/
def Memory.unlisted : Byte := 0

/-- One past the last address (R19). -/
def memSize : Nat := 16777216

def Memory.byteAt : Memory → Nat → Byte
  | [], _ => Memory.unlisted
  | (b, v) :: rest, a => if a = b then v else Memory.byteAt rest a

/-- Writing one byte keeps the listed addresses rising and lists no byte equal to the unlisted one. -/
def Memory.setByte : Memory → Nat → Byte → Memory
  | [], a, v => if v = Memory.unlisted then [] else [(a, v)]
  | (b, w) :: rest, a, v =>
    if a < b then (if v = Memory.unlisted then (b, w) :: rest else (a, v) :: (b, w) :: rest)
    else if a = b then (if v = Memory.unlisted then rest else (a, v) :: rest)
    else (b, w) :: Memory.setByte rest a v

/-- The `n` bytes from address `a`, lowest address first. -/
def Memory.bytesAt (m : Memory) (a : Nat) : Nat → List Byte
  | 0 => []
  | n + 1 => Memory.byteAt m a :: Memory.bytesAt m (a + 1) n

/-- The memory with `bytes` placed from address `a`. -/
def Memory.setBytes (m : Memory) (a : Nat) : List Byte → Memory
  | [] => m
  | v :: rest => Memory.setBytes (Memory.setByte m a v) (a + 1) rest

/-- The canonical form: addresses rising and inside the memory from `lo`, no byte equal to the unlisted one. -/
def Memory.wfFrom (lo : Nat) : Memory → Bool
  | [] => true
  | (a, v) :: rest => decide (lo ≤ a) && decide (a < memSize) && decide (v ≠ Memory.unlisted) && Memory.wfFrom (a + 1) rest

def Memory.wf (m : Memory) : Bool := Memory.wfFrom 0 m

/-- The number a run of bytes holds, low byte first (00, Numbers). -/
def leNat : List Byte → Nat
  | [] => 0
  | b :: rest => b.toNat + 256 * leNat rest

/-- The `n` bytes of a number, low byte first. -/
def leBytes : Nat → Nat → List Byte
  | 0, _ => []
  | n + 1, x => BitVec.ofNat 8 x :: leBytes n (x / 256)

/-- The `n` bytes of `bs` from offset `i`, as a number. -/
def fieldAt (bs : List Byte) (i n : Nat) : Nat := leNat ((bs.drop i).take n)

/-- Byte `i` of `bs`, 0 past its end. -/
def byteOf (bs : List Byte) (i : Nat) : Byte := bs.getD i 0

/-- `bs` with the bytes from offset `i` replaced by `new`. -/
def patch (bs : List Byte) (i : Nat) (new : List Byte) : List Byte := bs.take i ++ new ++ bs.drop (i + new.length)

/-! ## The Store Arbiter (3.6, 3.7) -/

/-- The fixed priority of the classes (3.6), 1 being highest. -/
def MemClass.priority : MemClass → Nat
  | .defn => 1
  | .walk => 2
  | .retr => 3
  | .host => 4

/-- The stacked set with a request more, in priority order. -/
def stackRequest (r : Request) : List Request → List Request
  | [] => [r]
  | q :: rest => if r.cls.priority < q.cls.priority then r :: q :: rest else q :: stackRequest r rest

/-- A request arrives (R53): granted at once on an idle port, otherwise it joins the stacked set. -/
def Arbiter.request (a : Arbiter) (r : Request) : Arbiter :=
  if a.inService = none ∧ a.batch = [] then { a with inService := some r }
  else { a with stacked := stackRequest r a.stacked }

/-- The operation in service has ended (R54): the next batch member, else the stacked set as the new batch, else idle. -/
def Arbiter.next (a : Arbiter) : Arbiter :=
  match a.batch with
  | r :: rest => { a with inService := some r, batch := rest }
  | [] =>
    match a.stacked with
    | r :: rest => { inService := some r, batch := rest, stacked := [] }
    | [] => { a with inService := none }

/-- What a granted operation leaves in memory (R52). The part issues none that runs past the last address (R19): one that would
places nothing (log 28). -/
def Memory.served (m : Memory) : MemOp → Memory
  | .read _ _ => m
  | .write a bs => if a + bs.length ≤ memSize then m.setBytes a bs else m

/-- What a granted operation gives its requester (R52). -/
def Memory.answer (m : Memory) : MemOp → List Byte
  | .read a n => m.bytesAt a n
  | .write _ _ => []

def State.request (s : State) (cls : MemClass) (op : MemOp) : State := s.setArb (s.arb.request { cls := cls, op := op })

/-- The end of the operation in service: its effect on memory, and the next grant (R52, R54). -/
def State.endOperation (s : State) (r : Request) : State :=
  { s with mem := s.mem.served r.op, arb := s.arb.next }

/-- The operation in service, where it is of class `c`. -/
def State.serving (s : State) (c : MemClass) : Option Request :=
  match s.arb.inService with
  | some r => if r.cls = c then some r else none
  | none => none

/-- The memory after a reset has served the operation in service to its end (R58). -/
def State.memAtReset (s : State) : Memory :=
  match s.arb.inService with
  | some r => s.mem.served r.op
  | none => s.mem

end Sys2Proof.Machine
end

