-- ==== Sys2Proof/Machine/Flags.lean ====
section
/-! DEFINITION. Every flag byte and code of the formats (11), in both directions, and the flags computed from state: port
status, ATTN, the event mask. -/

namespace Sys2Proof.Machine

/-- A byte from its eight bits, bit 0 first. -/
def packBits : List Bool → Byte
  | [] => 0
  | b :: rest => (if b then 1 else 0) + 2 * packBits rest

def boolByte (b : Bool) : Byte := if b then 1 else 0

/-- Whether the bits of a byte from bit `n` up are all 0. -/
def clearFrom (b : Byte) (n : Nat) : Bool := decide (b.toNat < 2 ^ n)

/-! ## Codes shared by the layouts (11.1) -/

def CustodyState.code : CustodyState → Nat
  | .idle => 0
  | .shadow => 1
  | .claiming => 2
  | .onRecord => 3
  | .releasing => 4

def CustodyState.ofCode : Nat → Option CustodyState
  | 0 => some .idle
  | 1 => some .shadow
  | 2 => some .claiming
  | 3 => some .onRecord
  | 4 => some .releasing
  | _ => none

/-- The states of a holder. -/
def CustodyState.holds : CustodyState → Bool
  | .onRecord => true
  | .releasing => true
  | _ => false

def Series.code : Series → Nat
  | .draft => 0
  | .record => 1

def Series.ofCode : Nat → Option Series
  | 0 => some .draft
  | 1 => some .record
  | _ => none

def SlotState.code : SlotState → Nat
  | .heard => 0
  | .admitted => 1
  | .excluded => 2
  | .lapsed => 3

def Settings.rolesCode (c : Settings) : Nat := (if c.writer then 1 else 0) + (if c.viewer then 2 else 0)

def PaneSource.ofCode (n : Nat) : Option PaneSource :=
  if n = 0 then some .auto else if n ≤ 30 then some (.station n) else if n = 31 then some .self else none

def FaultKind.code : FaultKind → Nat
  | .address => 0
  | .spare => 1
  | .exponent => 2
  | .length => 3
  | .textRange => 4
  | .chainLimit => 5
  | .textCode => 6
  | .region => 7
  | .shared => 8
  | .duplicate => 9

def ChangeCause.code : ChangeCause → Nat
  | .taken => 0
  | .takenOver => 1
  | .released => 2
  | .closed => 3
  | .yielded => 4
  | .conflict => 5

def ClaimEnd.code : ClaimEnd → Nat
  | .refused => 0
  | .withdrawn => 1
  | .passed => 2
  | .noAnswer => 3

def DefineEnd.code : DefineEnd → Nat
  | .done => 0
  | .full => 1
  | .fault => 2
  | .notFound => 3
  | .forgotten => 4

def ReceivedEnd.code : ReceivedEnd → Nat
  | .applied => 0
  | .dropped => 1
  | .full => 2
  | .fault => 3

def RosterChange.code : RosterChange → Nat
  | .admitted => 1
  | .excluded => 2
  | .lapsed => 3
  | .removed => 4

/-- The codes of the TE phase in READ_STATUS, the model's choice (log 19). -/
def TePhase.code : TePhase → Nat
  | .idle => 0
  | .step => 1
  | .fetch => 2
  | .hold => 3

/-- The codes of the hand-over in READ_STATUS, the model's choice (log 19). -/
def HandOver.code : HandOver → Nat
  | .none => 0
  | .gathering => 1
  | .handingOver _ => 2

/-- The target of a hand-over in READ_STATUS, 0 without one (log 19). -/
def HandOver.target : HandOver → Nat
  | .handingOver t => t
  | _ => 0

/-! ## Cell flags (2.5, 11.2) -/

def cellHasText (flags : Byte) : Bool := flags.getLsbD 0
def cellHasNext (flags : Byte) : Bool := flags.getLsbD 1
def cellFixed (flags : Byte) : Bool := flags.getLsbD 2

def cellFlags (hasText hasNext fixed : Bool) : Byte := packBits [hasText, hasNext, fixed]

/-! ## Line frame flags (11.3) -/

def stationFlags (hold conflict muted : Bool) : Byte := packBits [hold, conflict, muted]

def lineFlags (brk answer gone : Bool) : Byte := packBits [brk, answer, gone]

/-- The carry bits of a RELEASE: CAP and ATTACH (R160). -/
def carryBits (f : Format) : Byte := packBits [f.cap, f.attach]

/-- WRITERS, the audience of CLAIM and DEFINE frames (6.2). -/
def audienceWriters : BitVec 5 := 1#5

/-! ## Events: mask, ATTN, port status (R184, R200) -/

/-- The enable of the event of priority `p` in a mask (11.4). -/
def maskEnables (mask : BitVec 16) (p : Nat) : Bool := mask.getLsbD (p - 1)

/-- The priorities whose latches are pending and enabled, highest priority first. -/
def Lcp.offered (l : Lcp) : List Nat :=
  (List.range' 1 16).filter fun p => (l.latch p).isSome && maskEnables l.mask p

/-- ATTN: some event is pending with its enable set (R200). -/
def Lcp.attn (l : Lcp) : Bool := !l.offered.isEmpty

def State.attn (s : State) : Bool := s.lcp.attn

/-- The port status byte (R184, 11.4). -/
def Lcp.status (l : Lcp) : Byte := packBits [l.online, l.inFlight.isSome, l.response.isSome, l.attn]

/-! ## Event detail bytes (11.5) -/

/-- The fields of an event's detail (11.5). A starting number of 16,777,216 (R154, R156) does not fit its three bytes and is given by
its low three bytes, which is the model's choice (log 33). -/
def Event.detailFields : Event → List Byte
  | .stationConflict n => leBytes 1 n
  | .recordBreak n => leBytes 3 n
  | .recordEnd n => leBytes 4 n
  | .custodyChanged c st n => leBytes 1 c.code ++ leBytes 1 st ++ leBytes 3 n
  | .claimOutcome o st r => leBytes 1 o.code ++ leBytes 1 st ++ leBytes 1 r
  | .notesFull n => leBytes 4 n
  | .notesNear n => leBytes 2 n
  | .keyStuck c k => leBytes 1 c ++ leBytes 1 k
  | .dictFault l k a => leBytes 1 l ++ leBytes 1 k.code ++ leBytes 3 a
  | .defineResult o f => leBytes 1 o.code ++ leBytes 3 f.toNat
  | .defineReceived o n => leBytes 1 o.code ++ leBytes 1 n
  | .followChanged n => leBytes 1 n
  | .lineLost n => leBytes 3 n
  | .exportMissed n => leBytes 4 n
  | .rosterChanged n c => leBytes 1 n ++ leBytes 1 c.code
  | .lineErrors n => leBytes 4 n

/-- The six detail bytes; those an event does not use are 0. -/
def Event.detail (e : Event) : List Byte := (e.detailFields ++ List.replicate 6 0).take 6

end Sys2Proof.Machine
end

