-- ==== Sys2Proof/Machine/Operands.lean ====
section
/-! DEFINITION. Every operand form: what the bytes of a frame body, a host parameter block, a dictionary cell or a
translation text stand for (02, 10, 11), and the frame check. -/

namespace Sys2Proof.Machine

/-! ## Strokes and texts -/

/-- A stroke value from its 3 bytes: not 0, no bit above key 23 (R29). -/
def strokeOf (n : Nat) : Option Stroke := if 1 ≤ n ∧ n < 8388608 then some (BitVec.ofNat 23 n) else none

/-- `n` stroke values of 3 bytes each from the front of `bs`. -/
def strokesOf : Nat → List Byte → Option (List Stroke)
  | 0, _ => some []
  | n + 1, bs =>
    match strokeOf (fieldAt bs 0 3), strokesOf n (bs.drop 3) with
    | some s, some rest => some (s :: rest)
    | _, _ => none

/-- The bytes of the translation text code (R28). -/
def inTextCode (b : Byte) : Bool := (decide (1 ≤ b.toNat) && decide (b.toNat ≤ 11)) || (decide (32 ≤ b.toNat) && decide (b.toNat ≤ 126))

/-- The command marks of the text code (R28). -/
def isCommandMark (b : Byte) : Bool := decide (8 ≤ b.toNat) && decide (b.toNat ≤ 11)

/-- A text without its command marks (R69, R76). -/
def withoutCommands (text : List Byte) : List Byte := text.filter fun b => !isCommandMark b

/-- A text of 1 to 120 bytes of the code (R29). -/
def textValid (text : List Byte) : Bool := decide (1 ≤ text.length) && decide (text.length ≤ 120) && text.all inTextCode

/-- The bytes of a string of plain characters. -/
def bytesOf (str : String) : List Byte := str.toList.map fun c => BitVec.ofNat 8 c.toNat

def spaces (n : Nat) : List Byte := List.replicate n 32

/-- `bs` right-aligned in `n` characters. -/
def rightAlign (n : Nat) (bs : List Byte) : List Byte := spaces (n - bs.length) ++ bs

/-- A number in decimal digits, least significant first, with `fuel` digits at most. -/
def digitsRev : Nat → Nat → List Byte
  | 0, _ => []
  | fuel + 1, n => BitVec.ofNat 8 (48 + n % 10) :: (if n < 10 then [] else digitsRev fuel (n / 10))

/-- A number in decimal. -/
def decimal (n : Nat) : List Byte := (digitsRev 20 n).reverse

/-! ## Pages (00, R102) -/

def pageOf (n : Nat) : Nat := (n - 1) / 25 + 1
def lineOnPage (n : Nat) : Nat := (n - 1) % 25 + 1

/-- `page:line` as a pane shows it: a page above 9,999 as its last four digits, zero-filled (R177). -/
def pageLine (n : Nat) : List Byte :=
  (if pageOf n ≤ 9999 then decimal (pageOf n)
   else (List.replicate 4 48 ++ decimal (pageOf n % 10000)).drop (decimal (pageOf n % 10000)).length)
  ++ [58] ++ decimal (lineOnPage n)

/-! ## Dictionary structures (2.3 to 2.5, 11.2) -/

/-- The fold of a stroke value (R23). -/
def fold (v : Stroke) : Nat := (v ^^^ (v >>> 11)).toNat

/-- The bucket of a stroke value in a table with exponent `b` (R23). -/
def bucketOf (v : Stroke) (b : Nat) : Nat := fold v % 2 ^ b

/-- The bytes a level table takes (R22). -/
def tableBytes (b : Nat) : Nat := 8 + 3 * 2 ^ b

/-- The whole cells a CASE table takes (R22). -/
def tableCells (b : Nat) : Nat := (tableBytes b + 15) / 16

/-- The fields of a cell (2.5), from its 16 bytes. -/
structure CellData where
  stroke : Nat
  flags  : Byte
  text   : TextRef
  next   : Nat
  link   : Nat
  origin : Nat
  spare  : Byte
  deriving DecidableEq, Repr

def CellData.ofBytes (bs : List Byte) : CellData :=
  { stroke := fieldAt bs 0 3, flags := byteOf bs 3, text := { addr := fieldAt bs 4 3, len := fieldAt bs 7 1 },
    next := fieldAt bs 8 3, link := fieldAt bs 11 3, origin := fieldAt bs 14 1, spare := byteOf bs 15 }

def CellData.hasText (c : CellData) : Bool := cellHasText c.flags
def CellData.hasNext (c : CellData) : Bool := cellHasNext c.flags

/-- What a cell found at `addr` gives its requester (R25): a field its flag marks absent is not used (R24). -/
def CellData.content (c : CellData) (addr : Nat) : CellContent :=
  { cell := addr, fixed := cellFixed c.flags, text := if c.hasText then some c.text else none,
    next := if c.hasNext then some c.next else none }

/-- The 16 bytes of a new cell (R35). The byte at an offset of a field its flags mark absent is free (log 10). -/
def newCellBytes (absent : Nat → Byte) (stroke : Stroke) (text : Option TextRef) (next : Option Nat) (link origin : Nat) : List Byte :=
  leBytes 3 stroke.toNat ++ [cellFlags text.isSome next.isSome false]
    ++ (match text with | some t => leBytes 3 t.addr ++ leBytes 1 t.len | none => (List.range' 4 4).map absent)
    ++ (match next with | some a => leBytes 3 a | none => (List.range' 8 3).map absent)
    ++ leBytes 3 link ++ (if text.isSome then leBytes 1 origin else [absent 14]) ++ [0]

/-- A table header as the DU writes it: exponent, cell count, zeros (R22). -/
def headerBytes (b count : Nat) : List Byte := leBytes 1 b ++ leBytes 2 count ++ leBytes 5 0

/-- A new CASE table for one cell (R35): b = 4, count 1, one bucket head, zeros in the rest of its four cells. -/
def newTableBytes (stroke : Stroke) (cell : Nat) : List Byte :=
  patch (headerBytes 4 1 ++ List.replicate 56 0) (8 + 3 * bucketOf stroke 4) (leBytes 3 cell)

/-- The directory's fields (11.2). -/
def Directory.ofBytes (bs : List Byte) : Directory :=
  { caseRoot := fieldAt bs 4 3, jobRoot := fieldAt bs 8 3, mainRoot := fieldAt bs 12 3,
    jobTextStart := fieldAt bs 16 3, jobTextSize := fieldAt bs 20 3, mainTextStart := fieldAt bs 24 3,
    mainTextSize := fieldAt bs 28 3, cellFirst := fieldAt bs 32 3, cellCount := fieldAt bs 36 2,
    heapStart := fieldAt bs 40 3, heapSize := fieldAt bs 44 3 }

/-! ## Line frames (6.2, 6.3, 11.3) -/

inductive FrameKind where
  | station
  | tail
  | line
  | claim
  | release
  | refuse
  | define
  | ask
  deriving DecidableEq, Repr

def FrameKind.code : FrameKind → Nat
  | .station => 0
  | .tail => 1
  | .line => 2
  | .claim => 3
  | .release => 4
  | .refuse => 5
  | .define => 6
  | .ask => 7

def FrameKind.ofCode : Nat → FrameKind
  | 0 => .station
  | 1 => .tail
  | 2 => .line
  | 3 => .claim
  | 4 => .release
  | 5 => .refuse
  | 6 => .define
  | _ => .ask

/-- The minimum body of a kind, in bytes (6.2). -/
def FrameKind.minBody : FrameKind → Nat
  | .station => 12
  | .tail => 10
  | .line => 6
  | .claim => 5
  | .release => 9
  | .refuse => 3
  | .define => 9
  | .ask => 6

/-- The backoff class base of a kind (6.2). -/
def FrameKind.backoffBase : FrameKind → Nat
  | .station => 2
  | .tail => 4
  | .line => 4
  | .claim => 0
  | .release => 0
  | .refuse => 0
  | .define => 4
  | .ask => 4

/-- The heading byte: kind × 32 + audience. -/
def headingByte (k : FrameKind) (audience : BitVec 5) : Byte := BitVec.ofNat 8 (k.code * 32 + audience.toNat)

def Frame.kind (f : Frame) : FrameKind := FrameKind.ofCode (f.heading.toNat / 32)
def Frame.audience (f : Frame) : BitVec 5 := BitVec.ofNat 5 f.heading.toNat

/-- Body byte 0: a station number in every kind. -/
def Frame.station (f : Frame) : Nat := (byteOf f.body 0).toNat

/-- The two check sums A and B over the bytes in order, each modulo 255 (R107). -/
def checkSums (bs : List Byte) : Nat × Nat :=
  bs.foldl (fun ab b => ((ab.1 + b.toNat) % 255, (ab.2 + (ab.1 + b.toNat) % 255) % 255)) (0, 0)

/-- The characters of a frame as they are sent: heading with its flag, body, check characters (6.2, R107). -/
def Frame.chars (f : Frame) : List (Bool × Byte) :=
  (true, f.heading) ::
    ((f.body ++ leBytes 1 (checkSums (f.heading :: f.body)).1 ++ leBytes 1 (checkSums (f.heading :: f.body)).2).map fun b => (false, b))

/-- A STATION body (11.3, R202). -/
structure StationBody where
  station : Nat
  roles   : Nat
  rank    : Nat
  custody : CustodyState
  flags   : Byte
  sig     : Byte × Byte
  horizon : Nat
  share   : Nat
  deriving DecidableEq, Repr

def StationBody.parse (b : List Byte) : Option StationBody :=
  match CustodyState.ofCode (fieldAt b 3 1) with
  | some cs =>
    if 12 ≤ b.length ∧ fieldAt b 1 1 ≤ 3 ∧ 1 ≤ fieldAt b 2 1 ∧ fieldAt b 2 1 ≤ 3 ∧ clearFrom (byteOf b 4) 3 = true then
      some { station := fieldAt b 0 1, roles := fieldAt b 1 1, rank := fieldAt b 2 1, custody := cs, flags := byteOf b 4,
             sig := (byteOf b 5, byteOf b 6), horizon := fieldAt b 7 3, share := fieldAt b 10 2 }
    else none
  | none => none

/-- `k` lines, each a length byte of at most 80 and its characters. -/
def tailLines : Nat → List Byte → Option (List (List Byte))
  | 0, _ => some []
  | _ + 1, [] => none
  | k + 1, n :: rest =>
    if n.toNat ≤ 80 ∧ n.toNat ≤ rest.length then
      match tailLines k (rest.drop n.toNat) with
      | some ls => some (rest.take n.toNat :: ls)
      | none => none
    else none

structure TailBody where
  station : Nat
  image   : TailImage
  deriving DecidableEq, Repr

def TailBody.parse (b : List Byte) : Option TailBody :=
  match Series.ofCode (fieldAt b 1 1), CustodyState.ofCode (fieldAt b 2 1), tailLines (fieldAt b 9 1) (b.drop 10) with
  | some sr, some cs, some ls =>
    if 10 ≤ b.length ∧ 1 ≤ fieldAt b 9 1 ∧ fieldAt b 9 1 ≤ 4 then
      some { station := fieldAt b 0 1,
             image := { series := sr, custody := cs, committed := fieldAt b 3 3, firstOpen := fieldAt b 6 3, lines := ls,
                        attempts := 0 } }
    else none
  | _, _, _ => none

structure LineBody where
  station : Nat
  number  : Nat
  brk     : Bool
  gone    : Bool
  text    : List Byte
  deriving DecidableEq, Repr

def LineBody.parse (b : List Byte) : Option LineBody :=
  if 6 ≤ b.length ∧ clearFrom (byteOf b 4) 3 = true ∧ fieldAt b 5 1 ≤ 80 ∧ 6 + fieldAt b 5 1 ≤ b.length
      ∧ ¬ ((byteOf b 4).getLsbD 2 = true ∧ fieldAt b 5 1 ≠ 0) then
    some { station := fieldAt b 0 1, number := fieldAt b 1 3, brk := (byteOf b 4).getLsbD 0, gone := (byteOf b 4).getLsbD 2,
           text := (b.drop 6).take (fieldAt b 5 1) }
  else none

def Claim.parse (b : List Byte) : Option Claim :=
  if 5 ≤ b.length ∧ 1 ≤ fieldAt b 1 1 ∧ fieldAt b 1 1 ≤ 3 then
    some { station := fieldAt b 0 1, rank := fieldAt b 1 1, horizon := fieldAt b 2 3 }
  else none

structure ReleaseBody where
  station : Nat
  target  : Nat
  last    : Nat
  next    : Nat
  cap     : Bool
  attach  : Bool
  deriving DecidableEq, Repr

def ReleaseBody.parse (b : List Byte) : Option ReleaseBody :=
  if 9 ≤ b.length ∧ clearFrom (byteOf b 8) 2 = true then
    some { station := fieldAt b 0 1, target := fieldAt b 1 1, last := fieldAt b 2 3, next := fieldAt b 5 3,
           cap := (byteOf b 8).getLsbD 0, attach := (byteOf b 8).getLsbD 1 }
  else none

structure RefuseBody where
  addressee : Nat
  station   : Nat
  reason    : Nat
  deriving DecidableEq, Repr

def RefuseBody.parse (b : List Byte) : Option RefuseBody :=
  if 3 ≤ b.length ∧ 1 ≤ fieldAt b 2 1 ∧ fieldAt b 2 1 ≤ 2 then
    some { addressee := fieldAt b 0 1, station := fieldAt b 1 1, reason := fieldAt b 2 1 }
  else none

/-- The body of a DEFINE frame after its station and define number: rank, strokes, text (R29, R30 step 4, R202). -/
structure DefineBody where
  rank    : Nat
  strokes : List Stroke
  text    : List Byte
  deriving DecidableEq, Repr

def DefineBody.parse (b : List Byte) : Option DefineBody :=
  match strokesOf (fieldAt b 3 1) (b.drop 4) with
  | some strokes =>
    if 1 ≤ fieldAt b 2 1 ∧ fieldAt b 2 1 ≤ 3 ∧ 1 ≤ fieldAt b 3 1 ∧ fieldAt b 3 1 ≤ 8
        ∧ 6 + 3 * fieldAt b 3 1 + fieldAt b (4 + 3 * fieldAt b 3 1) 2 ≤ b.length
        ∧ textValid ((b.drop (6 + 3 * fieldAt b 3 1)).take (fieldAt b (4 + 3 * fieldAt b 3 1) 2)) = true then
      some { rank := fieldAt b 2 1, strokes := strokes,
             text := (b.drop (6 + 3 * fieldAt b 3 1)).take (fieldAt b (4 + 3 * fieldAt b 3 1) 2) }
    else none
  | none => none

structure AskBody where
  target : Nat
  asker  : Nat
  first  : Nat
  count  : Nat
  deriving DecidableEq, Repr

def AskBody.parse (b : List Byte) : Option AskBody :=
  if 6 ≤ b.length then
    some { target := fieldAt b 0 1, asker := fieldAt b 1 1, first := fieldAt b 2 3, count := fieldAt b 5 1 }
  else none

/-! ## Host parameter blocks (10, 11.4) -/

/-- A pane's five bytes: rows, source, offset, prefix (11.4). -/
def Pane.parse (b : List Byte) : Option Pane :=
  match PaneSource.ofCode (fieldAt b 1 1) with
  | some src =>
    if fieldAt b 0 1 ≤ 32 ∧ fieldAt b 2 2 ≤ 511 ∧ fieldAt b 4 1 ≤ 1 then
      some { rows := fieldAt b 0 1, source := src, offset := fieldAt b 2 2, pfx := (byteOf b 4).getLsbD 0 }
    else none
  | none => none

def ShareMode.ofCode : Nat → Option ShareMode
  | 0 => some .dynamic
  | 1 => some .static
  | _ => none

def DefineSharing.ofCode : Nat → Option DefineSharing
  | 0 => some .off
  | 1 => some .send
  | 2 => some .receive
  | 3 => some .both
  | _ => none

/-- The key map's 28 entries, each 0 to 23. -/
def keyMapOf (b : List Byte) : Option (Vector Nat 28) :=
  if (List.range 28).all (fun i => decide ((byteOf b i).toNat ≤ 23)) then some (Vector.ofFn fun i => (byteOf b i.val).toNat)
  else none

/-- Whether the plain number fields of a configuration record lie in their ranges (10.4). -/
def settingsInRange (b : List Byte) : Bool :=
  decide (fieldAt b 0 1 ≤ 30) && decide (fieldAt b 1 1 ≤ 3) && decide (1 ≤ fieldAt b 2 1) && decide (fieldAt b 2 1 ≤ 3)
  && decide (fieldAt b 3 1 ≤ 31) && decide (1 ≤ fieldAt b 4 1) && decide (fieldAt b 4 1 ≤ 31)
  && decide (1 ≤ fieldAt b 5 1) && decide (fieldAt b 5 1 ≤ 31) && decide (40 ≤ fieldAt b 6 1) && decide (fieldAt b 6 1 ≤ 80)
  && decide (fieldAt b 7 1 ≤ 10) && decide (500 ≤ fieldAt b 8 2) && decide (fieldAt b 8 2 ≤ 900)
  && decide (fieldAt b 11 1 ≤ 12) && decide (1 ≤ fieldAt b 12 1) && decide (fieldAt b 12 1 ≤ 10)
  && decide (1 ≤ fieldAt b 13 1) && decide (fieldAt b 13 1 ≤ 10) && decide (100 ≤ fieldAt b 14 2)
  && decide (fieldAt b 14 2 ≤ 1000) && decide (fieldAt b 16 1 ≤ 1) && decide (2 ≤ fieldAt b 18 1)
  && decide (fieldAt b 18 1 ≤ 15) && decide (fieldAt b 19 1 ≤ 60) && decide (1 ≤ fieldAt b 20 1)
  && decide (fieldAt b 20 1 ≤ 10) && decide (fieldAt b 21 2 ≤ 2000)

/-- The configuration record from its 66 bytes (11.4), or none where a field is out of range (R188). -/
def Settings.parse (b : List Byte) : Option Settings :=
  if b.length = 66 ∧ settingsInRange b = true then
    match ShareMode.ofCode (fieldAt b 10 1), DefineSharing.ofCode (fieldAt b 17 1), strokeOf (fieldAt b 23 3),
      keyMapOf (b.drop 26), Pane.parse (b.drop 54), Pane.parse (b.drop 59) with
    | some mode, some sharing, some undo, some map, some pa, some pb =>
      if pa.rows + pb.rows ≤ 32 then
        some { station := fieldAt b 0 1, writer := (byteOf b 1).getLsbD 0, viewer := (byteOf b 1).getLsbD 1,
               rank := fieldAt b 2 1, audience := BitVec.ofNat 5 (fieldAt b 3 1),
               recordAudience := BitVec.ofNat 5 (fieldAt b 4 1), shadowAudience := BitVec.ofNat 5 (fieldAt b 5 1),
               width := fieldAt b 6 1, indent := fieldAt b 7 1, pool := fieldAt b 8 2, shareMode := mode,
               shadowAllowance := fieldAt b 11 1, lapseTime := fieldAt b 12 1, claimWait := fieldAt b 13 1,
               settleWait := fieldAt b 14 2, releaseToIdle := (byteOf b 16).getLsbD 0, sharing := sharing,
               debounce := fieldAt b 18 1, graze := fieldAt b 19 1, stuckLimit := fieldAt b 20 1,
               resolveWait := fieldAt b 21 2, undoStroke := undo, keyMap := map, paneA := pa, paneB := pb,
               mask := BitVec.ofNat 16 (fieldAt b 64 2) }
      else none
    | _, _, _, _, _, _ => none
  else none

/-- The parameters of a host DEFINE (11.4, R29, R193): strokes, text, share flag; none where the answer is RANGE. -/
def defineParams (p : List Byte) : Option (List Stroke × List Byte × Bool) :=
  match strokesOf (fieldAt p 0 1) (p.drop 1) with
  | some strokes =>
    if 1 ≤ fieldAt p 0 1 ∧ fieldAt p 0 1 ≤ 8
        ∧ p.length = 3 + 3 * fieldAt p 0 1 + fieldAt p (1 + 3 * fieldAt p 0 1) 1
        ∧ textValid ((p.drop (2 + 3 * fieldAt p 0 1)).take (fieldAt p (1 + 3 * fieldAt p 0 1) 1)) = true
        ∧ fieldAt p (p.length - 1) 1 ≤ 1 then
      some (strokes, (p.drop (2 + 3 * fieldAt p 0 1)).take (fieldAt p (1 + 3 * fieldAt p 0 1) 1),
            (byteOf p (p.length - 1)).getLsbD 0)
    else none
  | none => none

/-- The parameters of a host FORGET (11.4, R29). -/
def forgetParams (p : List Byte) : Option (List Stroke) :=
  match strokesOf (fieldAt p 0 1) (p.drop 1) with
  | some strokes =>
    if 1 ≤ fieldAt p 0 1 ∧ fieldAt p 0 1 ≤ 8 ∧ p.length = 1 + 3 * fieldAt p 0 1 then some strokes else none
  | none => none

/-- The parameters of LOAD (R189): address and bytes; none where the answer is RANGE. -/
def loadParams (p : List Byte) : Option (Nat × List Byte) :=
  if 5 ≤ p.length ∧ p.length = 5 + fieldAt p 3 2 ∧ 1 ≤ fieldAt p 3 2 ∧ fieldAt p 3 2 ≤ 256
      ∧ fieldAt p 0 3 + fieldAt p 3 2 ≤ memSize then
    some (fieldAt p 0 3, p.drop 5)
  else none

/-- The parameters of READ_DICT (R189): address and count. -/
def readDictParams (p : List Byte) : Option (Nat × Nat) :=
  if p.length = 5 ∧ 1 ≤ fieldAt p 3 2 ∧ fieldAt p 3 2 ≤ 256 ∧ fieldAt p 0 3 + fieldAt p 3 2 ≤ memSize then
    some (fieldAt p 0 3, fieldAt p 3 2)
  else none

end Sys2Proof.Machine
end

