-- ==== Sys2Proof/Machine/Capture.lean ====
section
/-! DEFINITION. Stroke capture (01): the Key Capture Unit, the Stroke Queue and the Notes Log, and the commands
RAW_LEVEL_CHANGE, SETTLING_TIMER_EXPIRY and STUCK_TIMER_EXPIRY. -/

namespace Sys2Proof.Machine

/-! ## Contacts and the key map -/

/-- Contact `n`, 1 to 28. -/
def Kcu.contact (k : Kcu) (n : Nat) : Option Contact := if n = 0 then none else k.contacts[n - 1]?

def Kcu.setContact (k : Kcu) (n : Nat) (c : Contact) : Kcu := { k with contacts := k.contacts.setIfInBounds (n - 1) c }

/-- The chord key of contact `n`, 0 for unmapped (R3). -/
def Kcu.keyOf (k : Kcu) (n : Nat) : Nat := if n = 0 then 0 else (k.keyMap[n - 1]?).getD 0

/-- A contact mapped to `key` is live: mapped, accepted DOWN, no mark (R3). -/
def liveAs (key : Nat) (c : Contact) : Bool := decide (key ≠ 0) && c.acceptedDown && decide (c.mark = .none)

/-- Contact `n` is live. -/
def Kcu.live (k : Kcu) (n : Nat) : Bool :=
  match k.contact n with
  | some c => liveAs (k.keyOf n) c
  | none => false

/-- Some contact is live. -/
def Kcu.anyLive (k : Kcu) : Bool := (List.range' 1 28).any k.live

/-- The chord set of one key: key k is bit k - 1. -/
def keyBit (key : Nat) : Stroke := 1#23 <<< (key - 1)

/-! ## The stroke record handed on (R9 to R13) -/

/-- The Notes Log takes or refuses its copy (R12). -/
def NotesLog.take (n : NotesLog) (r : StrokeRecord) : NotesLog :=
  if n.entries.length < 8192 then { n with entries := n.entries ++ [r], unexported := n.unexported + 1 }
  else if n.unexported < 8192 then { n with entries := n.entries.drop 1 ++ [r], unexported := n.unexported + 1 }
  else { n with lost := n.lost + 1 }

/-- The log has room for a record: some place is free or exported (R12). -/
def NotesLog.hasRoom (n : NotesLog) : Bool := decide (n.entries.length < 8192) || decide (n.unexported < 8192)

/-- A record reaches the Notes Log, with the events of R12 and R13. -/
def State.logStroke (s : State) (r : StrokeRecord) : State :=
  if s.notes.hasRoom then
    if s.notes.unexported = 7167 then (s.setNotes (s.notes.take r)).latch (.notesNear 7168) else s.setNotes (s.notes.take r)
  else (s.setNotes (s.notes.take r)).latch (.notesFull r.number)

/-- The Stroke Queue takes a record (R10), or refuses it (R11). -/
def StrokeQueue.take (q : StrokeQueue) (r : StrokeRecord) : StrokeQueue :=
  if q.records.length < 32 then { q with records := q.records ++ [{ r with afterDrop := q.dropPending }], dropPending := false }
  else { q with dropped := q.dropped + 1, dropPending := true }

/-- The flags of the Notes Log copy, from the queue's state at that moment (R9). -/
def StrokeQueue.noteCopy (q : StrokeQueue) (r : StrokeRecord) : StrokeRecord :=
  if q.records.length < 32 then { r with afterDrop := q.dropPending } else { r with notTranslated := true }

/-- A stroke record is handed to the Stroke Queue and the Notes Log in one event (R9). -/
def State.handOn (s : State) (r : StrokeRecord) : State := (s.setSq (s.sq.take r)).logStroke (s.sq.noteCopy r)

/-! ## Chord assembly (1.3) -/

/-- The stroke number given and the next one (R6). -/
def Kcu.giveNumber (k : Kcu) : Kcu :=
  if k.nextStroke < 4294967295 then { k with nextStroke := k.nextStroke + 1 } else { k with exhausted := true }

/-- The chord closes at `t`: a graze, or a numbered stroke (R6). -/
def State.closeChord (s : State) (ch : Chord) (t : Ms) : State :=
  if (t - ch.openTime).toNat < s.kcu.graze then
    s.setKcu { s.kcu with chord := none, grazes := satSucc s.kcu.grazes }
  else
    (s.setKcu { s.kcu.giveNumber with chord := none }).handOn
      { number := s.kcu.nextStroke, value := ch.keys, openTime := ch.openTime, closeTime := t, notTranslated := false,
        afterDrop := false }

/-- The open chord closes at `t` where no contact is live (R5). -/
def State.closeIfNoneLive (s : State) (t : Ms) : State :=
  match s.kcu.chord with
  | some ch => if s.kcu.anyLive then s else s.closeChord ch t
  | none => s

/-- A chord may open (R4). -/
def State.mayOpen (s : State) : Bool := s.online && s.cfg.writer && !s.kcu.exhausted

/-- The chord's part of an accepted down of a live contact with `key` at `t` (R4, R5). -/
def State.chordDown (s : State) (key : Nat) (t : Ms) : State :=
  match s.kcu.chord with
  | some ch => s.setKcu { s.kcu with chord := some { ch with keys := ch.keys ||| keyBit key } }
  | none => if s.mayOpen then s.setKcu { s.kcu with chord := some { keys := keyBit key, openTime := t } } else s

/-- An accepted down of contact `n` at the present reading (R4, R5, R7). -/
def State.acceptedDown (s : State) (n : Nat) (c : Contact) : State :=
  let c' : Contact :=
    { c with acceptedDown := true, settleAt := none,
             stuckAt := if s.kcu.keyOf n = 0 then none else some (s.after (1000 * s.kcu.stuckLimit)) }
  let s' := s.setKcu (s.kcu.setContact n c')
  if liveAs (s.kcu.keyOf n) c' then s'.chordDown (s.kcu.keyOf n) s.clock.ms else s'

/-- An accepted up of contact `n` at the present reading (R5, R8). -/
def State.acceptedUp (s : State) (n : Nat) (c : Contact) : State :=
  let s' := s.setKcu (s.kcu.setContact n { c with acceptedDown := false, settleAt := none, mark := .none, stuckAt := none })
  if liveAs (s.kcu.keyOf n) c then s'.closeIfNoneLive s.clock.ms else s'

/-! ## The commands -/

/-- RAW_LEVEL_CHANGE (R2): the pin takes its level; settling starts, or ends where the level returned. -/
def State.rawLevelChange (s : State) (n : Nat) (down : Bool) : State :=
  match s.kcu.contact n with
  | none => s
  | some c =>
    if c.rawDown = down then s
    else
      s.setKcu (s.kcu.setContact n
        { c with rawDown := down,
                 settleAt := if down = c.acceptedDown then none else some (s.after s.kcu.debounce) })

/-- SETTLING_TIMER_EXPIRY (R2): the accepted level takes the raw level. -/
def State.settlingExpiry (s : State) (n : Nat) : State :=
  match s.kcu.contact n with
  | none => s
  | some c =>
    match c.settleAt with
    | none => s
    | some t => if c.rawDown then (s.reachMs t).acceptedDown n c else (s.reachMs t).acceptedUp n c

/-- STUCK_TIMER_EXPIRY (R7): the contact is marked, KEY_STUCK latched, and the chord closes where no other contact is live. -/
def State.stuckExpiry (s : State) (n : Nat) : State :=
  match s.kcu.contact n with
  | none => s
  | some c =>
    match c.stuckAt with
    | none => s
    | some t =>
      let s1 := s.reachMs t
      let s2 := s1.setKcu (s1.kcu.setContact n { c with mark := .stuck, stuckAt := none })
      (s2.latch (.keyStuck n (s.kcu.keyOf n))).closeIfNoneLive s1.clock.ms

/-! ## Configuration, GO and resets (1.8) -/

/-- One contact when the KCU adopts a configuration (R15): `t` is the expiry of a stuck timer started now. -/
def Contact.adopt (c : Contact) (oldKey newKey : Nat) (t : Ms) : Contact :=
  if oldKey = newKey then c
  else if newKey ≠ 0 ∧ c.acceptedDown = true then { c with mark := .heldOver, stuckAt := some t }
  else { c with mark := .none, stuckAt := none }

/-- The KCU adopts a configuration record (R15). -/
def State.adoptSettings (s : State) (g : Settings) : State :=
  s.setKcu
    { s.kcu with
      contacts := Vector.ofFn fun i => (s.kcu.contacts[i]).adopt (s.kcu.keyMap[i]) (g.keyMap[i]) (s.after (1000 * g.stuckLimit)),
      keyMap := g.keyMap, debounce := g.debounce, graze := g.graze, stuckLimit := g.stuckLimit }

/-- One contact at GO (R18). -/
def Contact.atGo (c : Contact) (key : Nat) : Contact :=
  if key ≠ 0 ∧ c.acceptedDown = true ∧ c.mark = .none then { c with mark := .heldOver } else c

/-- The KCU at GO (R18). -/
def Kcu.atGo (k : Kcu) : Kcu := { k with contacts := Vector.ofFn fun i => (k.contacts[i]).atGo (k.keyMap[i]) }

/-- One contact at a full reset: UP, unmarked, untimed; physically down, it settles from the reset on (R16, log 7). -/
def Contact.atReset (c : Contact) : Contact :=
  { Contact.reset with rawDown := c.rawDown, settleAt := if c.rawDown then some 5 else none }

/-- The KCU at a full reset (R16): the clock then reads 0 and the debounce time is its default. -/
def Kcu.atReset (k : Kcu) : Kcu := { Kcu.reset with contacts := k.contacts.map Contact.atReset }

/-- The KCU and the Stroke Queue at RESTART (R17). -/
def State.restartCapture (s : State) : State :=
  (s.setKcu { s.kcu with chord := none }).setSq { s.sq with records := [], dropPending := false }

/-! ## The meanings -/

def execRawLevelChange (n : Nat) (down : Bool) (s : State) : Host.Outcome State Fault Refusal := .next (s.rawLevelChange n down)

def execSettlingTimerExpiry (n : Nat) (s : State) : Host.Outcome State Fault Refusal := .next (s.settlingExpiry n)

def execStuckTimerExpiry (n : Nat) (s : State) : Host.Outcome State Fault Refusal := .next (s.stuckExpiry n)

end Sys2Proof.Machine
end

