-- ==== Sys2Proof/Machine/Store.lean ====
section
/-! DEFINITION. The dictionary store's reads (02): the directory, the lookup of R25 with the checks of R26, text fetches, and
the CASE scan of GO. Everything here is a function of the bytes read; the blocks that own the operations call it. -/

namespace Sys2Proof.Machine

/-! ## Directory and regions (R20, R21) -/

/-- The root of a layer, 0 for an empty one (R21). -/
def Directory.root (d : Directory) (layer : Nat) : Nat :=
  match layer with
  | 0 => d.caseRoot
  | 1 => d.jobRoot
  | _ => d.mainRoot

/-- The text region of a layer: start and size. -/
def Directory.textRegion (d : Directory) (layer : Nat) : Nat × Nat :=
  match layer with
  | 0 => (d.heapStart, d.heapSize)
  | 1 => (d.jobTextStart, d.jobTextSize)
  | _ => (d.mainTextStart, d.mainTextSize)

/-- `n` bytes from `a` lie inside the region of `size` bytes from `start`. -/
def inside (start size a n : Nat) : Bool := decide (start ≤ a) && decide (a + n ≤ start + size)

/-- `n` bytes from `a` lie inside the CASE cell region. -/
def Directory.inCells (d : Directory) (a n : Nat) : Bool := inside d.cellFirst (16 * d.cellCount) a n

def Directory.textFits (d : Directory) (layer : Nat) (t : TextRef) : Bool :=
  inside (d.textRegion layer).1 (d.textRegion layer).2 t.addr t.len

/-- A root passes the directory check: 0, or a multiple of 8 not below 64 (R20). -/
def rootOk (r : Nat) : Bool := decide (r = 0) || (decide (r % 8 = 0) && decide (64 ≤ r))

/-- The directory check of R20 over its 64 bytes. -/
def directoryOk (bs : List Byte) : Bool :=
  decide (fieldAt bs 0 4 = 0x5D1C7A60)
  && rootOk (Directory.ofBytes bs).caseRoot && rootOk (Directory.ofBytes bs).jobRoot && rootOk (Directory.ofBytes bs).mainRoot

/-- The CASE bounds of R20. -/
def caseBoundsOk (d : Directory) : Bool :=
  decide (d.caseRoot ≠ 0) && decide (d.caseRoot % 16 = 0) && d.inCells d.caseRoot 1
  && decide (d.cellFirst % 16 = 0) && decide (64 ≤ d.cellFirst)
  && decide (1 ≤ d.cellCount) && decide (d.cellCount ≤ 4096)
  && decide (1 ≤ d.heapSize) && decide (d.heapSize ≤ 65536)
  && decide (d.cellFirst + 16 * d.cellCount ≤ memSize) && decide (64 ≤ d.heapStart)
  && decide (d.heapStart + d.heapSize ≤ memSize)
  && (decide (d.cellFirst + 16 * d.cellCount ≤ d.heapStart) || decide (d.heapStart + d.heapSize ≤ d.cellFirst))
  && decide (d.jobTextStart + d.jobTextSize ≤ memSize) && decide (d.mainTextStart + d.mainTextSize ≤ memSize)

/-! ## Faults (R26) -/

/-- A fault with the address of the thing at fault. -/
abbrev Damage := FaultKind × Nat

/-- The fault reported of those a structure shows: the one fault, or, where there are several, one of them by the free value
Config.faultChoice (log 9). -/
def pickFault : List Damage → Option Damage
  | [] => none
  | [d] => some d
  | d :: rest =>
    some ((d :: rest).getD (Config.faultChoice ((d :: rest).map fun x => x.1.code) d.2 % (rest.length + 1)) d)

/-- The condition `c` gives the fault `kind` at `a`. -/
def faultIf (c : Bool) (kind : FaultKind) (a : Nat) : List Damage := if c then [(kind, a)] else []

/-- The faults of a table address before its header is read (R25 step 1; R32 for the DU). -/
def tableAddressFaults (d : Directory) (duRules : Bool) (t : Nat) : List Damage :=
  faultIf (decide (t % 8 ≠ 0)) .address t ++ faultIf (duRules && !d.inCells t 8) .region t

/-- The faults of a table once its exponent is read (R25 step 2, R26; R32 for the DU). -/
def tableFaults (d : Directory) (duRules : Bool) (t b : Nat) : List Damage :=
  if 12 < b then [(.exponent, t)]
  else faultIf (decide (memSize < t + tableBytes b)) .address t ++ faultIf (duRules && !d.inCells t (tableBytes b)) .region t

/-- The faults of a bucket head or chain link `a` held by the thing at `holder` (R26; R32 for the DU). -/
def cellAddressFaults (d : Directory) (duRules : Bool) (a holder : Nat) : List Damage :=
  faultIf (decide (a % 16 ≠ 0)) .address holder ++ faultIf (duRules && !d.inCells a 16) .region a

/-- The faults of a cell's own bytes (R26). -/
def cellFaults (d : Directory) (layer a : Nat) (c : CellData) : List Damage :=
  faultIf (decide (c.link % 16 ≠ 0) || (c.hasNext && (decide (c.next = 0) || decide (c.next % 8 ≠ 0)))) .address a
  ++ faultIf (decide (8388608 ≤ c.stroke) || decide (c.spare ≠ 0) || !clearFrom c.flags 3
      || (decide (layer ≠ 0) && decide (c.origin ≠ 0))) .spare a
  ++ faultIf (c.hasText && (decide (c.text.len = 0) || decide (120 < c.text.len))) .length a
  ++ faultIf (c.hasText && !d.textFits layer c.text) .textRange a

/-- The chain limit of R25 step 6: the 24th cell does not match and its link is not 0. -/
def chainLimit (place : Nat) (c : CellData) (s : Stroke) : Bool :=
  decide (24 ≤ place) && decide (c.stroke ≠ s.toNat) && decide (c.link ≠ 0)

/-! ## The lookup (R25) -/

/-- What a lookup does next: an operation, or one of its three outcomes. A found cell comes with its bytes. -/
inductive LookupOut where
  | read (addr count : Nat) (lookup : Lookup)
  | found (lookup : Lookup) (bytes : List Byte)
  | noEntry (lookup : Lookup)
  | fault (damage : Damage)
  deriving DecidableEq, Repr

/-- A lookup of `s` in `layer` under the table at `t` begins (R25 step 1). -/
def startLookup (d : Directory) (layer t : Nat) (s : Stroke) (duRules : Bool) : LookupOut :=
  match pickFault (tableAddressFaults d duRules t) with
  | some f => .fault f
  | none =>
    .read t 8 { layer := layer, table := t, stroke := s, duRules := duRules, stage := .header, exponent := 0, cellCount := 0,
                headAddr := 0, head := 0, cellAddr := 0, place := 0, prev := none }

/-- The cell at `a`, held by the thing at `holder`, is read next. -/
def readCell (d : Directory) (k : Lookup) (a holder : Nat) (prev : Option (Nat × List Byte)) : LookupOut :=
  match pickFault (cellAddressFaults d k.duRules a holder) with
  | some f => .fault f
  | none => .read a 16 { k with stage := .cell, cellAddr := a, place := k.place + 1, prev := prev }

/-- The operation a lookup waited for has given `bs` (R25 steps 2 to 6). -/
def lookupStep (d : Directory) (k : Lookup) (bs : List Byte) : LookupOut :=
  match k.stage with
  | .header =>
    match pickFault (tableFaults d k.duRules k.table (fieldAt bs 0 1)) with
    | some f => .fault f
    | none =>
      .read (k.table + 8 + 3 * bucketOf k.stroke (fieldAt bs 0 1)) 3
        { k with stage := .head, exponent := fieldAt bs 0 1, cellCount := fieldAt bs 1 2,
                 headAddr := k.table + 8 + 3 * bucketOf k.stroke (fieldAt bs 0 1) }
  | .head =>
    if fieldAt bs 0 3 = 0 then .noEntry { k with head := 0 }
    else readCell d { k with head := fieldAt bs 0 3 } (fieldAt bs 0 3) k.table none
  | .cell =>
    match pickFault (cellFaults d k.layer k.cellAddr (CellData.ofBytes bs)) with
    | some f => .fault f
    | none =>
      if chainLimit k.place (CellData.ofBytes bs) k.stroke then .fault (.chainLimit, k.table)
      else if (CellData.ofBytes bs).stroke = k.stroke.toNat then .found k bs
      else if (CellData.ofBytes bs).link = 0 then .noEntry k
      else readCell d k (CellData.ofBytes bs).link k.cellAddr (some (k.cellAddr, bs))

/-! ## Text fetches (R27) -/

/-- The operation a text fetch makes next, when `got` bytes are held: up to 16 bytes. -/
def fetchOp (t : TextRef) (got : Nat) : MemOp := .read (t.addr + got) (min 16 (t.len - got))

/-- What an operation of a text fetch ends in. -/
inductive FetchOut where
  | more (got : List Byte)
  | text (got : List Byte)
  | bad (addr : Nat)
  deriving DecidableEq, Repr

/-- The index of the first byte outside the code. -/
def firstBad : List Byte → Option Nat
  | [] => none
  | b :: rest =>
    if inTextCode b then
      match firstBad rest with
      | some i => some (i + 1)
      | none => none
    else some 0

/-- An operation of a text fetch has given `bs` after `got` (R27). -/
def fetchStep (t : TextRef) (got bs : List Byte) : FetchOut :=
  match firstBad bs with
  | some i => .bad (t.addr + got.length + i)
  | none => if t.len ≤ (got ++ bs).length then .text (got ++ bs) else .more (got ++ bs)

/-! ## The CASE scan (R40, R41) -/

/-- What the scan does next: an operation, its end without fault, or a fault. -/
inductive ScanOut where
  | read (addr count : Nat) (scan : Scan)
  | done (scan : Scan)
  | fault (damage : Damage)
  deriving DecidableEq, Repr

/-- `n` bytes from `a` overlap an extent already reached. -/
def overlaps (reached : List (Nat × Nat)) (a n : Nat) : Bool := reached.any fun r => decide (a < r.2) && decide (r.1 < a + n)

/-- The faults of a table reached by the scan at `t`, before its header is read (R26, R40). -/
def scanTableFaults (d : Directory) (sc : Scan) (t : Nat) : List Damage :=
  faultIf (decide (t % 8 ≠ 0)) .address t ++ faultIf (decide (t % 16 ≠ 0) || !d.inCells t 8) .region t
  ++ faultIf (overlaps sc.reached t 8) .shared t

/-- The scan enters the table at `t`. -/
def scanEnter (d : Directory) (sc : Scan) (t : Nat) : ScanOut :=
  match pickFault (scanTableFaults d sc t) with
  | some f => .fault f
  | none => .read t 8 { sc with want := .header t }

/-- The scan reads the chain's next cell `a`, held by the thing at `holder`. -/
def scanCell (d : Directory) (sc : Scan) (a holder : Nat) : ScanOut :=
  match pickFault (cellAddressFaults d true a holder ++ faultIf (overlaps sc.reached a 16) .shared a) with
  | some f => .fault f
  | none => .read a 16 { sc with want := .cell a }

/-- The header rewrite a finished table needs (R41; several are made in the order the tables were finished, log 12). -/
def countFix (f : ScanTable) : List PlannedWrite :=
  if f.found = f.headerCount then [] else [{ addr := f.table, bytes := headerBytes f.exponent f.found, freed := [] }]

/-- The scan goes on in the open tables: the chain's next cell, the next bucket head, or the table around (R40). A cell's own
chain link was checked when the cell was read, so an address fault found here is that of a bucket head, held by the table. The count
rewrites stand in the order the tables are finished, innermost first, which is the model's choice (log 12). -/
def scanOn (d : Directory) (sc : Scan) : List ScanTable → ScanOut
  | [] => .done { sc with tables := [] }
  | f :: rest =>
    if f.link ≠ 0 then scanCell d { sc with tables := f :: rest } f.link f.table
    else if f.bucket + 1 < 2 ^ f.exponent then
      .read (f.table + 8 + 3 * (f.bucket + 1)) 3
        { sc with tables := { f with bucket := f.bucket + 1, place := 0 } :: rest, want := .head }
    else scanOn d { sc with fixes := sc.fixes ++ countFix f } rest

/-- The highest text end + 1 with the text of a cell taken in (R41). -/
def textTopWith (top : Option Nat) (c : CellData) : Option Nat :=
  if c.hasText then some (max (top.getD 0) (c.text.addr + c.text.len)) else top

/-- The scan's faults of a cell at `a` in the table `f` (R40): those of R26; where it has none, the chain limit and DUPLICATE. R40 gives
DUPLICATE no address; the model reports the cell read second, which is its choice (log 12). -/
def scanCellFaults (d : Directory) (f : ScanTable) (a : Nat) (c : CellData) : List Damage :=
  match cellFaults d 0 a c with
  | [] =>
    faultIf (decide (24 ≤ f.place + 1) && decide (c.link ≠ 0)) .chainLimit f.table
    ++ faultIf (f.strokes.contains c.stroke) .duplicate a
  | fs => fs

/-- The operation the scan waited for has given `bs`. -/
def scanStep (d : Directory) (sc : Scan) (bs : List Byte) : ScanOut :=
  match sc.want, sc.tables with
  | .header t, tables =>
    match pickFault (tableFaults d true t (fieldAt bs 0 1)
        ++ faultIf (decide (fieldAt bs 0 1 ≤ 12) && overlaps sc.reached t (tableBytes (fieldAt bs 0 1))) .shared t) with
    | some f => .fault f
    | none =>
      .read (t + 8) 3
        { sc with
          tables := { table := t, exponent := fieldAt bs 0 1, headerCount := fieldAt bs 1 2, bucket := 0, link := 0, place := 0,
                      found := 0, strokes := [] } :: tables,
          want := .head, reached := sc.reached ++ [(t, t + tableBytes (fieldAt bs 0 1))] }
  | .head, f :: rest => scanOn d sc ({ f with link := fieldAt bs 0 3 } :: rest)
  | .cell a, f :: rest =>
    match pickFault (scanCellFaults d f a (CellData.ofBytes bs)) with
    | some x => .fault x
    | none =>
      let c := CellData.ofBytes bs
      let f' : ScanTable :=
        { f with link := c.link, place := f.place + 1, found := f.found + 1, strokes := c.stroke :: f.strokes }
      let sc' : Scan :=
        { sc with tables := f' :: rest, reached := sc.reached ++ [(a, a + 16)], textTop := textTopWith sc.textTop c }
      if c.hasNext then scanEnter d sc' c.next else scanOn d sc' (f' :: rest)
  | _, [] => .done sc

/-- The scan begins at the CASE root. -/
def startScan (d : Directory) : ScanOut :=
  scanEnter d { tables := [], want := .head, reached := [], textTop := none, fixes := [] } d.caseRoot

/-- The free-cell list after a scan (R41): the cells of the region that nothing reached covers, in address order. -/
def freeAfter (d : Directory) (reached : List (Nat × Nat)) : List Nat :=
  ((List.range d.cellCount).map fun i => d.cellFirst + 16 * i).filter fun a => !overlaps reached a 16

end Sys2Proof.Machine
end

