-- ==== Sys2Proof/Machine/PathCache.lean ====
section
/-! DEFINITION. The Path Cache (03): consulting, filling, fences, and what a fence and a generation raise mark at the TE's
requests in flight. -/

namespace Sys2Proof.Machine

/-! ## Sets (R43) -/

/-- The set of a key (R43). -/
def cacheSetOf (stroke : Stroke) (table : Nat) : Nat := (fold stroke + table / 8) % 16

def CacheEntry.hasKey (e : CacheEntry) (layer table : Nat) (stroke : Stroke) : Bool :=
  decide (e.layer = layer) && decide (e.table = table) && decide (e.stroke = stroke)

/-- The way of a set that holds a key. -/
def CacheSet.wayOf (x : CacheSet) (layer table : Nat) (stroke : Stroke) : Option Nat :=
  x.ways.toList.findIdx? fun w => match w with
    | some e => e.hasKey layer table stroke
    | none => false

/-- Way `w` becomes the most recently used. -/
def touch (recency : List Nat) (w : Nat) : List Nat := w :: recency.filter fun v => decide (v ≠ w)

def Cache.set (c : Cache) (i : Nat) : CacheSet := (c.sets[i]?).getD CacheSet.reset

/-- The content held for a key. -/
def Cache.lookup (c : Cache) (layer table : Nat) (stroke : Stroke) : Option CellContent :=
  match (c.set (cacheSetOf stroke table)).wayOf layer table stroke with
  | some w =>
    match ((c.set (cacheSetOf stroke table)).ways[w]?).getD none with
    | some e => some e.content
    | none => none
  | none => none

/-- A hit: the entry becomes the most recently used of its set, and the hit count is raised (R44). -/
def Cache.hit (c : Cache) (layer table : Nat) (stroke : Stroke) : Cache :=
  match (c.set (cacheSetOf stroke table)).wayOf layer table stroke with
  | some w =>
    { c with
      sets := c.sets.setIfInBounds (cacheSetOf stroke table)
        { c.set (cacheSetOf stroke table) with recency := touch (c.set (cacheSetOf stroke table)).recency w },
      hits := satSucc c.hits }
  | none => c

/-- A miss raises the miss count (R44). -/
def Cache.miss (c : Cache) : Cache := { c with misses := satSucc c.misses }

/-- The way a fill takes (R45): that of the same key, the lowest empty one, or the least recently used. -/
def CacheSet.victim (x : CacheSet) (layer table : Nat) (stroke : Stroke) : Nat :=
  match x.wayOf layer table stroke with
  | some w => w
  | none =>
    match x.ways.toList.findIdx? fun w => w.isNone with
    | some w => w
    | none => x.recency.getLastD 0

/-- A fill (R45). -/
def CacheSet.fill (x : CacheSet) (e : CacheEntry) : CacheSet :=
  { ways := x.ways.setIfInBounds (x.victim e.layer e.table e.stroke) (some e),
    recency := touch x.recency (x.victim e.layer e.table e.stroke) }

def Cache.fill (c : Cache) (e : CacheEntry) : Cache :=
  { c with sets := c.sets.setIfInBounds (cacheSetOf e.stroke e.table) ((c.set (cacheSetOf e.stroke e.table)).fill e) }

/-! ## Fences (R47) -/

/-- The scopes of a fence. -/
inductive FenceScope where
  | all
  | layer (layer : Nat)
  | stroke (stroke : Stroke)
  | strokeLayer (stroke : Stroke) (layer : Nat)
  deriving DecidableEq, Repr

/-- An entry a fence removes (R47): a LAYER fence spares the FIXED ones. -/
def FenceScope.removes : FenceScope → CacheEntry → Bool
  | .all, _ => true
  | .layer l, e => decide (e.layer = l) && !e.content.fixed
  | .stroke s, e => decide (e.stroke = s)
  | .strokeLayer s l, e => decide (e.stroke = s) && decide (e.layer = l)

/-- A STROKE or STROKE+LAYER fence with stroke value 0 is void (R48). -/
def FenceScope.void : FenceScope → Bool
  | .stroke s => decide (s = 0)
  | .strokeLayer s _ => decide (s = 0)
  | _ => false

/-- What a fence leaves in a way. -/
def fenceWay (f : FenceScope) : Option CacheEntry → Option CacheEntry
  | some e => if f.removes e then none else some e
  | none => none

def CacheSet.fence (x : CacheSet) (f : FenceScope) : CacheSet :=
  { ways := x.ways.map (fenceWay f), recency := x.recency.filter fun w => (fenceWay f ((x.ways[w]?).getD none)).isSome }

def Cache.fence (c : Cache) (f : FenceScope) : Cache := { c with sets := c.sets.map fun x => x.fence f }

/-! ## Marks at the TE's requests in flight (R47, R49) -/

def WalkReq.mapMarks (f : ReqMarks → ReqMarks) : WalkReq → WalkReq
  | .lookup k m => .lookup k (f m)
  | .fetch r n g m => .fetch r n g (f m)

def RetrWork.mapMarks (f : ReqMarks → ReqMarks) : RetrWork → RetrWork
  | .fetch h g m => .fetch h g (f m)
  | w => w

/-- The requests in flight of both sides of the TE, marked. -/
def Te.mapMarks (t : Te) (f : ReqMarks → ReqMarks) : Te :=
  { t with walkReq := t.walkReq.map (WalkReq.mapMarks f), retr := t.retr.mapMarks f }

/-- A fence is taken at the Path Cache (R47): its scope is removed and every TE lookup in flight is marked fence-seen. A void
fence does nothing (R48). -/
def State.fence (s : State) (f : FenceScope) : State :=
  if f.void then s
  else (s.setCache (s.cache.fence f)).setTe (s.te.mapMarks fun m => { m with fenceSeen := true })

/-- The marks of a TE request that starts now (R49). -/
def State.newMarks (s : State) : ReqMarks := { generation := s.du.generation, raiseSeen := false, fenceSeen := false }

/-- A generation raise at the walk side (R72): in HOLD the timer is stopped and a re-walk is due at once; in STEP or FETCH it
is due at the end of the request in flight. -/
def Te.raised (t : Te) : Te :=
  match t.phase with
  | .idle => t
  | .hold => { t with rewalkDue := true, resolveAt := none }
  | .step => { t with rewalkDue := true }
  | .fetch => { t with rewalkDue := true }

/-- The generation is raised by one, wrapping (R39); every TE request in flight is marked raise-seen (R49) and the walk side
acts (R72). -/
def State.raiseGeneration (s : State) : State :=
  (s.setDu { s.du with generation := s.du.generation + 1 }).setTe
    ((s.te.mapMarks fun m => { m with raiseSeen := true }).raised)

end Sys2Proof.Machine
end

