-- ==== Sys2Proof/Machine/Publish.lean ====
section
/-! DEFINITION. The Publisher (07) and the choice of the transmit slot (R115): beacons, TAIL images, LINE frames, answers,
DEFINE frames, weights, share and credit. -/

namespace Sys2Proof.Machine

/-! ## What the Transcript Builder reports (R103) -/

/-- The next number of the series in force. -/
def Tb.nextNumber (t : Tb) : Nat :=
  match t.series with
  | .draft => t.nextDraft
  | .record => t.nextRecord.getD 1

/-- Committed-through: the next number minus one; 16,777,215 while discards go on (R101, R103). -/
def Tb.committedThrough (t : Tb) : Nat := min (t.nextNumber - 1) maxLine

/-- The first open line: the next number, or 0 while discards go on (R101, R103). -/
def Tb.firstOpen (t : Tb) : Nat := if maxLine < t.nextNumber then 0 else t.nextNumber

/-! ## Frames the Publisher, Custody Unit and Viewer send (11.3) -/

/-- The audience of a TAIL (R127). -/
def Settings.tailAudience (g : Settings) : Series → BitVec 5
  | .record => g.recordAudience
  | .draft => g.shadowAudience

def tailFrame (g : Settings) (t : TailImage) : Frame :=
  { heading := headingByte .tail (g.tailAudience t.series),
    body := leBytes 1 g.station ++ leBytes 1 t.series.code ++ leBytes 1 t.custody.code ++ leBytes 3 t.committed
      ++ leBytes 3 t.firstOpen ++ leBytes 1 t.lines.length ++ t.lines.flatMap fun l => leBytes 1 l.length ++ l }

def lineFrame (g : Settings) (number : Nat) (flags : Byte) (text : List Byte) : Frame :=
  { heading := headingByte .line g.recordAudience,
    body := leBytes 1 g.station ++ leBytes 3 number ++ [flags] ++ leBytes 1 text.length ++ text }

def LineEntry.frame (e : LineEntry) (g : Settings) : Frame := lineFrame g e.number (lineFlags e.brk false false) e.text

/-- The answer LINE of an entry (R133). -/
def Answer.frame (a : Answer) (g : Settings) : Frame :=
  match a.form with
  | .held brk text => lineFrame g a.number (lineFlags brk true false) text
  | .gone => lineFrame g a.number (lineFlags false true true) []

def DefineSend.frame (d : DefineSend) (g : Settings) : Frame :=
  { heading := headingByte .define audienceWriters,
    body := leBytes 1 g.station ++ leBytes 1 d.number ++ leBytes 1 g.rank ++ leBytes 1 d.strokes.length
      ++ (d.strokes.flatMap fun v => leBytes 3 v.toNat) ++ leBytes 2 d.text.length ++ d.text }

def Ask.frame (a : Ask) (g : Settings) : Frame :=
  { heading := headingByte .ask 0#5,
    body := leBytes 1 a.target ++ leBytes 1 g.station ++ leBytes 3 a.first ++ leBytes 1 a.count }

/-- The STATION frame, its fields read now (R125). -/
def State.stationFrame (s : State) : Frame :=
  { heading := headingByte .station 31#5,
    body := leBytes 1 s.own ++ leBytes 1 s.cfg.rolesCode ++ leBytes 1 s.cfg.rank ++ leBytes 1 s.cu.state.code
      ++ [stationFlags s.cu.hold s.cu.conflict s.pub.muted] ++ [s.pub.signature.1, s.pub.signature.2]
      ++ leBytes 3 s.tb.horizon ++ leBytes 2 s.pub.share }

/-- The cost of a frame: its character count plus 2 (R140). -/
def Frame.cost (f : Frame) : Nat := f.body.length + 3 + 2

/-- The configuration signature (R126). -/
def Settings.signature (g : Settings) : Byte × Byte :=
  let ab := checkSums (leBytes 1 g.width ++ leBytes 1 g.indent ++ leBytes 2 g.pool
    ++ leBytes 1 (match g.shareMode with | .dynamic => 0 | .static => 1))
  (BitVec.ofNat 8 ab.1, BitVec.ofNat 8 ab.2)

/-! ## Weights and share (7.8) -/

/-- The weight of a custody state (R136). -/
def CustodyState.weight : CustodyState → Nat
  | .onRecord => 8
  | .releasing => 8
  | .shadow => 2
  | .claiming => 2
  | .idle => 0

/-- What a roster slot adds to the weight sum (R136). -/
def slotWeight : Option RosterSlot → Nat
  | some r => if r.state = .admitted then r.custody.weight else 0
  | none => 0

def Roster.weights (r : Roster) : Nat := (r.slots.toList.map slotWeight).sum

/-- The weight sum for an own weight (R136). -/
def State.weightSumFor (s : State) (own : Nat) : Nat :=
  match s.cfg.shareMode with
  | .dynamic => own + s.roster.weights
  | .static => 8 + 2 * s.cfg.shadowAllowance

/-- The share for an own weight, in permille (R137). -/
def State.shareFor (s : State) (own : Nat) : Nat := if own = 0 then 0 else s.cfg.pool * own / s.weightSumFor own

/-! ## Credit (7.9) -/

/-- The credit and remainder after `dt` character times at a share (R139). -/
def creditAfter (c f share dt : Nat) : Nat × Nat :=
  if 800 ≤ c + (f + dt * share) / 1000 then (800, 0) else (c + (f + dt * share) / 1000, (f + dt * share) % 1000)

/-- A credit update (R139). -/
def State.updateCredit (s : State) : State :=
  s.setPub
    { s.pub with
      credit := (creditAfter s.pub.credit s.pub.remainder s.pub.share (s.clock.chars - s.pub.creditMark)).1,
      remainder := (creditAfter s.pub.credit s.pub.remainder s.pub.share (s.clock.chars - s.pub.creditMark)).2,
      creditMark := s.clock.chars }

/-- A refund of `n` after an update, capped (R141). -/
def State.refund (s : State) (n : Nat) : State :=
  let s' := s.updateCredit
  if 800 < s'.pub.credit + n then s'.setPub { s'.pub with credit := 800, remainder := 0 }
  else s'.setPub { s'.pub with credit := s'.pub.credit + n }

/-! ## The slot's choice (R115, R121) -/

/-- The metered frames at the head of their sources, with their costs: LINE, answer, TAIL. -/
def State.lineHead (s : State) : Option LineEntry := s.pub.lineQueue.head?
def State.answerHead (s : State) : Option Answer := s.pub.answers.head?

/-- A metered frame offered with a cost is eligible for a credit (R140). -/
def eligible (credit : Nat) (cost : Option Nat) : Bool :=
  match cost with
  | some c => decide (c ≤ credit)
  | none => false

def State.lineCost (s : State) : Option Nat := s.lineHead.map fun e => (e.frame s.cfg).cost
def State.answerCost (s : State) : Option Nat := s.answerHead.map fun a => (a.frame s.cfg).cost
def State.tailCost (s : State) : Option Nat := s.pub.tailWaiting.map fun t => (tailFrame s.cfg t).cost

/-- The first eligible source in the order of R115, for the present credit; STATION alone under CONFLICT (R121). -/
def State.choice (s : State) : Option Source :=
  if s.cu.conflict then (if s.pub.stationWaiting.isSome then some .station else none)
  else if !s.lnc.custodyList.isEmpty then some .custody
  else if s.pub.stationWaiting.isSome then some .station
  else if eligible s.pub.credit s.lineCost then some .line
  else if !s.pub.defines.isEmpty then some .define
  else if eligible s.pub.credit s.answerCost then s.answerHead.map fun a => .answer a.number
  else if !s.vw.asks.isEmpty then some .ask
  else if eligible s.pub.credit s.tailCost then some .tail
  else none

/-- The slot after its choice. -/
def slotOf : Option Source → Slot
  | some x => .waiting x
  | none => .empty

def Slot.isDriving : Slot → Bool
  | .driving _ _ _ => true
  | _ => false

/-- The source of the frame in flight. -/
def Slot.inFlight : Slot → Option Source
  | .driving x _ _ => some x
  | _ => none

/-- The frames of a queue that wait: a frame in flight stands at its head, and does not wait (7.1, R116). -/
def Slot.waitingIn {α : Type} (slot : Slot) (x : Source) (queue : List α) : List α :=
  if slot.inFlight = some x then queue.drop 1 else queue

/-- The answers that wait (7.1). -/
def Slot.waitingAnswers (slot : Slot) (answers : List Answer) : List Answer :=
  answers.filter fun a => decide (slot.inFlight ≠ some (.answer a.number))

/-- A choice that comes to a TAIL or LINE tests the credit, so it updates it first (R139). What it comes to are the frames that wait:
while a frame is driven, those beside the one in flight (the model's choice, log 41). -/
def State.choiceTests (s : State) : Bool :=
  !s.cu.conflict && (s.lnc.slot.waitingIn .custody s.lnc.custodyList).isEmpty && s.pub.stationWaiting.isNone
  && (!(s.lnc.slot.waitingIn .line s.pub.lineQueue).isEmpty
    || ((s.lnc.slot.waitingIn .define s.pub.defines).isEmpty
      && (!(s.lnc.slot.waitingAnswers s.pub.answers).isEmpty
        || ((s.lnc.slot.waitingIn .ask s.vw.asks).isEmpty && s.pub.tailWaiting.isSome))))

/-- The slot chooses again (R115): made at every event that changes a source's offer, the credit or the slot, and at a row that may
have changed one (the model's choice, log 40). A choice that tests the credit updates it (R139), in DRIVING too, where the frame of the
slot is fixed. -/
def State.choose (s : State) : State :=
  if s.online then
    let s' := if s.choiceTests then s.updateCredit else s
    if s'.lnc.slot.isDriving then s' else s'.setLnc { s'.lnc with slot := slotOf s'.choice }
  else s

/-! ## Beacons and TAIL images (7.2, 7.3) -/

/-- A STATION frame is made ready, replacing a waiting one, with attempt count 0 (R124). -/
def State.stationReady (s : State) : State := s.setPub { s.pub with stationWaiting := some 0 }

/-- TAILs are allowed (R127). -/
def State.tailsAllowed (s : State) : Bool := decide (0 < s.pub.ownWeight) && !s.pub.muted && !s.cu.conflict

/-- The image of the open region as it stands (R128). -/
def State.tailImage (s : State) : TailImage :=
  { series := s.tb.series, custody := s.cu.state, committed := s.tb.committedThrough, firstOpen := s.tb.firstOpen,
    lines := s.tb.region.lines, attempts := 0 }

/-- A TAIL image is built where TAILs are allowed: it replaces a waiting one and restarts the refresh timer (R128, R129). -/
def State.buildTail (s : State) : State :=
  if s.tailsAllowed then s.setPub { s.pub with tailWaiting := some s.tailImage, refreshAt := some (s.after 2000) } else s

/-- Where TAILs are not allowed, the waiting image is discarded and the refresh timer stopped (R129). -/
def State.dropTail (s : State) : State :=
  if s.tailsAllowed then s else s.setPub { s.pub with tailWaiting := none, refreshAt := none }

/-- The MUTED flag for an own weight (R137). -/
def State.mutedFor (s : State) (own : Nat) : Bool := decide (0 < own) && decide (s.shareFor own < 50)

/-- Weight, share and MUTED computed anew, on full credit at an entry from weight 0 (R138 steps 2 and 3). -/
def State.reweigh (s : State) (own : Nat) : State :=
  s.setPub
    { s.pub with
      ownWeight := own, weightSum := s.weightSumFor own, share := s.shareFor own, muted := s.mutedFor own,
      credit := if s.pub.ownWeight = 0 ∧ 0 < own then 800 else s.pub.credit,
      remainder := if s.pub.ownWeight = 0 ∧ 0 < own then 0 else s.pub.remainder }

/-- The share and the MUTED flag are recomputed (R138). -/
def State.reshare (s : State) : State :=
  let s' := s.updateCredit.reweigh s.cu.state.weight
  if s'.pub.muted = s.pub.muted then s'.dropTail
  else if s'.pub.muted then s'.stationReady.dropTail
  else s'.stationReady.dropTail.buildTail

/-! ## The LINE send queue, answers and definitions (7.4 to 7.6) -/

/-- The oldest entry of a queue that is not in flight leaves it (R131). -/
def dropOldestWaiting {α : Type} (inFlight : Bool) : List α → List α
  | [] => []
  | x :: rest => if inFlight then x :: rest.drop 1 else rest

/-- A RECORD line is handed to the LINE send queue (R130, R131); under CONFLICT it is not entered (R135). -/
def State.queueLine (s : State) (number : Nat) (brk : Bool) (text : List Byte) : State :=
  if s.cu.conflict then s
  else
    let e : LineEntry := { number := number, brk := brk, text := text, attempts := 0 }
    if s.pub.lineQueue.length < 8 then s.setPub { s.pub with lineQueue := s.pub.lineQueue ++ [e] }
    else
      s.setPub
        { s.pub with lineQueue := dropOldestWaiting (decide (s.lnc.slot.inFlight = some .line)) s.pub.lineQueue ++ [e],
                     lineOverflow := satSucc s.pub.lineOverflow }

/-- The RECORD line of a number in the committed ring (R95). -/
def Tb.ringRecord (t : Tb) (n : Nat) : Option CommittedLine :=
  t.ring.find? fun l => decide (l.series = .record) && decide (l.number = n)

/-- The answer form for a number (R132). -/
def Tb.answerForm (t : Tb) (n : Nat) : AnswerForm :=
  match t.ringRecord n with
  | some l => .held l.brk l.text
  | none => .gone

/-- An entry joins the answer set, lowest number first. -/
def insertAnswer (a : Answer) : List Answer → List Answer
  | [] => [a]
  | x :: rest => if a.number < x.number then a :: x :: rest else x :: insertAnswer a rest

/-- One number of an ASK (R132 step 3). -/
def State.askFor (s : State) (n : Nat) : State :=
  if s.pub.answers.any fun a => decide (a.number = n) then s
  else if s.pub.answers.length < 32 then
    s.setPub { s.pub with answers := insertAnswer { number := n, form := s.tb.answerForm n, attempts := 0 } s.pub.answers }
  else s.setPub { s.pub with answersDropped := satSucc s.pub.answersDropped }

/-- An ASK is taken (R132). -/
def State.takeAsk (s : State) (a : AskBody) : State :=
  if s.cu.conflict then s
  else if a.count = 0 ∨ 8 < a.count ∨ a.first = 0 then s
  else ((List.range' a.first a.count).filter fun n => decide (n ≤ maxLine)).foldl State.askFor s

/-- A shared local definition is handed to the define send list (R134). -/
def State.sendDefinition (s : State) (strokes : List Stroke) (text : List Byte) : State :=
  if s.cu.conflict then s
  else if s.pub.defines.length < 8 then
    s.setPub
      { s.pub with defines := s.pub.defines ++ [{ number := s.pub.nextDefine, strokes := strokes, text := text, attempts := 0 }],
                   nextDefine := (s.pub.nextDefine + 1) % 256 }
  else s.setPub { s.pub with defineSendLost := satSucc s.pub.defineSendLost }

/-! ## Station conflict, GO and resets -/

/-- The Publisher under a new CONFLICT (R135); an entry in flight is cut off by the Line Controller and removed. -/
def State.conflictAtPub (s : State) : State :=
  (s.setPub { s.pub with tailWaiting := none, refreshAt := none, lineQueue := [], answers := [], defines := [] }).stationReady

/-- The Publisher at GO (R142). -/
def State.publisherAtGo (s : State) : State :=
  s.setPub
    { s.pub with signature := s.cfg.signature, creditMark := s.clock.chars, ownWeight := 0, weightSum := s.weightSumFor 0,
                 share := 0, muted := false, stationWaiting := some 0, beaconAt := some (s.after 500) }

/-- The Publisher at RESTART (R142): the next define number and the loss counts are kept. -/
def Pub.atRestart (p : Pub) : Pub :=
  { Pub.reset with nextDefine := p.nextDefine, lineOverflow := p.lineOverflow, answersDropped := p.answersDropped,
                   defineSendLost := p.defineSendLost }

/-! ## The commands of the Publisher's timers -/

/-- BEACON_TIMER_EXPIRY (R124). -/
def State.beaconExpiry (s : State) : State :=
  match s.pub.beaconAt with
  | none => s
  | some t =>
    let s' := (s.reachMs t).stationReady
    (s'.setPub { s'.pub with beaconAt := some (s'.after 500) }).choose

/-- REFRESH_TIMER_EXPIRY (R129). -/
def State.refreshExpiry (s : State) : State :=
  match s.pub.refreshAt with
  | none => s
  | some t =>
    let s' := s.reachMs t
    ((s'.setPub { s'.pub with refreshAt := none }).buildTail).choose

/-- The smallest number of character times after which the credit covers `cost` at a share above 0 (R139). -/
def reachTime (c f share cost : Nat) : Nat := (1000 * (cost - c) - f + share - 1) / share

/-- The costs of the TAIL, LINE and answer frames that wait, whether at the head of their source or behind it, above the credit at the
last update (R139). -/
def State.heldCosts (s : State) : List Nat :=
  ((s.lnc.slot.waitingIn .line s.pub.lineQueue).map (fun e => (e.frame s.cfg).cost)
    ++ (s.lnc.slot.waitingAnswers s.pub.answers).map (fun a => (a.frame s.cfg).cost)
    ++ s.tailCost.toList).filter fun c => decide (s.pub.credit < c)

/-- The character time at which the credit reaches `cost` (R139). -/
def State.reachAt (s : State) (cost : Nat) : Nat :=
  s.pub.creditMark + reachTime s.pub.credit s.pub.remainder s.pub.share cost

/-- CREDIT_REACH (R139): the moment the credit covers the least cost it was short of at its last update makes an update, and
the slot chooses again. At share 0 there is no credit reach. -/
def State.creditReach (s : State) : State :=
  match s.heldCosts.min? with
  | none => s
  | some cost =>
    if s.pub.share = 0 ∨ 800 < cost then s else ((s.reachChars (s.reachAt cost)).updateCredit).choose

def execBeaconTimerExpiry (s : State) : Host.Outcome State Fault Refusal := .next s.beaconExpiry

def execRefreshTimerExpiry (s : State) : Host.Outcome State Fault Refusal := .next s.refreshExpiry

def execCreditReach (s : State) : Host.Outcome State Fault Refusal := .next s.creditReach

end Sys2Proof.Machine
end

