-- ==== Sys2Proof/Machine/View.lean ====
section
/-! DEFINITION. The Viewer and the Screen Port (09): record store, gaps and ASKs, tail images, the followed holder, the
composition of the panes, and the row send. -/

namespace Sys2Proof.Machine

/-! ## The record store (9.2) -/

/-- The slot of a line number (R167). -/
def storeIndex (n : Nat) : Nat := n % 512

/-- The slot for line `n`, where it is not EMPTY. -/
def Viewer.slotFor (v : Viewer) (n : Nat) : Option StoreSlot := v.store.find? fun x => decide (x.index = storeIndex n)

/-- A slot's place in the store, by rising index; the slot of the same index is replaced. -/
def putSlot (x : StoreSlot) : List StoreSlot → List StoreSlot
  | [] => [x]
  | y :: rest => if x.index < y.index then x :: y :: rest else if x.index = y.index then x :: rest else y :: putSlot x rest

def Viewer.put (v : Viewer) (n : Nat) (st : StoreState) : Viewer :=
  { v with store := putSlot { index := storeIndex n, tag := n, state := st } v.store }

/-- The state of the slot for `n` where it is tagged `n`. -/
def Viewer.stateOf (v : Viewer) (n : Nat) : Option StoreState :=
  match v.slotFor n with
  | some x => if x.tag = n then some x.state else none
  | none => none

/-- The slot for `n` may be taken for it: EMPTY or tagged lower (R167). -/
def Viewer.takes (v : Viewer) (n : Nat) : Bool :=
  match v.slotFor n with
  | some x => decide (x.tag < n)
  | none => true

def State.putLine (s : State) (n : Nat) (st : StoreState) : State := s.setVw (s.vw.put n st)

/-- Line `n` becomes LOST: the lines-lost count rises and LINE_LOST is latched (R168, R173). -/
def State.loseLine (s : State) (n : Nat) : State :=
  (s.setVw { s.vw.put n .lost with linesLost := satSucc s.vw.linesLost }).latch (.lineLost n)

/-- Step 3 of R168: a LINE with text, or with GONE set, meets the slot for its number. -/
def State.storeLine (s : State) (n : Nat) (gone brk : Bool) (text : List Byte) : State :=
  match s.vw.stateOf n with
  | some (.held _ _) => s
  | some .lost => if gone then s else s.putLine n (.held brk text)
  | some (.waiting _ _ _) => if gone then s.loseLine n else s.putLine n (.held brk text)
  | none => if s.vw.takes n then (if gone then s.loseLine n else s.putLine n (.held brk text)) else s

/-! ## Reach and gaps (9.4) -/

/-- Line `n` is opened as a gap where its slot may be taken (R172). -/
def State.openGap (s : State) (station n : Nat) : State :=
  if (s.vw.stateOf n).isNone && s.vw.takes n then s.putLine n (.waiting 0 (s.after 300) station) else s

/-- The ask floor (R172). -/
def askFloor (base reach : Nat) : Nat := max base (reach - 511)

/-- The reach is set with its station, and the store base at the first setting (R171). -/
def Viewer.setReach (v : Viewer) (reach station : Nat) : Viewer :=
  { v with reach := some (reach, station), base := some (v.base.getD (max 1 (reach - 31))) }

/-- The reach is set; where its station is another, gaps are opened from the ask floor (R172). -/
def State.setReach (s : State) (reach station : Nat) : State :=
  let s' := s.setVw (s.vw.setReach reach station)
  if station = s.own then s'
  else
    (List.range' (askFloor (s'.vw.base.getD 1) reach) (reach + 1 - askFloor (s'.vw.base.getD 1) reach)).foldl
      (fun t n => t.openGap station n) s'

/-! ## The followed holder (9.3) -/

/-- The roster slot number of a station. -/
def Roster.indexOf (r : Roster) (station : Nat) : Option Nat :=
  r.slots.toList.findIdx? fun x => match x with
    | some q => decide (q.station = station)
    | none => false

def Roster.slot (r : Roster) (i : Nat) : Option RosterSlot := (r.slots[i]?).getD none

/-- The slot of a station. -/
def Roster.of (r : Roster) (station : Nat) : Option RosterSlot :=
  match r.indexOf station with
  | some i => r.slot i
  | none => none

def Roster.setSlot (r : Roster) (i : Nat) (x : Option RosterSlot) : Roster := { r with slots := r.slots.setIfInBounds i x }

def Viewer.mark (v : Viewer) (i : Nat) : SlotMark := (v.marks[i]?).getD .none
def Viewer.tail (v : Viewer) (i : Nat) : Option TailImage := (v.tails[i]?).getD none
def Viewer.setMark (v : Viewer) (i : Nat) (m : SlotMark) : Viewer := { v with marks := v.marks.setIfInBounds i m }
def Viewer.setTail (v : Viewer) (i : Nat) (t : Option TailImage) : Viewer := { v with tails := v.tails.setIfInBounds i t }

/-- A station is better than another: higher rank, and between equal ranks the lower station number (00). -/
def better (rankA stationA rankB stationB : Nat) : Bool :=
  decide (rankB < rankA) || (decide (rankA = rankB) && decide (stationA < stationB))

/-- The better of two roster slots. -/
def betterSlot : Option RosterSlot → RosterSlot → Option RosterSlot
  | none, y => some y
  | some x, y => if better y.rank y.station x.rank x.station then some y else some x

/-- A slot's effective state counts it as a holder (R169). -/
def effectiveHolder (m : SlotMark) (r : RosterSlot) : Bool :=
  decide (r.state = .admitted)
  && (match m with
      | .released => false
      | .named => true
      | .none => r.custody.holds)

/-- The holders of the roster by effective state, in slot order. -/
def State.effectiveHolders (s : State) : List RosterSlot :=
  (List.range 16).filterMap fun i =>
    match s.roster.slot i with
    | some r => if effectiveHolder (s.vw.mark i) r then some r else none
    | none => none

/-- The followed holder, chosen anew (R169). -/
def State.followChoice (s : State) : Option Followed :=
  if s.cfg.writer && s.cu.state.holds then some .self
  else (s.effectiveHolders.foldl betterSlot none).map fun r => .station r.station

/-- The station FOLLOW_CHANGED gives (R169). -/
def State.followStation (s : State) : Option Followed → Nat
  | none => 0
  | some .self => s.own
  | some (.station n) => n

/-- The choice takes effect: FOLLOW_CHANGED at a change, and the reach at a change to SELF (R169, R171). -/
def State.follow (s : State) : State :=
  if s.viewing then
    if s.followChoice = s.vw.followed then s
    else
      let s' := (s.setVw { s.vw with followed := s.followChoice }).latch (.followChanged (s.followStation s.followChoice))
      if s.followChoice = some .self then s'.setReach s.tb.committedThrough s.own else s'
  else s

/-! ## Tail images (9.6) -/

def Pane.pins (p : Option Pane) (station : Nat) : Bool :=
  match p with
  | some q => decide (q.source = .station station)
  | none => false

/-- A pane pins the slot of a station (R175). -/
def Viewer.pinned (v : Viewer) (station : Nat) : Bool := Pane.pins v.paneA station || Pane.pins v.paneB station

/-- The slots no longer pinned lose their DRAFT images (R175). -/
def State.releasePins (s : State) : State :=
  s.setVw
    { s.vw with
      tails := Vector.ofFn fun (i : Fin 16) =>
        match s.vw.tails[i], s.roster.slots[i] with
        | some t, some r => if t.series = .draft ∧ s.vw.pinned r.station = false then none else some t
        | t, _ => t }

/-! ## Composition (9.7) -/

/-- What a screen row shows (R177). -/
inductive RowShows where
  | blank
  | status (text : List Byte)
  | held (n : Nat) (text : List Byte)
  | waiting (n : Nat)
  | lost (n : Nat)
  | openRecord (n : Nat) (text : List Byte)
  | draft (n : Nat) (isOpen : Bool) (text : List Byte)
  | openEnd (text : List Byte)
  deriving DecidableEq, Repr

/-- The 8 characters of a RECORD prefix (R177). -/
def recordPrefix (n : Nat) (last : Byte) : List Byte := rightAlign 7 (pageLine n) ++ [last]

/-- The 8 characters of a DRAFT prefix (R177). -/
def draftPrefix (n : Nat) (last : Byte) : List Byte := [68] ++ rightAlign 6 (decimal (n % 1000000)) ++ [last]

def missingText : List Byte := bytesOf "[missing]"
def lostText : List Byte := bytesOf "[lost]"

/-- The row image (R177): prefix, when on and the row shows a line, and text. -/
def RowShows.image (pfx : Bool) : RowShows → List Byte
  | .blank => []
  | .status t => t
  | .held n t => (if pfx then recordPrefix n 32 else []) ++ t
  | .waiting n => if pfx then recordPrefix n 32 ++ missingText else missingText ++ [32] ++ pageLine n
  | .lost n => if pfx then recordPrefix n 32 ++ lostText else lostText ++ [32] ++ pageLine n
  | .openRecord n t => (if pfx then recordPrefix n 62 else []) ++ t
  | .draft n o t => (if pfx then draftPrefix n (if o then 62 else 32) else []) ++ t
  | .openEnd t => (if pfx then spaces 8 else []) ++ t

/-- The row of store line `n` (R167, R177); `n = 0` stands for a number below 1. -/
def Viewer.storeRow (v : Viewer) (n : Nat) : RowShows :=
  if n = 0 then .blank
  else
    match v.stateOf n with
    | some (.held _ t) => .held n t
    | some (.waiting _ _ _) => .waiting n
    | some .lost => .lost n
    | none => .blank

/-- Open lines numbered from the first open line upward, in a series (R177); a first open line of 0 gives no numbers. Upward goes on past
16,777,215 in both series (the model's choice, log 43). -/
def openRows (series : Series) (first : Nat) : List (List Byte) → List RowShows
  | [] => []
  | t :: rest =>
    (if first = 0 then .openEnd t
     else match series with
       | .record => .openRecord first t
       | .draft => .draft first true t)
    :: openRows series (if first = 0 then 0 else first + 1) rest

/-- `k` store rows, the bottom one showing `bottom` and each above it one line lower; none where there is no bottom. -/
def Viewer.storeRows (v : Viewer) (k : Nat) (bottom : Option Nat) : List RowShows :=
  match bottom with
  | none => List.replicate k .blank
  | some b => ((List.range k).map fun i => v.storeRow (b - i)).reverse

/-- The last `r` of a list. -/
def lastOf {α : Type} (r : Nat) (xs : List α) : List α := xs.drop (xs.length - r)

/-- `tail` at the bottom of `r` rows, with the rows `above k` over it. -/
def withTail (r : Nat) (tail : List RowShows) (above : Nat → List RowShows) : List RowShows :=
  above (r - tail.length) ++ lastOf r tail

def Tb.openRows (t : Tb) : List RowShows := Sys2Proof.Machine.openRows t.series t.firstOpen t.region.lines

def TailImage.openRows (t : TailImage) : List RowShows := Sys2Proof.Machine.openRows t.series t.firstOpen t.lines

/-- The tail image of a station's slot. -/
def State.tailOf (s : State) (station : Nat) : Option TailImage :=
  match s.roster.indexOf station with
  | some i => s.vw.tail i
  | none => none

/-- The reach as a line number. -/
def Viewer.reachLine (v : Viewer) : Option Nat := v.reach.map Prod.fst

/-- A pane with source AUTO (R178, R179). -/
def State.autoRows (s : State) (p : Pane) : List RowShows :=
  match s.vw.followed with
  | none =>
    if p.rows = 0 then []
    else
      .status (bytesOf (if s.cu.recordClosed then "OFF RECORD" else "NO RECORD"))
      :: s.vw.storeRows (p.rows - 1) (s.vw.reachLine.map fun n => n - p.offset)
  | some f =>
    if p.offset = 0 then
      match f with
      | .self => withTail p.rows s.tb.openRows fun k => s.vw.storeRows k s.vw.reachLine
      | .station n =>
        match s.tailOf n with
        | some t =>
          if t.series = .record then withTail p.rows t.openRows fun k => s.vw.storeRows k s.vw.reachLine
          else s.vw.storeRows p.rows s.vw.reachLine
        | none => s.vw.storeRows p.rows s.vw.reachLine
    else s.vw.storeRows p.rows (s.vw.reachLine.map fun n => n - p.offset)

/-- A committed line as a SELF pane shows it (R180). -/
def CommittedLine.row (l : CommittedLine) : RowShows :=
  match l.series with
  | .record => .held l.number l.text
  | .draft => .draft l.number false l.text

/-- `k` ring rows, the bottom one showing the ring line `skip` before the newest (R180). -/
def Tb.ringRows (t : Tb) (k skip : Nat) : List RowShows :=
  let shown := lastOf k ((t.ring.take (t.ring.length - skip)).map CommittedLine.row)
  List.replicate (k - shown.length) .blank ++ shown

/-- A pane with source SELF (R180); at a node that is no writer, blank rows over one row of length 0 (R176). With fewer rows than
open lines it shows the last of them (log 36). -/
def State.selfRows (s : State) (p : Pane) : List RowShows :=
  if s.cfg.writer then
    if p.offset = 0 then withTail p.rows s.tb.openRows fun k => s.tb.ringRows k 0 else s.tb.ringRows p.rows p.offset
  else List.replicate p.rows .blank

/-- A pane with source STATION n (R180). With fewer rows than the image has lines it shows the last of them (log 36). -/
def State.stationRows (s : State) (p : Pane) (n : Nat) : List RowShows :=
  match s.tailOf n with
  | some t => withTail p.rows t.openRows fun k => List.replicate k .blank
  | none =>
    if p.rows = 0 then []
    else .status (bytesOf "STATION " ++ decimal n ++ bytesOf " NO TAIL") :: List.replicate (p.rows - 1) .blank

/-- The rows of a pane: `rows` of them. -/
def State.paneRows (s : State) (p : Pane) : List RowShows :=
  match p.source with
  | .auto => s.autoRows p
  | .self => s.selfRows p
  | .station n => if n = s.own then s.selfRows p else s.stationRows p n

def State.paneImages (s : State) : Option Pane → List (List Byte)
  | some p => (s.paneRows p).map (RowShows.image p.pfx)
  | none => []

/-- The row images of the screen: pane A above pane B (R176). -/
def State.screenImages (s : State) : List (List Byte) := s.paneImages s.vw.paneA ++ s.paneImages s.vw.paneB

/-- A row number joins the dirty set, kept in rising order without repeats (R181). -/
def markDirty (r : Nat) : List Nat → List Nat
  | [] => [r]
  | x :: rest => if r < x then r :: x :: rest else if r = x then x :: rest else x :: markDirty r rest

/-- The rows whose image differs from the one held, from row `r` on, join the dirty set (R177, R181). -/
def markChanged : Nat → List (List Byte) → List (List Byte) → List Nat → List Nat
  | _, [], _, d => d
  | r, x :: xs, ys, d =>
    markChanged (r + 1) xs (ys.drop 1) (if ys.head? = some x then d else markDirty r d)

/-- The panes are composed anew (R177). -/
def State.compose (s : State) : State :=
  if s.viewing then
    s.setSp { s.sp with rows := s.screenImages, dirty := markChanged 0 s.screenImages s.sp.rows s.sp.dirty }
  else s

/-! ## Asking (9.5) -/

/-- The lines of a run from `n` on: WAITING, of one asked-of station, with an ask count below 3 (R173). -/
def Viewer.runFrom (v : Viewer) (askOf : Nat) : Nat → Nat → List Nat
  | 0, _ => []
  | k + 1, n =>
    match v.stateOf n with
    | some (.waiting asks _ st) => if asks < 3 ∧ st = askOf then n :: v.runFrom askOf k (n + 1) else []
    | _ => []

/-- A line of a run: its ask count rises and its gap timer restarts for 2 s (R173). -/
def State.askedAgain (s : State) (n : Nat) : State :=
  match s.vw.stateOf n with
  | some (.waiting asks _ st) => s.putLine n (.waiting (asks + 1) (s.after 2000) st)
  | _ => s

/-- An ASK for a run joins the ASK list, or is not made (R174). -/
def State.makeAsk (s : State) (target first count : Nat) : State :=
  if s.cu.conflict ∨ 4 ≤ s.vw.asks.length then s.setVw { s.vw with asksLost := satSucc s.vw.asksLost }
  else s.setVw { s.vw with asks := s.vw.asks ++ [{ target := target, first := first, count := count, attempts := 0 }] }

/-- GAP_TIMER_EXPIRY of line `n` (R173). -/
def State.gapExpiry (s : State) (n : Nat) : State :=
  match s.vw.stateOf n with
  | some (.waiting asks t st) =>
    let s1 := s.reachMs t
    if asks < 3 then
      let run := s1.vw.runFrom st 8 n
      (((run.foldl State.askedAgain s1).makeAsk st n run.length).choose).compose
    else (s1.loseLine n).compose
  | _ => s

/-! ## The Screen Port (9.8) -/

/-- The row record of a row (R182, 11.6). -/
def rowRecord (r : Nat) (image : List Byte) : List Byte := leBytes 1 r ++ leBytes 1 image.length ++ image

/-- ROW_SEND_START (R182). -/
def State.rowSendStart (s : State) : State :=
  match s.sp.send, s.sp.dirty with
  | none, r :: rest =>
    if s.sp.busyPin then s
    else s.setSp { s.sp with dirty := rest, send := some { row := r, record := rowRecord r (s.sp.rows.getD r []), given := 0 } }
  | _, _ => s

/-- BUSY_CHANGE (R182): going high pauses the send after the byte in progress (log 17). -/
def State.busyChange (s : State) (high : Bool) : State :=
  if s.sp.busyPin = high then s
  else
    s.setSp
      { s.sp with
        busyPin := high,
        send := s.sp.send.map fun w => if high then { w with given := min w.record.length (w.given + 1) } else w }

/-- ROW_SEND_COMPLETE (R182): the last byte has been given. With BUSY low the bytes left are given (log 17); with BUSY high the
send completes only where the byte in progress was the last. -/
def State.rowSendComplete (s : State) : State :=
  match s.sp.send with
  | none => s
  | some w => if s.sp.busyPin = true ∧ w.given < w.record.length then s else s.setSp { s.sp with send := none }

/-! ## GO, RESTART (R183) -/

/-- The Viewer at GO: pane settings, rows composed, every row dirty. -/
def State.viewerAtGo (s : State) : State :=
  if s.cfg.viewer then
    let s' := s.setVw { s.vw with paneA := some s.cfg.paneA, paneB := some s.cfg.paneB }
    s'.setSp { s'.sp with rows := s'.screenImages, dirty := List.range (s.cfg.paneA.rows + s.cfg.paneB.rows) }
  else s

/-- The Viewer at RESTART keeps its two counts. -/
def Viewer.atRestart (v : Viewer) : Viewer := { Viewer.reset with asksLost := v.asksLost, linesLost := v.linesLost }

/-! ## The meanings -/

def execGapTimerExpiry (n : Nat) (s : State) : Host.Outcome State Fault Refusal := .next (s.gapExpiry n)

def execRowSendStart (s : State) : Host.Outcome State Fault Refusal := .next s.rowSendStart

def execBusyChange (high : Bool) (s : State) : Host.Outcome State Fault Refusal := .next (s.busyChange high)

def execRowSendComplete (s : State) : Host.Outcome State Fault Refusal := .next s.rowSendComplete

end Sys2Proof.Machine
end

