-- ==== Sys2Proof/Machine/Transcript.lean ====
section
/-! DEFINITION. The Transcript Builder (05): rendering of units into lines, the open region, commits, the two series, the
record horizon and the end of the record. -/

namespace Sys2Proof.Machine

/-! ## Steno notation (R82) -/

def stenoLetters : List Byte := bytesOf "STKPWHRAO*EUFRPBLGTSDZ#"

/-- The letters of the keys from `lo` up, `n` of them, that a stroke holds. -/
def stenoRun (v : Stroke) (lo n : Nat) : List Byte :=
  ((List.range' lo n).filter fun k => v.getLsbD (k - 1)).map fun k => stenoLetters.getD (k - 1) 0

/-- The steno notation of a stroke (R82). -/
def stenoNotation (v : Stroke) : List Byte :=
  stenoRun v 1 7 ++ stenoRun v 8 5
    ++ (if (stenoRun v 8 5).isEmpty && !(stenoRun v 13 10).isEmpty then [45] else [])
    ++ stenoRun v 13 10 ++ stenoRun v 23 1

/-! ## Case (R84) -/

def isUpper (b : Byte) : Bool := decide (65 ≤ b.toNat) && decide (b.toNat ≤ 90)
def isLower (b : Byte) : Bool := decide (97 ≤ b.toNat) && decide (b.toNat ≤ 122)
def isLetter (b : Byte) : Bool := isUpper b || isLower b
def upper (b : Byte) : Byte := if isLower b then b - 32 else b
def lower (b : Byte) : Byte := if isUpper b then b + 32 else b

/-- A character rendered under CAP and LOWER: the first letter takes its case and clears both (R84). -/
def casedChar (f : Format) (b : Byte) : Byte × Format :=
  if isLetter b then
    (if f.cap then upper b else if f.lower then lower b else b, { f with cap := false, lower := false })
  else (b, f)

/-! ## Placing words (5.4) -/

/-- The pen: the open lines before the line at the insertion point, that line, line-start, and the format state. The column is
the length of the line. -/
structure Pen where
  done      : List (List Byte)
  cur       : List Byte
  lineStart : Bool
  format    : Format
  deriving DecidableEq, Repr

def Pen.lines (p : Pen) : List (List Byte) := p.done ++ [p.cur]

/-- A new open line begins with `start` on it. -/
def Pen.newLine (p : Pen) (start : List Byte) : Pen := { p with done := p.done ++ [p.cur], cur := start }

/-- A word cut into pieces of `w` characters (R86), with `fuel` pieces at most. -/
def cutPieces (w : Nat) : Nat → List Byte → List (List Byte)
  | 0, _ => []
  | fuel + 1, cs => if cs.length ≤ w then [cs] else cs.take w :: cutPieces w fuel (cs.drop w)

/-- An over-long word's pieces, each on its own line; the first on the line found (R86). -/
def Pen.placePieces (p : Pen) : List (List Byte) → Pen
  | [] => p
  | x :: rest => rest.foldl Pen.newLine { p with cur := p.cur ++ x }

/-- A word is placed with a separator of 0 or 1 spaces (R85, R86), on lines of `w` characters. -/
def Pen.placeWord (p : Pen) (w sep : Nat) (word : List Byte) : Pen :=
  let sp := if p.lineStart then 0 else sep
  if p.cur.length + sp + word.length ≤ w then { p with cur := p.cur ++ spaces sp ++ word, lineStart := false }
  else if word.length ≤ w then { p.newLine word with lineStart := false }
  else
    { (if p.cur.isEmpty then p else p.newLine []).placePieces (cutPieces w word.length word) with lineStart := false }

/-- The line on which a word's first character falls, when placed (R80). -/
def Pen.wordLine (p : Pen) (w sep : Nat) (word : List Byte) : Nat :=
  let sp := if p.lineStart then 0 else sep
  if p.cur.length + sp + word.length ≤ w then p.done.length
  else if word.length ≤ w then p.done.length + 1
  else if p.cur.isEmpty then p.done.length else p.done.length + 1

/-- A paragraph mark (R87): a new line at the indent, or the line that holds no word re-indented. -/
def Pen.para (p : Pen) (indent : Nat) : Pen :=
  if p.lineStart then { p with cur := spaces indent } else { p.newLine (spaces indent) with lineStart := true }

/-! ## Reading a unit's text (5.3) -/

/-- The text so far: the pen, the word in progress, how many words were placed, and the line of the first character. -/
structure TextPen where
  pen   : Pen
  word  : List Byte
  words : Nat
  first : Option Nat
  deriving DecidableEq, Repr

/-- What a unit's words are placed with: line width, indent, and the separator of the first word (R83). -/
structure Setting where
  width  : Nat
  indent : Nat
  sep    : Nat
  deriving DecidableEq, Repr

/-- The word in progress, if any, ends and is placed (R81, R83). The first word placed clears ATTACH (R79). -/
def TextPen.endWord (t : TextPen) (g : Setting) : TextPen :=
  if t.word.isEmpty then t
  else
    let sep := if t.words = 0 then g.sep else 1
    let placed := t.pen.placeWord g.width sep t.word
    { pen := { placed with format := { placed.format with attach := false } }, word := [], words := t.words + 1,
      first := some (t.first.getD (t.pen.wordLine g.width sep t.word)) }

/-- A character joins the word in progress; a cased one follows R84. -/
def TextPen.char (t : TextPen) (cased : Bool) (b : Byte) : TextPen :=
  if cased then
    { t with word := t.word ++ [(casedChar t.pen.format b).1], pen := { t.pen with format := (casedChar t.pen.format b).2 } }
  else { t with word := t.word ++ [b] }

def TextPen.setFormat (t : TextPen) (f : Format) : TextPen := { t with pen := { t.pen with format := f } }

/-- A PARA where it stands (R81, R87): indent spaces are characters of the unit (R80). -/
def TextPen.para (t : TextPen) (g : Setting) : TextPen :=
  let t' := t.endWord g
  { t' with
    pen := t'.pen.para g.indent,
    first := if g.indent = 0 then t'.first else some (t'.first.getD (t'.pen.para g.indent).done.length) }

/-- One byte of a unit's text where it stands (R81 to R84). Position marks act only by R83 and place nothing here. -/
def TextPen.byte (t : TextPen) (g : Setting) (cased : Bool) (b : Byte) : TextPen :=
  if b = 32 then t.endWord g
  else if 33 ≤ b.toNat then t.char cased b
  else if b = 4 ∨ b = 6 then t.setFormat { t.pen.format with cap := true, lower := false }
  else if b = 5 then t.setFormat { t.pen.format with cap := false, lower := true }
  else if b = 7 then t.para g
  else t

/-- The separator of a unit's first word (R83). -/
def firstSep (f : Format) (text : List Byte) : Nat :=
  if f.attach = true ∨ text.head? = some 1 ∨ (text.head? = some 3 ∧ f.glueLast = true) then 0 else 1

/-- ATTACH and GLUE_LAST after a unit that placed a word (R79). -/
def endFlags (f : Format) (text : List Byte) (words : Nat) : Format :=
  if words = 0 then f
  else { f with attach := decide (text.getLast? = some 2), glueLast := decide (text.head? = some 3) }

/-- A unit placed by a pen (R81 to R87): the pen after it and its anchor line. An UNTRANSLATE does not read or change CAP and
LOWER (R79). -/
def Pen.placeUnit (p : Pen) (width indent : Nat) (u : TextUnit) : Pen × Nat :=
  let g : Setting := { width := width, indent := indent, sep := firstSep p.format u.text }
  let t : TextPen := (u.text.foldl (fun (t : TextPen) (b : Byte) => t.byte g (decide (u.kind ≠ .untranslate)) b)
    ({ pen := p, word := [], words := 0, first := none } : TextPen)).endWord g
  ({ t.pen with format := endFlags t.pen.format u.text t.words }, t.first.getD t.pen.done.length)

/-! ## The open region (5.5) -/

/-- The pen at the end of the lead (R88). -/
def Lead.pen (l : Lead) : Pen :=
  { done := l.lines.dropLast, cur := l.lines.getLastD [], lineStart := l.lineStart, format := l.base }

/-- The units placed again from a pen, oldest first, with their snapshots and anchor lines (R88). -/
def renderUnits (width indent : Nat) : Pen → List TextUnit → Pen × List TextUnit
  | p, [] => (p, [])
  | p, u :: rest =>
    ((renderUnits width indent (p.placeUnit width indent u).1 rest).1,
     { u with snapshot := p.format, anchor := (p.placeUnit width indent u).2 }
       :: (renderUnits width indent (p.placeUnit width indent u).1 rest).2)

/-- A rendering of the open region (R88). -/
def Region.render (r : Region) (width indent : Nat) : Region :=
  let q := renderUnits width indent r.lead.pen r.units
  { lead := r.lead, units := q.2, lines := q.1.lines, lineStart := q.1.lineStart, format := q.1.format }

/-- The lead left when the first open line goes: what the pen holds beyond it, or none (R93 step 2). -/
def leadBeyond (p : Pen) : Lead :=
  match p.lines.drop 1 with
  | [] => { lines := [[]], lineStart := true, base := p.format }
  | l :: rest => { lines := l :: rest, lineStart := p.lineStart, base := p.format }

/-- The open units anchored in the first open line, which are the oldest ones (R93 step 2). -/
def Region.locking (r : Region) : List TextUnit := r.units.takeWhile fun u => decide (u.anchor = 0)

def Region.staying (r : Region) : List TextUnit := r.units.dropWhile fun u => decide (u.anchor = 0)

/-- The stroke-list lengths of some units, summed. -/
def strokeCount (us : List TextUnit) : Nat := (us.map fun u => u.strokes.length).sum

/-- The region after its first open line is committed or discarded (R93 step 2, R101). -/
def Region.dropFirst (r : Region) (width indent : Nat) : Region :=
  Region.render
    { r with lead := leadBeyond (renderUnits width indent r.lead.pen r.locking).1, units := r.staying } width indent

/-- The region holds no lead and no open unit. -/
def Region.isEmpty (r : Region) : Bool := r.units.isEmpty && decide (r.lead.lines = [[]])

/-- The first open line holds a character or anchors a unit (R94). -/
def Region.firstHolds (r : Region) : Bool := !(r.lines.headD []).isEmpty || !r.locking.isEmpty

/-- The region of the Transcript Builder is replaced by a rendering; the carried marks keep to the open lines (R99). -/
def Tb.setRegion (t : Tb) (r : Region) : Tb := { t with region := r, carried := min t.carried r.lines.length }

/-! ## Horizon and ring (5.8, 5.9) -/

/-- A report to the record horizon (R97). -/
def State.reportHorizon (s : State) (n : Nat) : State := s.setTb { s.tb with horizon := max s.tb.horizon n }

/-- The steps from ordinal `x` to ordinal `y` in commit order (R95). -/
def ordinalSteps (x y : Nat) : Nat := (y + 4294967295 - x) % 4294967295

/-- The next commit ordinal (R93 step 1). -/
def nextOrdinalOf (n : Nat) : Nat := if n < 4294967295 then n + 1 else 1

/-- A line at ordinal `o` is at or beyond the export cursor (R95). -/
def beyondCursor (cursor next o : Nat) : Bool := decide (ordinalSteps cursor o < ordinalSteps cursor next)

/-- A committed line enters the ring; the oldest of 256 leaves first, unexported lines with EXPORT_MISSED (R95). -/
def State.enterRing (s : State) (l : CommittedLine) : State :=
  if s.tb.ring.length < 256 then s.setTb { s.tb with ring := s.tb.ring ++ [l] }
  else
    let s' := s.setTb { s.tb with ring := s.tb.ring.drop 1 ++ [l] }
    match s.tb.ring with
    | old :: _ => if beyondCursor s.lcp.lineCursor s.tb.nextOrdinal old.ordinal then s'.latch (.exportMissed old.ordinal) else s'
    | [] => s'

/-! ## Commit (5.7) -/

/-- The node's own RECORD line reaches the Viewer, and the reach while the followed holder is SELF (R168, R171). -/
def State.ownLineToViewer (s : State) (n : Nat) (brk : Bool) (text : List Byte) : State :=
  if s.viewing then
    let s' := s.storeLine n false brk text
    if s'.vw.followed = some .self then s'.setReach s'.tb.committedThrough s.own else s'
  else s

/-- A RECORD line takes the next number: it enters the ring, the LINE send queue, the horizon and the Viewer (R93). -/
def State.recordLine (s : State) (brk carried : Bool) (text : List Byte) (strokes : Nat) : State :=
  let n := s.tb.nextRecord.getD 1
  let l : CommittedLine :=
    { series := .record, number := n, ordinal := s.tb.nextOrdinal, station := s.own, brk := brk, carried := carried, text := text,
      strokes := strokes }
  let s1 := s.setTb { s.tb with nextRecord := some (n + 1), nextOrdinal := nextOrdinalOf s.tb.nextOrdinal }
  (((s1.enterRing l).queueLine n brk text).reportHorizon n).ownLineToViewer n brk text

/-- The next RECORD number jumps above the horizon where it is at or below it (R98). -/
def State.jump (s : State) : State :=
  if s.tb.nextRecord.getD 1 ≤ s.tb.horizon then s.setTb { s.tb with nextRecord := some (s.tb.horizon + 1) } else s

def breakText : List Byte := bytesOf "[RECORD BREAK]"

/-- A BREAK line is committed at the next RECORD number; past the end of the record it is not written, and RECORD_END is latched
with the present discarded-line count (R98, R101). -/
def State.breakLine (s : State) : State :=
  if maxLine < s.tb.nextRecord.getD 1 then s.latch (.recordEnd s.tb.discardedLines) else s.recordLine true false breakText 0

/-- A BREAK line written at a jump, with its RECORD_BREAK (R98). One past the end of the record is not written, and the model then
latches RECORD_END alone (R101 names that event; R98 does not say whether RECORD_BREAK goes with it: log 33). -/
def State.jumpBreak (s : State) : State :=
  if s.tb.nextRecord.getD 1 ≤ s.tb.horizon then
    if maxLine < s.jump.tb.nextRecord.getD 1 then s.jump.breakLine
    else s.jump.breakLine.latch (.recordBreak (s.jump.tb.nextRecord.getD 1))
  else s

/-- A line past the end of the record is discarded (R101). -/
def State.discardLine (s : State) (strokes : Nat) : State :=
  (s.setTb { s.tb with discardedLines := satSucc s.tb.discardedLines,
                       discardedStrokes := s.tb.discardedStrokes + strokes }).latch (.recordEnd (satSucc s.tb.discardedLines))

/-- The next DRAFT number (R96). -/
def nextDraftOf (n : Nat) : Nat := if n < maxLine then n + 1 else 1

/-- The text of the first open line is committed in the series in force, or discarded (R93, R98, R101). -/
def State.commitText (s : State) (carried : Bool) (text : List Byte) (strokes : Nat) : State :=
  match s.tb.series with
  | .draft =>
    let l : CommittedLine :=
      { series := .draft, number := s.tb.nextDraft, ordinal := s.tb.nextOrdinal, station := s.own, brk := false,
        carried := carried, text := text, strokes := strokes }
    (s.setTb { s.tb with nextDraft := nextDraftOf s.tb.nextDraft, nextOrdinal := nextOrdinalOf s.tb.nextOrdinal }).enterRing l
  | .record =>
    let s' := s.jumpBreak
    if maxLine < s'.tb.nextRecord.getD 1 then s'.discardLine strokes else s'.recordLine false carried text strokes

/-- The first open line leaves the region: its units lock, the region is rendered, and one carried mark goes (R93, R99). -/
def State.releaseFirst (s : State) : State :=
  s.setTb
    (Tb.setRegion { s.tb with carried := s.tb.carried - 1 } (s.tb.region.dropFirst s.cfg.width s.cfg.indent))

/-! ### Notices (R88) -/

/-- The open lines' text or count, or committed-through, differ between two states. -/
def noticeDue (s t : State) : Bool :=
  decide (s.tb.region.lines ≠ t.tb.region.lines) || decide (s.tb.committedThrough ≠ t.tb.committedThrough)

/-- An open-region notice is handed where one rendering, which takes `s` to `t`, calls for one: a TAIL image is due (R88, R128). -/
def State.notified (s t : State) : State := if noticeDue s t then t.buildTail else t

/-- The commit of the oldest open line (R93), a rendering of its own (R88, R89). -/
def State.commitOldest (s : State) : State :=
  s.notified
    ((s.releaseFirst).commitText (decide (0 < s.tb.carried)) (s.tb.region.lines.headD []) (strokeCount s.tb.region.locking))

/-- Commits, oldest first, while a condition on the region holds, at most `fuel` of them. -/
def State.commitWhile (p : Region → Bool) : Nat → State → State
  | 0, s => s
  | fuel + 1, s => if p s.tb.region then State.commitWhile p fuel s.commitOldest else s

/-! ## Emission, undo, retranslation, commit-all -/

/-- More than four open lines: the oldest are committed (R89). -/
def State.commitOver (s : State) : State :=
  State.commitWhile (fun r => decide (4 < r.lines.length)) s.tb.region.lines.length s

/-- The units of the region are replaced and the region rendered, with its notice (R88). -/
def State.setUnits (s : State) (us : List TextUnit) : State :=
  s.notified (s.setTb (s.tb.setRegion (Region.render { s.tb.region with units := us } s.cfg.width s.cfg.indent)))

/-- A new unit, before its rendering. -/
def newUnit (kind : UnitKind) (strokes : List NumStroke) (text : List Byte) : TextUnit :=
  { kind := kind, strokes := strokes, text := text, snapshot := Format.clear, anchor := 0 }

/-- A unit emitted by the TE is appended (R89, R90). -/
def State.emitUnit (s : State) (u : TextUnit) : State :=
  let s1 := State.commitWhile (fun r => decide (96 ≤ r.units.length)) s.tb.region.lines.length s
  (s1.setUnits (s1.tb.region.units ++ [u])).commitOver

/-- The newest open unit, where undo may remove it (R91). -/
def Region.undoable (r : Region) : Option TextUnit :=
  match r.units.getLast? with
  | some u => if u.kind = .drop then none else some u
  | none => none

/-- The newest open unit is removed and the region rendered again (R91). -/
def State.undoUnit (s : State) : State := s.setUnits s.tb.region.units.dropLast

/-- The units at the front of a list are an untranslate run of the strokes `vs` (R75). -/
def isRunAt : List Stroke → List TextUnit → Bool
  | [], _ => true
  | _ :: _, [] => false
  | v :: vs, u :: us => decide (u.kind = .untranslate) && decide (u.strokes.map NumStroke.value = [v]) && isRunAt vs us

/-- The open units contain a run of `vs` (R75). -/
def hasRun (vs : List Stroke) : List TextUnit → Bool
  | [] => false
  | u :: us => isRunAt vs (u :: us) || hasRun vs us

/-- Every run replaced, leftmost first, no unit in two runs (R76). `skip` units still belong to the last run taken. -/
def replaceRuns (vs : List Stroke) (text : List Byte) : Nat → List TextUnit → List TextUnit
  | _, [] => []
  | skip + 1, _ :: us => replaceRuns vs text skip us
  | 0, u :: us =>
    if isRunAt vs (u :: us) then
      newUnit .translation (((u :: us).take vs.length).flatMap TextUnit.strokes) text :: replaceRuns vs text (vs.length - 1) us
    else u :: replaceRuns vs text 0 us

/-- A replacement request (R76, R92): without a run the open region is left as it was. -/
def State.replaceUnits (s : State) (vs : List Stroke) (text : List Byte) : State :=
  if hasRun vs s.tb.region.units then (s.setUnits (replaceRuns vs text 0 s.tb.region.units)).commitOver else s

/-- The open region emptied, its current format state kept as the base state (R94), with its notice. -/
def State.clearRegion (s : State) : State := s.notified (s.setTb (s.tb.setRegion (Region.empty s.tb.region.format)))

/-- Commit-all (R94): every open line that holds a character or anchors a unit is committed, oldest first. -/
def State.commitAllLines (s : State) : State :=
  (State.commitWhile Region.firstHolds s.tb.region.lines.length s).clearRegion

/-! ## Switching series (5.10) -/

/-- The carry bits of a RELEASE at an empty region (R99 step 4). -/
def State.carryFormat (s : State) (carry : Option (Bool × Bool)) : State :=
  match carry with
  | some (cap, attach) =>
    if s.tb.region.isEmpty then
      s.setTb (s.tb.setRegion (Region.empty { cap := cap, lower := false, attach := attach, glueLast := false }))
    else s
  | none => s

/-- A switch into RECORD at `n`, with or without a BREAK line and the carry bits of a RELEASE (R99). -/
def State.switchToRecord (s : State) (n : Nat) (brk : Bool) (carry : Option (Bool × Bool)) : State :=
  match s.tb.series with
  | .record => s
  | .draft =>
    let s1 := s.setTb { s.tb with series := .record, nextRecord := some n }
    let s2 := if brk then s1.jump.breakLine else s1
    ((s2.setTb { s2.tb with carried := s2.tb.region.lines.length }).carryFormat carry).buildTail

/-- A switch into DRAFT (R100). -/
def State.switchToDraft (s : State) : State :=
  match s.tb.series with
  | .draft => s
  | .record => s.setTb { s.tb with series := .draft, nextRecord := none, carried := 0 }

/-! ## GO (R104) -/

/-- The Transcript Builder at GO: CAP alone, DRAFT from 1. -/
def Tb.atGo (t : Tb) : Tb :=
  { t with region := Region.empty { Format.clear with cap := true }, carried := 0, series := .draft, nextDraft := 1,
           nextRecord := none }

end Sys2Proof.Machine
end

