-- ==== Sys2Proof/Machine/Custody.lean ====
section
/-! DEFINITION. The Custody Unit (08): the custody frames it hands on, requests, claims, gathering and hand-over, release,
yield and conflict, and the commands COMMIT_ALL and CLAIM_TIMER_EXPIRY. -/

namespace Sys2Proof.Machine

/-! ## Frames and the custody list (R116, 11.3) -/

def claimFrame (g : Settings) (horizon : Nat) : Frame :=
  { heading := headingByte .claim audienceWriters, body := leBytes 1 g.station ++ leBytes 1 g.rank ++ leBytes 3 horizon }

/-- The next line a RELEASE carries (R160): 0 after the last number. -/
def releaseNext (last : Nat) : Nat := if last = maxLine then 0 else last + 1

def releaseFrame (g : Settings) (target last : Nat) (f : Format) : Frame :=
  { heading := headingByte .release (g.recordAudience ||| audienceWriters),
    body := leBytes 1 g.station ++ leBytes 1 target ++ leBytes 3 last ++ leBytes 3 (releaseNext last) ++ [carryBits f] }

/-- The reasons of a REFUSE (11.3). -/
inductive RefuseReason where
  | hold
  | notAdmitted
  deriving DecidableEq, Repr

def RefuseReason.code : RefuseReason → Nat
  | .hold => 1
  | .notAdmitted => 2

def refuseFrame (g : Settings) (addressee : Nat) (r : RefuseReason) : Frame :=
  { heading := headingByte .refuse 0#5, body := leBytes 1 addressee ++ leBytes 1 g.station ++ leBytes 1 r.code }

/-- The custody list without the waiting frame of a kind; the one in flight, at the head, is not waiting (R116). -/
def dropWaiting (k : CustodyFrameKind) (inFlight : Bool) : List CustodyFrame → List CustodyFrame
  | [] => []
  | x :: rest =>
    if inFlight then x :: rest.filter fun y => decide (y.kind ≠ k) else (x :: rest).filter fun y => decide (y.kind ≠ k)

/-- A custody frame is handed to the custody list (R116). -/
def State.handCustody (s : State) (k : CustodyFrameKind) (f : Frame) : State :=
  s.setLnc
    { s.lnc with
      custodyList := dropWaiting k (decide (s.lnc.slot.inFlight = some .custody)) s.lnc.custodyList
        ++ [{ kind := k, frame := f, attempts := 0 }] }

/-- A REFUSE to a claimer (R157). -/
def State.refuse (s : State) (addressee : Nat) (r : RefuseReason) : State :=
  s.handCustody (.refuse addressee) (refuseFrame s.cfg addressee r)

/-! ## Changes of custody state (R150) -/

/-- The Publisher's part of a change of custody state: STATION, share, TAIL image. The switch of series is handed first. -/
def State.tellCustody (s : State) : State := (s.stationReady.reshare).buildTail

/-- A change of custody state is reported to the Publisher, and the followed holder is chosen anew (R150, R169). -/
def State.reportCustody (s : State) : State := s.tellCustody.follow

/-- The custody state becomes `c`, and the change is reported (R150). -/
def State.setCustody (s : State) (c : CustodyState) : State := (s.setCu { s.cu with state := c }).reportCustody

/-- A writer without CONFLICT: requests and custody frames act (R149, R151, R162). -/
def State.inCustody (s : State) : Bool := s.cfg.writer && !s.cu.conflict

/-! ## Taking the record (R154, R156, R162) -/

/-- The starting number of a taker, and whether a break is requested, for a RELEASE's next line and the horizon (R154 step 2). -/
def startNumber (horizon next : Nat) : Nat × Bool :=
  if next = 0 then (maxLine + 1, false) else if horizon < next then (next, false) else (horizon + 1, true)

/-- The node becomes the holder at `n`: switch into RECORD, state, flag, events (R154 steps 1 and 3 to 5, R156). The choice of the
followed holder comes after it. -/
def State.becomeHolder (s : State) (n : Nat) (brk : Bool) (carry : Option (Bool × Bool)) (cause : ChangeCause) (station : Nat) :
    State :=
  let s1 := s.switchToRecord n brk carry
  let s2 := (s1.setCu { s1.cu with prior := none, claimAt := none, recordClosed := false, state := .onRecord }).tellCustody
  let s3 := s2.latch (.custodyChanged cause station n)
  if brk then s3.latch (.recordBreak n) else s3

/-- A RELEASE gives this node the record (R154, R162). The Viewer, which acts next in the same delivery, chooses the followed holder
after it has set the reach (R170). -/
def State.takeRecord (s : State) (r : ReleaseBody) : State :=
  s.becomeHolder (startNumber s.tb.horizon r.next).1 (startNumber s.tb.horizon r.next).2 (some (r.cap, r.attach)) .taken r.station

/-- A claim ends without the record (R155, R156): back to the prior state. -/
def State.endClaim (s : State) (o : ClaimEnd) (station reason : Nat) : State :=
  ((s.setCu { s.cu with claimAt := none, prior := none }).setCustody (s.cu.prior.getD .idle)).latch (.claimOutcome o station reason)

/-- A takeover (R156): no holder answered and none is admitted. -/
def State.takeOver (s : State) : State :=
  (s.becomeHolder (s.tb.horizon + 1) (decide (0 < s.tb.horizon) && !s.cu.recordClosed) none .takenOver 0).follow

/-- The best ADMITTED slot that announces a holder's state (R156). -/
def Roster.holder (r : Roster) : Option RosterSlot :=
  (r.slots.toList.filterMap fun x => match x with
    | some q => if q.state = .admitted ∧ q.custody.holds = true then some q else none
    | none => none).foldl betterSlot none

/-! ## Flush (R70) and hand-over (R159, R161) -/

/-- The TE's completion report at the CU (R159): the commit-all is requested while HANDING_OVER. -/
def State.flushReport (s : State) : State :=
  match s.cu.handOver with
  | .handingOver _ => s.setCu { s.cu with commitAllDue := true }
  | _ => s

/-- A flush is requested of the TE (R70). Resolution goes on as the TE's work does. -/
def State.requestFlush (s : State) : State :=
  match s.te.phase with
  | .idle => s.flushReport
  | .hold => s.setTe { s.te with flushOwed := true, demand := .all, resolveAt := none }
  | _ => s.setTe { s.te with flushOwed := true, demand := .all }

/-- The better of two claims (00). -/
def betterClaim : Option Claim → Claim → Option Claim
  | none, y => some y
  | some x, y => if better y.rank y.station x.rank x.station then some y else some x

/-- The best entry of the claim list becomes the target, and a flush is requested (R159). -/
def State.handOverToBest (s : State) : State :=
  match s.cu.claims.foldl betterClaim none with
  | some c => (s.setCu { s.cu with handOver := .handingOver c.station, claims := [], settleAt := none }).requestFlush
  | none => s

/-- The record is to be closed (R161). -/
def State.closeRecord (s : State) : State :=
  ((s.setCu { s.cu with handOver := .handingOver 0 }).setCustody .releasing).requestFlush

/-- The commit-all's answer completes the release (R160). -/
def State.completeRelease (s : State) (target : Nat) : State :=
  let last := s.tb.committedThrough
  let s1 := (s.handCustody .release (releaseFrame s.cfg target last s.tb.region.format)).switchToDraft
  let s2 := s1.setCu { s1.cu with handOver := .none, recordClosed := decide (target = 0) || s1.cu.recordClosed }
  (s2.setCustody (if s.cfg.releaseToIdle then .idle else .shadow)).latch
    (.custodyChanged (if target = 0 then .closed else .released) target last)

/-! ## Requests (R151) -/

inductive CustodyRequest where
  | claim
  | release
  | enterShadow
  | leaveShadow
  | hold
  | unhold
  deriving DecidableEq, Repr

/-- The table of R151: whether a request applies in a state. -/
def CustodyRequest.appliesIn (q : CustodyRequest) (c : CustodyState) (h : HandOver) : Bool :=
  match q with
  | .claim => decide (c = .idle) || decide (c = .shadow)
  | .release => decide (c = .onRecord) || (decide (c = .releasing) && decide (h = .gathering))
  | .enterShadow => decide (c = .idle)
  | .leaveShadow => decide (c = .shadow)
  | .hold => true
  | .unhold => true

def State.requestApplies (s : State) (q : CustodyRequest) : Bool := s.inCustody && q.appliesIn s.cu.state s.cu.handOver

/-- A CLAIM request that applies (R153). -/
def State.beginClaim (s : State) : State :=
  let s1 := s.setCu { s.cu with prior := some s.cu.state, claimAt := some (s.after (1000 * s.cfg.claimWait)) }
  (s1.handCustody .claim (claimFrame s.cfg s.tb.horizon)).setCustody .claiming

/-- The hold flag takes a value; a change makes a STATION ready (R124, log 15). -/
def State.setHold (s : State) (h : Bool) : State :=
  if s.cu.hold = h then s else (s.setCu { s.cu with hold := h }).stationReady

/-- The claims gathered are refused with reason HOLD, and the node is ON_RECORD again (R152). The REFUSEs are handed in the order of the
claim list, the earliest claim first, which is the model's choice (log 39). -/
def State.refuseGathered (s : State) : State :=
  let s1 := s.cu.claims.foldl (fun t c => t.refuse c.station .hold) s
  (s1.setCu { s1.cu with claims := [], settleAt := none, handOver := .none }).setCustody .onRecord

/-- A HOLD request (R152). -/
def State.holdRequest (s : State) : State :=
  if s.cu.state = .releasing ∧ s.cu.handOver = .gathering then (s.setHold true).refuseGathered else s.setHold true

/-- The effect of a request that applies (R151). -/
def State.carryOut (s : State) : CustodyRequest → State
  | .claim => s.beginClaim
  | .release => if s.cu.state = .onRecord then s.closeRecord else s.handOverToBest
  | .enterShadow => s.setCustody .shadow
  | .leaveShadow => s.setCustody .idle
  | .hold => s.holdRequest
  | .unhold => s.setHold false

/-- A request is taken: one that does not apply changes nothing (R151). -/
def State.takeRequest (s : State) (q : CustodyRequest) : State := if s.requestApplies q then s.carryOut q else s

/-! ## Claims at the holder (R157, R158) -/

/-- An entry of the claim list takes the rank and horizon of a new CLAIM (R157). -/
def renewClaim (c : Claim) (cs : List Claim) : List Claim := cs.map fun x => if x.station = c.station then c else x

/-- A claimer joins the list; the first at a node ON_RECORD begins the gathering (R157). -/
def State.gatherClaim (s : State) (c : Claim) : State :=
  let s1 := s.setCu { s.cu with claims := s.cu.claims ++ [c] }
  if s.cu.state = .onRecord then
    (s1.setCu { s1.cu with handOver := .gathering, settleAt := some (s.after s.cfg.settleWait) }).setCustody .releasing
  else s1

/-- The station's slot is ADMITTED. -/
def Roster.admits (r : Roster) (station : Nat) : Bool :=
  match r.of station with
  | some q => decide (q.state = .admitted)
  | none => false

/-- A CLAIM is judged by a holder that is ON_RECORD or GATHERING (R157). R157 names no range for the station of a CLAIM: one of station 0,
above 30 or with the own number is refused like any other, so that the custody list can pass the 32 frames of R116, which is the model's
choice (log 38). -/
def State.judgeClaim (s : State) (c : Claim) : State :=
  if s.cu.hold then s.refuse c.station .hold
  else if !s.roster.admits c.station then s.refuse c.station .notAdmitted
  else if s.cu.claims.any fun x => decide (x.station = c.station) then s.setCu { s.cu with claims := renewClaim c s.cu.claims }
  else if 4 ≤ s.cu.claims.length then s
  else s.gatherClaim c

/-- A CLAIM reaches the Custody Unit (R155, R157). -/
def State.claimAtCu (s : State) (c : Claim) : State :=
  if !s.inCustody then s
  else
    match s.cu.state with
    | .onRecord => s.judgeClaim c
    | .releasing => if s.cu.handOver = .gathering then s.judgeClaim c else s
    | .claiming =>
      if s.roster.admits c.station && better c.rank c.station s.cfg.rank s.own then s.endClaim .withdrawn c.station 0 else s
    | _ => s

/-- A station leaves the claim list in GATHERING; an empty list ends the gathering (R158). -/
def State.dropClaim (s : State) (station : Nat) : State :=
  if s.cu.handOver = .gathering ∧ s.cu.claims.any (fun x => decide (x.station = station)) = true then
    let cs := s.cu.claims.filter fun x => decide (x.station ≠ station)
    if cs.isEmpty then (s.setCu { s.cu with claims := [], settleAt := none, handOver := .none }).setCustody .onRecord
    else s.setCu { s.cu with claims := cs }
  else s

/-! ## RELEASE, REFUSE and STATION at the Custody Unit (R155, R162 to R164) -/

/-- The record-closed flag at a RELEASE (R163). -/
def State.closedByRelease (s : State) (r : ReleaseBody) : State :=
  if r.target = 0 then (if s.cu.state.holds then s else s.setCu { s.cu with recordClosed := true })
  else s.setCu { s.cu with recordClosed := false }

/-- A RELEASE reaches the Custody Unit (R154, R155, R162, R163). -/
def State.releaseAtCu (s : State) (r : ReleaseBody) : State :=
  let s1 := s.closedByRelease r
  if !s1.inCustody then s1
  else if r.target = s1.own then (if s1.cu.state.holds then s1 else s1.takeRecord r)
  else if s1.cu.state = .claiming ∧ r.target ≠ 0 then s1.endClaim .passed r.target 0
  else s1

/-- A REFUSE reaches the Custody Unit (R155). -/
def State.refuseAtCu (s : State) (f : RefuseBody) : State :=
  if s.inCustody = true ∧ s.cu.state = .claiming ∧ f.addressee = s.own then s.endClaim .refused f.station f.reason else s

/-- This node yields to the better holder `station` (R164). -/
def State.yieldTo (s : State) (station : Nat) : State :=
  let s1 := (s.commitAllLines).switchToDraft
  let s2 := s1.setCu { s1.cu with claims := [], settleAt := none, handOver := .none }
  (s2.setCustody .shadow).latch (.custodyChanged .yielded station 0)

/-- A STATION taken into a slot, with the slot after it, at the Custody Unit (R147): the record-closed flag (R163), the claim list
(R158), two holders (R164). -/
def State.stationAtCu (s : State) (q : RosterSlot) : State :=
  let s1 :=
    if q.state = .admitted ∧ q.custody = .onRecord then s.setCu { s.cu with recordClosed := false } else s
  let s2 := if q.custody ≠ .claiming ∨ q.state ≠ .admitted then s1.dropClaim q.station else s1
  if q.state = .admitted ∧ q.custody.holds = true ∧ s2.cu.state.holds = true
      ∧ better q.rank q.station s2.cfg.rank s2.own = true then s2.yieldTo q.station
  else s2

/-! ## Station conflict (R149) -/

/-- The Custody Unit at a new CONFLICT (R149), which is already set. -/
def State.conflictAtCu (s : State) : State :=
  let s1 := if s.cu.state.holds then (s.commitAllLines).switchToDraft else s
  let s2 := s1.setCu { s1.cu with claims := [], settleAt := none, claimAt := none, prior := none, handOver := .none }
  let s3 := if s.cu.state = .idle then s2 else s2.setCustody .idle
  if s.cu.state.holds then s3.latch (.custodyChanged .conflict s.own 0) else s3

/-! ## GO and RESTART (R166) -/

/-- The Custody Unit at GO is IDLE, as reset left it (R166, R191). -/
def Cu.atGo : Cu := Cu.reset

/-! ## Commands -/

/-- COMMIT_ALL (R94, R159, R160): taken where one is requested; its answer completes the hand-over in progress, be it the one that
requested it or a later one (log 25). -/
def State.commitAll (s : State) : State :=
  if s.cu.commitAllDue then
    let s1 := (s.setCu { s.cu with commitAllDue := false }).commitAllLines
    let s2 := match s1.cu.handOver with
      | .handingOver t => s1.completeRelease t
      | _ => s1
    (s2.choose).compose
  else s

/-- CLAIM_TIMER_EXPIRY (R156). -/
def State.claimExpiry (s : State) : State :=
  match s.cu.claimAt with
  | none => s
  | some t =>
    let s1 := s.reachMs t
    let s2 := match s1.roster.holder with
      | some q => s1.endClaim .noAnswer q.station 0
      | none => s1.takeOver
    (s2.choose).compose

def execCommitAll (s : State) : Host.Outcome State Fault Refusal := .next s.commitAll

def execClaimTimerExpiry (s : State) : Host.Outcome State Fault Refusal := .next s.claimExpiry

end Sys2Proof.Machine
end

