-- ==== Sys2Proof/Machine/Line.lean ====
section
/-! DEFINITION. The Line Controller (06): characters, assembly, finishing and acceptance of frames, the quiet point, driving, echo
compare, aborts and cut-off, and its commands. -/

namespace Sys2Proof.Machine

/-! ## Errors (R112) -/

inductive LineError where
  | check
  | short
  | long
  | framing
  | overrun
  deriving DecidableEq, Repr

/-- One error more, and the total with it (R112). -/
def ErrorCounts.raise (e : ErrorCounts) : LineError → ErrorCounts
  | .check => { e with check := satSucc e.check, total := satSucc e.total }
  | .short => { e with short := satSucc e.short, total := satSucc e.total }
  | .long => { e with long := satSucc e.long, total := satSucc e.total }
  | .framing => { e with framing := satSucc e.framing, total := satSucc e.total }
  | .overrun => { e with overrun := satSucc e.overrun, total := satSucc e.total }

/-- An error is counted; LINE_ERRORS is latched where the total comes to a multiple of 64 (R112). -/
def State.lineError (s : State) (x : LineError) : State :=
  let s' := s.setLnc { s.lnc with errors := s.lnc.errors.raise x }
  if s'.lnc.errors.total % 64 = 0 then s'.latch (.lineErrors s'.lnc.errors.total) else s'

/-! ## Finishing a frame (R108 to R110) -/

/-- What the tests of R108 make of an ended frame. -/
inductive Verdict where
  | own
  | bad (error : LineError)
  | good (frame : Frame)
  deriving DecidableEq, Repr

/-- The frame an assembly of `count` characters holds: the characters between the heading and the last two. -/
def Assembly.frame (a : Assembly) : Frame :=
  { heading := byteOf a.bytes 0, body := (a.bytes.drop 1).take (a.count - 3) }

/-- The check of R107 at the receiver. -/
def Assembly.checks (a : Assembly) : Bool :=
  decide (checkSums (a.frame.heading :: a.frame.body)
    = ((byteOf a.bytes (a.count - 2)).toNat, (byteOf a.bytes (a.count - 1)).toNat))

/-- The tests of R108, in order. -/
def Assembly.verdict (a : Assembly) : Verdict :=
  if a.own then .own
  else if a.count < 3 then .bad .short
  else if a.damaged then .bad .framing
  else if 363 < a.count then .bad .long
  else if !a.checks then .bad .check
  else if a.frame.body.length < a.frame.kind.minBody then .bad .short
  else .good a.frame

/-- The record line a good frame reports (R109; for a RELEASE the larger of its last line and its next line minus one, which R97
lists, log 29). -/
def Frame.report (f : Frame) : Option Nat :=
  match f.kind with
  | .tail => if fieldAt f.body 1 1 = Series.record.code then some (fieldAt f.body 3 3) else none
  | .line => some (fieldAt f.body 1 3)
  | .release => some (max (fieldAt f.body 2 3) (fieldAt f.body 5 3 - 1))
  | .station => some (fieldAt f.body 7 3)
  | _ => none

/-- Acceptance (R110). -/
def Settings.accepts (g : Settings) (f : Frame) : Bool :=
  (decide (f.kind = .station)
    || decide (f.audience &&& g.audience ≠ 0#5)
    || (decide (f.audience = 0#5) && decide (f.station = g.station)))
  && (g.viewer || (decide (f.kind ≠ .tail) && decide (f.kind ≠ .line)))

/-- An accepted frame joins the receive queue, or is discarded as OVERRUN (R110). -/
def State.enqueueFrame (s : State) (f : Frame) : State :=
  if s.lnc.queue.length < 8 then s.setLnc { s.lnc with queue := s.lnc.queue ++ [f] } else s.lineError .overrun

/-- A good frame's report to the horizon (R109). -/
def State.reportFrame (s : State) (f : Frame) : State :=
  match f.report with
  | some n => s.reportHorizon n
  | none => s

/-- An ended frame is finished (R108 to R110). -/
def State.finishFrame (s : State) (a : Assembly) : State :=
  match a.verdict with
  | .own => s
  | .bad x => s.lineError x
  | .good f => if s.cfg.accepts f then (s.reportFrame f).enqueueFrame f else s.reportFrame f

/-! ## Assembly (R106) -/

/-- A frame begins with a heading character. -/
def Assembly.start (byte : Byte) (damaged own : Bool) : Assembly := { bytes := [byte], count := 1, damaged := damaged, own := own }

/-- A character joins the assembly: the first 363 are kept, all are counted. -/
def Assembly.join (a : Assembly) (byte : Byte) (damaged : Bool) : Assembly :=
  { a with bytes := if a.count < 363 then a.bytes ++ [byte] else a.bytes, count := a.count + 1, damaged := a.damaged || damaged }

/-- The assembly's part of a character read while ONLINE (R106; a damaged heading read during assembly joins, log 21). -/
def State.assemble (s : State) (heading : Bool) (byte : Byte) (ok : Bool) : State :=
  match s.lnc.assembly with
  | none =>
    if heading then s.setLnc { s.lnc with assembly := some (Assembly.start byte (!ok) s.lnc.slot.isDriving) } else s
  | some a =>
    if heading && ok then
      (s.setLnc { s.lnc with assembly := some (Assembly.start byte false s.lnc.slot.isDriving) }).finishFrame a
    else s.setLnc { s.lnc with assembly := some (a.join byte (!ok)) }

/-! ## The sources (R115, R118 to R121) -/

/-- TAIL and LINE frames are metered by credit (6.2). -/
def Source.metered : Source → Bool
  | .line => true
  | .answer _ => true
  | .tail => true
  | _ => false

/-- The backoff class base of the frames of a source (6.2). -/
def Source.backoffBase : Source → Nat
  | .custody => 0
  | .station => 2
  | _ => 4

/-- The frame a source offers (R115). -/
def State.frameOf (s : State) : Source → Option Frame
  | .custody => s.lnc.custodyList.head?.map CustodyFrame.frame
  | .station => if s.pub.stationWaiting.isSome then some s.stationFrame else none
  | .line => s.lineHead.map fun e => e.frame s.cfg
  | .define => s.pub.defines.head?.map fun d => d.frame s.cfg
  | .answer n => (s.pub.answers.find? fun a => decide (a.number = n)).map fun a => a.frame s.cfg
  | .ask => s.vw.asks.head?.map fun a => a.frame s.cfg
  | .tail => s.pub.tailWaiting.map (tailFrame s.cfg)

/-- The attempt count of the frame a source offers. -/
def State.attemptsOf (s : State) : Source → Nat
  | .custody => (s.lnc.custodyList.head?.map CustodyFrame.attempts).getD 0
  | .station => s.pub.stationWaiting.getD 0
  | .line => (s.lineHead.map LineEntry.attempts).getD 0
  | .define => (s.pub.defines.head?.map DefineSend.attempts).getD 0
  | .answer n => ((s.pub.answers.find? fun a => decide (a.number = n)).map Answer.attempts).getD 0
  | .ask => (s.vw.asks.head?.map Ask.attempts).getD 0
  | .tail => (s.pub.tailWaiting.map TailImage.attempts).getD 0

/-- The frame in flight leaves its source: sent, or told dropped (R118, R120, R121). -/
def State.removeSource (s : State) : Source → State
  | .custody => s.setLnc { s.lnc with custodyList := s.lnc.custodyList.drop 1 }
  | .station => s.setPub { s.pub with stationInFlight := none }
  | .line => s.setPub { s.pub with lineQueue := s.pub.lineQueue.drop 1 }
  | .define => s.setPub { s.pub with defines := s.pub.defines.drop 1 }
  | .answer n => s.setPub { s.pub with answers := s.pub.answers.filter fun a => decide (a.number ≠ n) }
  | .ask => s.setVw { s.vw with asks := s.vw.asks.drop 1 }
  | .tail => s.setPub { s.pub with tailInFlight := none }

/-- A STATION or a TAIL that starts leaves its waiting place (7.1). -/
def State.takeOff (s : State) : Source → State
  | .station => s.setPub { s.pub with stationInFlight := s.pub.stationWaiting, stationWaiting := none }
  | .tail => s.setPub { s.pub with tailInFlight := s.pub.tailWaiting, tailWaiting := none }
  | _ => s

/-- A dropped frame: its source removes it, and the transmit-dropped count rises (R120). -/
def State.dropFrame (s : State) (x : Source) : State :=
  let s' := s.removeSource x
  s'.setLnc { s'.lnc with txDropped := satSucc s'.lnc.txDropped }

/-- The frame with `attempts` aborted attempts is tried again, or dropped at the sixth: the frames that have no rule of their own
(R120). -/
def retryOrDrop (attempts : Nat) (again : State) (dropped : State) : State := if attempts < 6 then again else dropped

/-- The frame's attempt count rises, and R120 decides what follows (R129 for a TAIL; log 14 for a STATION). A custody frame stays at the
head of its list, also where a newer one of its kind waits behind it (R116): both are kept, which is the model's choice (log 37). -/
def State.afterAbort (s : State) : Source → State
  | .custody => s.setLnc { s.lnc with custodyList := mapHead (fun f => { f with attempts := min 6 (f.attempts + 1) }) s.lnc.custodyList }
  | .station =>
    let n := s.pub.stationInFlight.getD 0 + 1
    retryOrDrop n (s.setPub { s.pub with stationInFlight := none, stationWaiting := some n }) (s.dropFrame .station)
  | .line =>
    let n := (s.lineHead.map LineEntry.attempts).getD 0 + 1
    retryOrDrop n (s.setPub { s.pub with lineQueue := mapHead (fun e => { e with attempts := n }) s.pub.lineQueue }) (s.dropFrame .line)
  | .define =>
    let n := (s.pub.defines.head?.map DefineSend.attempts).getD 0 + 1
    retryOrDrop n (s.setPub { s.pub with defines := mapHead (fun e => { e with attempts := n }) s.pub.defines }) (s.dropFrame .define)
  | .answer k =>
    let n := s.attemptsOf (.answer k) + 1
    retryOrDrop n
      (s.setPub { s.pub with answers := s.pub.answers.map fun a => if a.number = k then { a with attempts := n } else a })
      (s.dropFrame (.answer k))
  | .ask =>
    let n := (s.vw.asks.head?.map Ask.attempts).getD 0 + 1
    retryOrDrop n (s.setVw { s.vw with asks := mapHead (fun e => { e with attempts := n }) s.vw.asks }) (s.dropFrame .ask)
  | .tail =>
    match s.pub.tailInFlight with
    | none => s
    | some t =>
      if s.pub.tailWaiting.isSome || !s.tailsAllowed then s.removeSource .tail
      else
        retryOrDrop (t.attempts + 1)
          (s.setPub { s.pub with tailInFlight := none, tailWaiting := some { t with attempts := t.attempts + 1 } })
          (s.dropFrame .tail)

/-- The unsent part of a metered frame's cost is handed back (R141). -/
def State.refundUnsent (s : State) (x : Source) (chars sent : Nat) : State := if x.metered then s.refund (chars + 2 - sent) else s

/-- The slot is EMPTY and the own mark of the assembly is clear (R119, R121). The driver goes off at the end of the character in
progress. -/
def Lnc.stopDriving (l : Lnc) : Lnc := { l with slot := .empty, assembly := l.assembly.map fun a => { a with own := false } }

/-- The attempt is aborted, `sent` characters being sent (R119, R120). -/
def State.abortAttempt (s : State) (x : Source) (chars sent : Nat) : State :=
  ((s.setLnc { s.lnc.stopDriving with aborted := satSucc s.lnc.aborted }).refundUnsent x chars sent).afterAbort x

/-- The echo compare of a character read back while driving (R118, R119). -/
def State.echo (s : State) (heading : Bool) (byte : Byte) (ok : Bool) : State :=
  match s.lnc.slot with
  | .driving x chars sent =>
    if ok = true ∧ chars[sent]? = some (heading, byte) then
      if sent + 1 < chars.length then
        s.setLnc { s.lnc with slot := .driving x chars (sent + 1), busySince := some s.clock.chars, driver := true }
      else (s.setLnc { s.lnc with slot := .empty }).removeSource x
    else s.abortAttempt x chars.length (sent + 1)
  | _ => s

/-! ## Characters (R105, R106, R123) -/

/-- The end of a character: one character time after its start bit (log 18). The line is quiet from silence 0 where the stop bit is
at the idle level; otherwise the input is held at the start level and the line stays busy. The node's own driver goes off, unless
another character of its own follows. -/
def State.characterEnd (s : State) (ok : Bool) : State :=
  let s' := match s.lnc.busySince with
    | some t => if s.lnc.held then s else s.reachChars (t + 1)
    | none => s
  s'.setLnc
    { s'.lnc with busySince := if ok then none else some s'.clock.chars, held := !ok, driver := false, silence := 0, quiet := none }

/-- CHARACTER_RECEIVED (R106, R118, R123). The echo compare comes first: an abort clears the own mark before the frame in assembly
can end (R108, R119). While the frame is driven on, nothing that the slot's choice hangs on has changed (R115). -/
def State.characterReceived (s : State) (heading : Bool) (byte : Byte) (ok : Bool) : State :=
  let s1 := s.characterEnd ok
  if s1.online then
    let s2 := (s1.echo heading byte ok).assemble heading byte ok
    if s2.lnc.slot.isDriving then s2 else s2.choose
  else s1

/-- START_BIT_SEEN (R105, R114): the input goes to the start level, or comes back from it (log 18). While the input is held no
further start bit is seen. -/
def State.startBitSeen (s : State) (atStart : Bool) : State :=
  match atStart, s.lnc.busySince with
  | true, none => s.setLnc { s.lnc with busySince := some s.clock.chars }
  | false, some _ =>
    if s.lnc.driver then s else s.setLnc { s.lnc with busySince := none, held := false, silence := 0, quiet := none }
  | _, _ => s

/-- FRAME_END_BY_SILENCE (R106): at silence 2 the frame ends, and the guard runs to silence 4. -/
def State.frameEnd (s : State) : State :=
  match s.lnc.assembly, s.lnc.busySince with
  | some a, none =>
    let s1 := s.advance (2 - s.lnc.silence)
    (s1.setLnc { s1.lnc with assembly := none, quiet := none, guardAt := some (s1.clock.chars + (4 - s1.lnc.silence)) }).finishFrame a
  | _, _ => s

/-- TURNAROUND_GUARD_EXPIRY (R113): the quiet point may be reached at the silence the line had then. -/
def State.guardExpiry (s : State) : State :=
  match s.lnc.guardAt with
  | none => s
  | some t =>
    let s1 := s.reachChars t
    s1.setLnc
      { s1.lnc with
        guardAt := none,
        quiet :=
          if s1.lnc.busySince = none ∧ 3 ≤ s1.lnc.silence then some (max 3 (s1.lnc.silence - (s1.clock.chars - t))) else none }

/-! ## Transmit start (R114, R117) -/

/-- The silence at which the frame of a source starts (R114). -/
def State.startSilence (s : State) (x : Source) : Nat :=
  s.lnc.quiet.getD 3 + x.backoffBase + s.own * (s.attemptsOf x + 1)

/-- The line lets a transmit start come: not busy, no frame in assembly, no guard (R113, R114). -/
def Lnc.clearToSend (l : Lnc) : Bool := l.busySince.isNone && l.assembly.isNone && l.guardAt.isNone

/-- A metered frame is charged its cost, after an update (R140). -/
def State.charge (s : State) (x : Source) (f : Frame) : State :=
  if x.metered then
    let s' := s.updateCredit
    s'.setPub { s'.pub with credit := s'.pub.credit - f.cost }
  else s

/-- The frame of the slot starts now (R117). -/
def State.startDriving (s : State) (x : Source) (f : Frame) : State :=
  let s1 := (s.charge x f).takeOff x
  s1.setLnc { s1.lnc with slot := .driving x f.chars 0, busySince := some s1.clock.chars, driver := true }

/-- TRANSMIT_START (R114, R117); the slot having changed, its choice is made again (R115). -/
def State.transmitStart (s : State) : State :=
  match s.lnc.slot with
  | .waiting x =>
    if s.lnc.clearToSend then
      let s1 := s.advance (s.startSilence x - s.lnc.silence)
      match s1.frameOf x with
      | some f => (s1.startDriving x f).choose
      | none => s
    else s
  | _ => s

/-! ## Station conflict (R121) -/

/-- The Line Controller at a new CONFLICT: the frame driven is cut off unless it is a STATION, its driver staying on to the end of
the character in progress; the rest is withdrawn. -/
def State.conflictAtLnc (s : State) : State :=
  match s.lnc.slot with
  | .driving .station _ _ => s.setLnc { s.lnc with custodyList := [] }
  | .driving x chars sent =>
    let s1 := ((s.setLnc { s.lnc.stopDriving with cutOff := satSucc s.lnc.cutOff }).refundUnsent x chars.length (sent + 1)).removeSource x
    s1.setLnc { s1.lnc with custodyList := [] }
  | _ => s.setLnc { s.lnc with slot := .empty, custodyList := [] }

/-! ## Deliveries (R111) -/

/-- The oldest queued frame, of kind `k`, leaves the queue and its block takes it; where the oldest is not of that kind, nothing is
delivered. -/
def State.deliver (s : State) (k : FrameKind) (take : State → Frame → State) : State :=
  match s.lnc.queue with
  | [] => s
  | f :: rest => if f.kind = k then take (s.setLnc { s.lnc with queue := rest }) f else s

/-! ## GO, RESTART (R122, R123) -/

/-- The start bit of a character of another node in progress at a reset, or the start level held (log 18): the node's own driver
is off. -/
def Lnc.heldStart (l : Lnc) : Option Nat := if l.driver then none else l.busySince

/-- The Line Controller at RESTART keeps its counts. -/
def Lnc.atRestart (l : Lnc) : Lnc :=
  { Lnc.reset with busySince := l.heldStart, held := l.held && !l.driver, errors := l.errors, aborted := l.aborted,
                   txDropped := l.txDropped, cutOff := l.cutOff }

/-- The Line Controller at full reset, where the character-time count becomes 0. -/
def Lnc.atReset (l : Lnc) : Lnc := { Lnc.reset with busySince := l.heldStart.map fun _ => 0, held := l.held && !l.driver }

/-- The Line Controller at GO (R123). -/
def Lnc.atGo (l : Lnc) : Lnc := { l with silence := 0, assembly := none, guardAt := none, quiet := none }

/-! ## The meanings -/

def execCharacterReceived (heading : Bool) (byte : Byte) (stopIdle : Bool) (s : State) : Host.Outcome State Fault Refusal :=
  .next (s.characterReceived heading byte stopIdle)

def execStartBitSeen (atStart : Bool) (s : State) : Host.Outcome State Fault Refusal := .next (s.startBitSeen atStart)

def execFrameEndBySilence (s : State) : Host.Outcome State Fault Refusal := .next s.frameEnd

def execTurnaroundGuardExpiry (s : State) : Host.Outcome State Fault Refusal := .next s.guardExpiry

def execTransmitStart (s : State) : Host.Outcome State Fault Refusal := .next s.transmitStart

end Sys2Proof.Machine
end

