-- ==== Sys2Proof/Machine/Roster.lean ====
section
/-! DEFINITION. The Roster (08, 8.1 and 8.2) and the deliveries of frames to the Roster, the Custody Unit, the Publisher and the
Viewer, with the commands of the roster's timers. -/

namespace Sys2Proof.Machine

/-! ## Slots (R143 to R146) -/

/-- A slot entered for a station (R143). -/
def RosterSlot.entered (station : Nat) (now : Ms) : RosterSlot :=
  { station := station, state := .heard, newer := none, older := none, roles := 0, custody := .idle, rank := 0, flags := 0,
    horizon := 0, share := 0, lapseAt := none, freeAt := none, lapsedAt := none, refreshedAt := now, lastDefine := none }

/-- The announced fields, signatures and lapse timer of a slot after a STATION (R144). -/
def RosterSlot.announced (q : RosterSlot) (b : StationBody) (now lapse : Ms) : RosterSlot :=
  { q with newer := some b.sig, older := q.newer, roles := b.roles, custody := b.custody, rank := b.rank, flags := b.flags,
           horizon := b.horizon, share := b.share, lapseAt := some lapse, refreshedAt := now }

/-- The state of a slot after a STATION, from its signatures (R145). A slot returning from LAPSED loses its lapsed-at time, which is
the model's choice (log 35). -/
def RosterSlot.judged (q : RosterSlot) (own : Byte × Byte) : RosterSlot :=
  match q.state with
  | .heard =>
    if q.older.isSome ∧ q.newer = q.older then { q with state := if q.newer = some own then .admitted else .excluded } else q
  | .lapsed => { q with state := .heard, older := none, freeAt := none, lapsedAt := none }
  | _ => if q.newer = q.older then q else { q with state := .heard }

/-- A slot after a STATION is taken into it (R144, R145). -/
def RosterSlot.taken (q : RosterSlot) (b : StationBody) (own : Byte × Byte) (now lapse : Ms) : RosterSlot :=
  (q.announced b now lapse).judged own

/-- The lowest free slot. -/
def Roster.freeSlot (r : Roster) : Option Nat := r.slots.toList.findIdx? fun x => x.isNone

/-- How long a slot has been LAPSED (R143). -/
def lapsedFor (now : Ms) : Option RosterSlot → Option Nat
  | some q => if q.state = .lapsed then some (now - q.lapsedAt.getD 0).toNat else none
  | none => none

/-- The longer of two LAPSED slots, the lower slot number at equal times. -/
def longerLapsed (now : Ms) (r : Roster) (best : Option Nat) (i : Nat) : Option Nat :=
  match lapsedFor now (r.slot i), best with
  | none, _ => best
  | some _, none => some i
  | some t, some j => if (lapsedFor now (r.slot j)).getD 0 < t then some i else best

/-- The slot LAPSED longest (R143). -/
def Roster.oldestLapsed (r : Roster) (now : Ms) : Option Nat := (List.range 16).foldl (longerLapsed now r) none

def State.setSlot (s : State) (i : Nat) (x : Option RosterSlot) : State := s.setRoster (s.roster.setSlot i x)

/-- A slot is removed (R146): freed, its tail image and mark released, ROSTER_CHANGED latched. -/
def State.removeSlot (s : State) (i : Nat) (q : RosterSlot) : State :=
  let s1 := s.setSlot i none
  (s1.setVw ((s1.vw.setMark i .none).setTail i none)).latch (.rosterChanged q.station .removed)

/-- ROSTER_CHANGED at an entry into ADMITTED or EXCLUDED (R145). -/
def State.rosterEvent (s : State) (old new : RosterSlot) : State :=
  if old.state = new.state then s
  else
    match new.state with
    | .admitted => s.latch (.rosterChanged new.station .admitted)
    | .excluded => s.latch (.rosterChanged new.station .excluded)
    | _ => s

/-- A STATION changes the inputs of the share (R138). -/
def changesShare (old new : RosterSlot) : Bool :=
  decide ((old.state = .admitted) ≠ (new.state = .admitted)) || decide (old.state = .lapsed)
  || (decide (new.state = .admitted) && decide (old.custody.weight ≠ new.custody.weight))

/-- The Publisher's part of a roster change (R147). -/
def State.reshareIf (s : State) (c : Bool) : State := if c then s.reshare else s

/-- A STATION is taken into slot `i`, which holds `q`, and the readers are told (R144, R145, R147). `replaced`: the slot was
removed for it in this event. -/
def State.takeStation (s : State) (i : Nat) (q : RosterSlot) (b : StationBody) (replaced : Bool) : State :=
  let q' := q.taken b s.pub.signature s.clock.ms (s.after (1000 * s.cfg.lapseTime))
  let s1 := s.setSlot i (some q')
  let s2 := (s1.setVw (s1.vw.setMark i .none)).rosterEvent q q'
  ((s2.reshareIf (replaced || changesShare q q')).stationAtCu q').follow

/-- A STATION of another station finds its slot, or enters one, or is refused (R143). -/
def State.stationOfOther (s : State) (b : StationBody) : State :=
  match s.roster.indexOf b.station with
  | some i =>
    match s.roster.slot i with
    | some q => s.takeStation i q b false
    | none => s
  | none =>
    match s.roster.freeSlot with
    | some i => s.takeStation i (RosterSlot.entered b.station s.clock.ms) b false
    | none =>
      match s.roster.oldestLapsed s.clock.ms with
      | some i =>
        match s.roster.slot i with
        | some q => (s.removeSlot i q).takeStation i (RosterSlot.entered b.station s.clock.ms) b true
        | none => s
      | none => s.setRoster { s.roster with refused := satSucc s.roster.refused }

/-! ## Station conflict (R148, R149, R121, R135, R174) -/

/-- A STATION with the own number: at the first, every block acts on the new CONFLICT flag. -/
def State.stationConflict (s : State) : State :=
  let s1 := s.latch (.stationConflict s.own)
  if s.cu.conflict then s1
  else
    let s2 := ((s1.setCu { s1.cu with conflict := true }).conflictAtLnc).conflictAtPub
    (s2.setVw { s2.vw with asks := [] }).conflictAtCu

/-- A STATION reaches the Roster (R143, R202). -/
def State.stationAtRoster (s : State) (f : Frame) : State :=
  match StationBody.parse f.body with
  | none => s
  | some b =>
    if b.station = s.own then s.stationConflict
    else if b.station = 0 ∨ 30 < b.station then s
    else s.stationOfOther b

/-! ## The lapse timer (R144, R146) -/

/-- A frame from a station restarts the lapse timer of its slot, unless the slot is LAPSED (R144, log 16). -/
def State.refreshSlot (s : State) (station : Nat) : State :=
  match s.roster.indexOf station with
  | none => s
  | some i =>
    match s.roster.slot i with
    | none => s
    | some q =>
      if q.state = .lapsed then s
      else s.setSlot i (some { q with lapseAt := some (s.after (1000 * s.cfg.lapseTime)), refreshedAt := s.clock.ms })

/-- The Custody Unit and the Viewer are told that a slot left ADMITTED, lapsed or was removed (R147). -/
def State.tellLeft (s : State) (station : Nat) : State := ((s.reshare).dropClaim station).follow

/-- LAPSE_TIMER_EXPIRY of slot `i` (R146). -/
def State.lapseExpiry (s : State) (i : Nat) : State :=
  match s.roster.slot i with
  | none => s
  | some q =>
    match q.lapseAt with
    | none => s
    | some t =>
      let s1 := s.reachMs t
      let s2 := s1.setSlot i (some { q with state := .lapsed, lapseAt := none, lapsedAt := some s1.clock.ms,
                                            freeAt := some (s1.after 30000) })
      let s3 := (s2.setVw (s2.vw.setMark i .none)).latch (.rosterChanged q.station .lapsed)
      ((s3.tellLeft q.station).choose).compose

/-- FREE_TIMER_EXPIRY of slot `i` (R146). -/
def State.freeExpiry (s : State) (i : Nat) : State :=
  match s.roster.slot i with
  | none => s
  | some q =>
    match q.freeAt with
    | none => s
    | some t => ((((s.reachMs t).removeSlot i q).tellLeft q.station).choose).compose

/-! ## The Viewer's part of deliveries (R168, R170, R175) -/

/-- The mark of a station's slot, where the node holds one. -/
def State.markStation (s : State) (station : Nat) (m : SlotMark) : State :=
  match s.roster.indexOf station with
  | some i => s.setVw (s.vw.setMark i m)
  | none => s

/-- A RELEASE at the Viewer (R170). -/
def State.releaseAtViewer (s : State) (r : ReleaseBody) : State :=
  if s.viewing then
    let s1 := s.markStation r.station .released
    let s2 := if r.target ≠ 0 ∧ s1.roster.admits r.target = true then s1.markStation r.target .named else s1
    let s3 := if 0 < r.last then s2.setReach r.last r.station else s2
    s3.follow
  else s

/-- The image a slot keeps after a TAIL (R175). -/
def keptImage (t : TailImage) (pinned : Bool) : Option TailImage :=
  match t.series with
  | .record => some t
  | .draft => if pinned then some t else none

/-- A TAIL at the Viewer (R171, R175). -/
def State.tailAtViewer (s : State) (t : TailBody) : State :=
  match s.roster.indexOf t.station with
  | none => s
  | some i =>
    let s1 := s.setVw (s.vw.setTail i (keptImage t.image (s.vw.pinned t.station)))
    if t.image.series = .record ∧ s1.vw.followed = some (.station t.station) then s1.setReach t.image.committed t.station else s1

/-- A LINE at the Viewer (R168). -/
def State.lineAtViewer (s : State) (l : LineBody) : State :=
  if s.roster.admits l.station then s.storeLine l.number l.gone l.brk l.text else s

/-! ## The deliveries -/

/-- A block takes a parsed body, or ignores the frame (R202). -/
def State.takeBody {α : Type} (s : State) (b : Option α) (take : State → α → State) : State :=
  match b with
  | some x => take s x
  | none => s

def State.deliverStation (s : State) : State :=
  s.deliver .station fun t f => ((t.stationAtRoster f).choose).compose

def State.deliverClaim (s : State) : State :=
  s.deliver .claim fun t f => ((((t.refreshSlot f.station).takeBody (Claim.parse f.body) State.claimAtCu)).choose).compose

/-- DELIVER_RELEASE: the Custody Unit first, then the Viewer (R111). -/
def State.deliverRelease (s : State) : State :=
  s.deliver .release fun t f =>
    (((t.refreshSlot f.station).takeBody (ReleaseBody.parse f.body) fun u r => (u.releaseAtCu r).releaseAtViewer r).choose).compose

def State.deliverRefuse (s : State) : State :=
  s.deliver .refuse fun t f => ((t.takeBody (RefuseBody.parse f.body) State.refuseAtCu).choose).compose

def State.deliverAsk (s : State) : State :=
  s.deliver .ask fun t f => (t.takeBody (AskBody.parse f.body) State.takeAsk).choose

def State.deliverTail (s : State) : State :=
  s.deliver .tail fun t f => ((t.refreshSlot f.station).takeBody (TailBody.parse f.body) State.tailAtViewer).compose

def State.deliverLine (s : State) : State :=
  s.deliver .line fun t f => ((t.refreshSlot f.station).takeBody (LineBody.parse f.body) State.lineAtViewer).compose

/-! ## RESTART and GO (R166, R191) -/

/-- Every slot is free; the roster-refused count is kept. -/
def Roster.atRestart (r : Roster) : Roster := { Roster.reset with refused := r.refused }

/-- The roster at GO is empty, as START left it. -/
def Roster.atGo (r : Roster) : Roster := r.atRestart

/-! ## The meanings -/

def execDeliverStation (s : State) : Host.Outcome State Fault Refusal := .next s.deliverStation

def execDeliverClaim (s : State) : Host.Outcome State Fault Refusal := .next s.deliverClaim

def execDeliverRelease (s : State) : Host.Outcome State Fault Refusal := .next s.deliverRelease

def execDeliverRefuse (s : State) : Host.Outcome State Fault Refusal := .next s.deliverRefuse

def execDeliverAsk (s : State) : Host.Outcome State Fault Refusal := .next s.deliverAsk

def execDeliverTail (s : State) : Host.Outcome State Fault Refusal := .next s.deliverTail

def execDeliverLine (s : State) : Host.Outcome State Fault Refusal := .next s.deliverLine

def execLapseTimerExpiry (slot : Nat) (s : State) : Host.Outcome State Fault Refusal := .next (s.lapseExpiry slot)

def execFreeTimerExpiry (slot : Nat) (s : State) : Host.Outcome State Fault Refusal := .next (s.freeExpiry slot)

end Sys2Proof.Machine
end

