-- ==== Sys2Proof/Machine/Translate.lean ====
section
/-! DEFINITION. The Translation Engine (04): the walk, resolution, undo, drop work, flush, re-walk and retranslation, and its
commands. Work that waits for no memory operation is done within the event, one action after another. -/

namespace Sys2Proof.Machine

/-- The directory copy; a node that has none makes no lookup. -/
def State.dir (s : State) : Directory := s.du.dir.getD (Directory.ofBytes [])

def State.latchDamage (s : State) (layer : Nat) (d : Damage) : State := s.latch (.dictFault layer d.1 d.2)

/-! ## The walk (R59, R61, R62) -/

/-- Every layer at ROOT and an empty match table: P is walked again from p1 (R59). -/
def Te.unwalked (t : Te) : Te :=
  { t with walked := 0, positions := Vector.replicate 3 .root, table := Vector.replicate 8 [], stepLayer := 0 }

/-- The phase of a TE with `p` in its pending buffer and nothing walked. -/
def phaseFor (p : List NumStroke) : TePhase := if p.isEmpty then .idle else .step

/-- P becomes `p`, to be walked from the roots. -/
def Te.walkAgain (t : Te) (p : List NumStroke) : Te := { t.unwalked with pendingBuf := p, phase := phaseFor p }

def Te.position (t : Te) (layer : Nat) : WalkPos := (t.positions[layer]?).getD .off

/-- A layer's action in the step has ended. -/
def Te.layerEnds (t : Te) (layer : Nat) (p : WalkPos) : Te :=
  { t with positions := t.positions.setIfInBounds layer p, stepLayer := layer + 1, walkReq := none }

/-- The table a layer's tree step looks under, from its position (R61). -/
def Te.stepTable (t : Te) (d : Directory) (layer : Nat) : Option Nat :=
  match t.position layer with
  | .root => if d.root layer = 0 then none else some (d.root layer)
  | .at c => c.next
  | .off => none

/-- The stroke of the step, p(w+1). -/
def Te.stepStroke (t : Te) : Stroke := ((t.pendingBuf[t.walked]?).map NumStroke.value).getD 0

/-- A lookup's next move at the walk side (R25, R26): its operation, or its outcome. `m` are the marks of the request. A raise-seen
request is discarded at its end, its fault latched all the same (R49); a fence-seen one fills nothing (R46). -/
def State.walkLookup (s : State) (m : ReqMarks) : LookupOut → State
  | .read a n k => (s.setTe { s.te with walkReq := some (.lookup k m) }).request .walk (.read a n)
  | .found k bs =>
    if m.raiseSeen then s.setTe { s.te with walkReq := none }
    else
      let c := (CellData.ofBytes bs).content k.cellAddr
      let s1 :=
        if m.fenceSeen then s
        else s.setCache (s.cache.fill { layer := k.layer, table := k.table, stroke := k.stroke, content := c })
      s1.setTe (s1.te.layerEnds k.layer (.at c))
  | .noEntry k => if m.raiseSeen then s.setTe { s.te with walkReq := none } else s.setTe (s.te.layerEnds k.layer .off)
  | .fault d =>
    let s1 := s.latchDamage s.te.stepLayer d
    if m.raiseSeen then s1.setTe { s1.te with walkReq := none } else s1.setTe (s1.te.layerEnds s1.te.stepLayer .off)

/-- A tree step: the Path Cache first, then memory (R44, R61). -/
def State.treeStep (s : State) (layer table : Nat) : State :=
  match s.cache.lookup layer table s.te.stepStroke with
  | some c =>
    let s1 := s.setCache (s.cache.hit layer table s.te.stepStroke)
    s1.setTe (s1.te.layerEnds layer (.at c))
  | none => (s.setCache s.cache.miss).walkLookup s.newMarks (startLookup s.dir layer table s.te.stepStroke false)

/-- The reference a layer gives at its position (R62). -/
def Te.layerRef (t : Te) (layer : Nat) : Option LayerRef :=
  match t.position layer with
  | .at c => c.text.map fun r => { layer := layer, ref := r }
  | _ => none

/-- Some layer can continue (R63). -/
def Te.continues (t : Te) : Bool :=
  decide (t.walked < 8) && (List.range 3).any fun l => match t.position l with
    | .at c => c.next.isSome
    | _ => false

/-- The step ends: w rises and its match table entry is set (R61, R62). -/
def Te.stepped (t : Te) : Te :=
  { t with walked := t.walked + 1, stepLayer := 0,
           table := t.table.setIfInBounds t.walked ((List.range 3).filterMap t.layerRef) }

/-- The continuation test (R63). -/
def State.continuation (s : State) : State :=
  if s.te.continues then
    if s.te.walked < s.te.pendingBuf.length then s
    else if s.te.demand = .none then
      s.setTe { s.te with phase := .hold, resolveAt := if s.cfg.resolveWait = 0 then none else some (s.after s.cfg.resolveWait) }
    else s.setTe { s.te with phase := .fetch }
  else s.setTe { s.te with phase := .fetch }

/-- One action in STEP. -/
def State.stepAction (s : State) : State :=
  if s.te.stepLayer < 3 then
    match s.te.stepTable s.dir s.te.stepLayer with
    | some table => s.treeStep s.te.stepLayer table
    | none => s.setTe (s.te.layerEnds s.te.stepLayer .off)
  else (s.setTe s.te.stepped).continuation

/-! ## Units and what follows them (R64, R66, R68, R69, R70) -/

def dropText : List Byte := bytesOf "[?]"

/-- The request of a command mark (R69). -/
def markRequest (b : Byte) : Option CustodyRequest :=
  if b = 8 then some .claim else if b = 9 then some .release else if b = 10 then some .enterShadow
  else if b = 11 then some .leaveShadow else none

/-- The command marks of a text go to the Custody Unit, in text order (R69). -/
def State.handMarks (s : State) (text : List Byte) : State := (text.filterMap markRequest).foldl State.takeRequest s

/-- An undo at the Transcript Builder, P being empty (R67). -/
def State.undoOpen (s : State) : State :=
  match s.tb.region.undoable with
  | some u =>
    let s1 := s.undoUnit
    s1.setTe { (s1.te.walkAgain u.strokes.dropLast) with consumed := s1.te.consumed + 2 }
  | none => s.setTe { s.te with consumed := s.te.consumed + 1, lateUndo := s.te.lateUndo + 1 }

/-- The undo stroke (R67). -/
def State.undo (s : State) : State :=
  if s.te.pendingBuf.isEmpty then s.undoOpen
  else s.setTe { (s.te.walkAgain s.te.pendingBuf.dropLast) with consumed := s.te.consumed + 2 }

/-- A stroke handled by the last two rows of R60. -/
def State.handleStroke (s : State) (r : StrokeRecord) : State :=
  let s1 := s.setTe { s.te with taken := s.te.taken + 1 }
  if r.value = s.cfg.undoStroke then s1.undo
  else
    s1.setTe
      { s1.te with pendingBuf := s1.te.pendingBuf ++ [{ number := r.number, value := r.value }], phase := .step, stepLayer := 0 }

/-- The drop work once P is empty (R66 steps 2 to 4). -/
def State.dropWork (s : State) (r : StrokeRecord) : State :=
  let s1 := s.emitUnit (newUnit .drop [] dropText)
  (s1.setTe { s1.te with inHand := none, demand := if s1.te.flushOwed then .all else .none }).handleStroke r

/-- A flush owed completes where P is empty and no stroke is in hand (R70). -/
def State.flushIfDone (s : State) : State :=
  if s.te.flushOwed = true ∧ s.te.pendingBuf = [] ∧ s.te.inHand = none then
    (s.setTe { s.te with flushOwed := false, demand := .none, phase := .idle }).flushReport
  else s

/-- The `k` strokes of a unit leave P; then the cascade, the drop work or the end of a flush (R64, R66, R70). -/
def State.afterUnit (s : State) (k : Nat) : State :=
  let s1 := s.setTe
    { (s.te.walkAgain (s.te.pendingBuf.drop k)) with demand := if s.te.demand = .one then .none else s.te.demand }
  let s2 := match s1.te.inHand with
    | some r => if s1.te.pendingBuf.isEmpty then s1.dropWork r else s1
    | none => s1
  s2.flushIfDone

/-- A resolution ends in a TRANSLATION of `k` strokes (R64 step 3, R68, R69). -/
def State.emitTranslation (s : State) (k : Nat) (text : List Byte) : State :=
  let s1 := s.handMarks text
  if (withoutCommands text).isEmpty then (s1.setTe { s1.te with consumed := s1.te.consumed + k }).afterUnit k
  else (s1.emitUnit (newUnit .translation (s1.te.pendingBuf.take k) (withoutCommands text))).afterUnit k

/-- A resolution ends in an UNTRANSLATE of p1 (R64 step 4): its text is the steno notation (R82). -/
def State.emitUntranslate (s : State) : State :=
  let us := s.te.pendingBuf.take 1
  (s.emitUnit (newUnit .untranslate us (us.flatMap fun x => stenoNotation x.value))).afterUnit 1

/-- The longest length with a reference, and its first reference (R62). -/
def bestOf : List (Nat × List LayerRef) → Option (Nat × LayerRef)
  | [] => none
  | (k, rs) :: rest =>
    match bestOf rest with
    | some b => some b
    | none =>
      match rs with
      | r :: _ => some (k, r)
      | [] => none

/-- The best match (R62). -/
def Te.best (t : Te) : Option (Nat × LayerRef) := bestOf ((List.range' 1 8).zip t.table.toList)

/-- The kept text, where it carries a reference (R64, R75). -/
def Te.keptFor (t : Te) (r : TextRef) : Option (List Byte) :=
  match t.kept with
  | some k => if k.ref = r then some k.text else none
  | none => none

/-- One action in FETCH (R64): a unit, or the text fetch it needs. -/
def State.resolveAction (s : State) : State :=
  match s.te.best with
  | none => s.emitUntranslate
  | some (k, r) =>
    match s.te.keptFor r.ref with
    | some text => s.emitTranslation k text
    | none => (s.setTe { s.te with walkReq := some (.fetch r k [] s.newMarks) }).request .walk (fetchOp r.ref 0)

/-! ## The work of the walk side -/

/-- A re-walk begins (R72): the resolve demand is kept. -/
def State.rewalk (s : State) : State :=
  s.setTe { (s.te.walkAgain s.te.pendingBuf) with rewalkDue := false, resolveAt := none }

/-- The next action of the walk side, where it waits for nothing. -/
def State.teNext (s : State) : Option State :=
  if s.te.walkReq.isSome then none
  else
    match s.te.phase with
    | .idle => none
    | .hold =>
      if s.te.rewalkDue then some s.rewalk
      else if s.te.demand = .none then none
      else some (s.setTe { s.te with phase := .fetch, resolveAt := none })
    | .step => if s.te.rewalkDue then some s.rewalk else some s.stepAction
    | .fetch => if s.te.rewalkDue then some s.rewalk else some s.resolveAction

/-- The actions of the walk side, one after another, at most `fuel` of them. -/
def State.teActions : Nat → State → State
  | 0, s => s
  | fuel + 1, s =>
    match s.teNext with
    | some t => State.teActions fuel t
    | none => s

/-- The work of the walk side within an event. One event resolves at most the nine strokes P and the hand can hold, each after at
most eight steps of four actions: 512 actions are never used up. -/
def State.teRun (s : State) : State := s.teActions 512

/-! ## The commands of the walk side -/

/-- The TE may take a stroke (R60). -/
def Te.free (t : Te) : Bool :=
  (decide (t.phase = .idle) || decide (t.phase = .hold)) && decide (t.demand = .none) && !t.flushOwed && !t.rewalkDue

/-- A record taken from the queue (R60, R66). -/
def State.startStroke (s : State) (r : StrokeRecord) : State :=
  if r.afterDrop then
    if s.te.pendingBuf.isEmpty then s.dropWork r else s.setTe { s.te with inHand := some r, demand := .all }
  else s.handleStroke r

/-- TAKE_STROKE (R60). -/
def State.takeStroke (s : State) : State :=
  match s.sq.records with
  | [] => s
  | r :: rest =>
    if s.te.free then
      let s1 := (s.setSq { s.sq with records := rest }).setTe { s.te with resolveAt := none }
      (((s1.startStroke r).teRun).choose).compose
    else s

/-- A reference leaves its match table entry (R64 step 2). -/
def Te.dropRef (t : Te) (k : Nat) (r : LayerRef) : Te :=
  { t with walkReq := none, table := t.table.setIfInBounds (k - 1) (((t.table[k - 1]?).getD []).filter fun x => decide (x ≠ r)) }

/-- What a walk text fetch does next (R27, R64, R73). -/
def State.walkFetch (s : State) (r : LayerRef) (k : Nat) (m : ReqMarks) : FetchOut → State
  | .more got => (s.setTe { s.te with walkReq := some (.fetch r k got m) }).request .walk (fetchOp r.ref got.length)
  | .text got =>
    if m.raiseSeen then s.setTe { s.te with walkReq := none }
    else s.setTe { s.te with walkReq := none, kept := some { ref := r.ref, text := got } }
  | .bad a =>
    let s1 := s.latchDamage r.layer (.textCode, a)
    if m.raiseSeen then s1.setTe { s1.te with walkReq := none } else s1.setTe (s1.te.dropRef k r)

/-- The data of a WALK operation reaches the request in flight. -/
def State.walkData (s : State) (bs : List Byte) : State :=
  match s.te.walkReq with
  | some (.lookup k m) => s.walkLookup m (lookupStep s.dir k bs)
  | some (.fetch r k got m) => s.walkFetch r k m (fetchStep r.ref got bs)
  | none => s

/-- WALK_READ_END (R49, R52, R54). -/
def State.walkReadEnd (s : State) : State :=
  match s.serving .walk with
  | none => s
  | some r => (((((s.endOperation r).walkData (s.mem.answer r.op)).teRun).choose).compose)

/-- RESOLVE_TIMER_EXPIRY (R65). -/
def State.resolveExpiry (s : State) : State :=
  match s.te.resolveAt with
  | none => s
  | some t =>
    let s1 := s.reachMs t
    (((s1.setTe { s1.te with resolveAt := none, demand := .one }).teRun).choose).compose

/-! ## Retranslation (R74 to R76) -/

/-- A handing joins the retranslation list, or is dropped (R74). -/
def State.handRetr (s : State) (h : Handing) : State :=
  if s.te.handings.length < 8 then s.setTe { s.te with handings := s.te.handings ++ [h] }
  else s.setTe { s.te with retrLost := satSucc s.te.retrLost }

/-- The text is at hand: a replacement is requested, unless the text is command marks alone (R75, R76). -/
def State.requestReplacement (s : State) (strokes : List Stroke) (text : List Byte) : State :=
  if (withoutCommands text).isEmpty then s.setTe { s.te with retr := .idle }
  else s.setTe { s.te with retr := .requested strokes (withoutCommands text) }

/-- A retranslation text fetch begins, at first or again (R75). -/
def State.retrFetchFrom (s : State) (h : Handing) : State :=
  (s.setTe { s.te with retr := .fetch h [] s.newMarks }).request .retr (fetchOp h.ref 0)

/-- MATCH_CHECK (R75). -/
def State.matchCheck (s : State) : State :=
  match s.te.retr, s.te.handings with
  | .idle, h :: rest =>
    let s1 := s.setTe { s.te with handings := rest }
    if hasRun h.strokes s.tb.region.units then
      match s.te.keptFor h.ref with
      | some text => s1.requestReplacement h.strokes text
      | none => s1.retrFetchFrom h
    else s1
  | _, _ => s

/-- What a retranslation text fetch does next (R27, R49, R75). -/
def State.retrFetch (s : State) (h : Handing) (m : ReqMarks) : FetchOut → State
  | .more got => (s.setTe { s.te with retr := .fetch h got m }).request .retr (fetchOp h.ref got.length)
  | .text got =>
    if m.raiseSeen then s.retrFetchFrom h
    else (s.setTe { s.te with kept := some { ref := h.ref, text := got } }).requestReplacement h.strokes got
  | .bad a =>
    let s1 := s.latchDamage 0 (.textCode, a)
    if m.raiseSeen then s1.retrFetchFrom h else s1.setTe { s1.te with retr := .idle }

def State.retrData (s : State) (bs : List Byte) : State :=
  match s.te.retr with
  | .fetch h got m => s.retrFetch h m (fetchStep h.ref got bs)
  | _ => s

/-- RETR_READ_END (R75). -/
def State.retrReadEnd (s : State) : State :=
  match s.serving .retr with
  | none => s
  | some r => (s.endOperation r).retrData (s.mem.answer r.op)

/-- REPLACEMENT (R76). -/
def State.replacement (s : State) : State :=
  match s.te.retr with
  | .requested strokes text => (((s.setTe { s.te with retr := .idle }).replaceUnits strokes text).choose).compose
  | _ => s

/-! ## The hand-over's part of the Custody Unit that moves the TE (R159, R161) -/

/-- SETTLE_TIMER_EXPIRY (R159). -/
def State.settleExpiry (s : State) : State :=
  match s.cu.settleAt with
  | none => s
  | some t =>
    let s1 := s.reachMs t
    ((((s1.setCu { s1.cu with settleAt := none }).handOverToBest).teRun).choose).compose

/-! ## The meanings -/

def execTakeStroke (s : State) : Host.Outcome State Fault Refusal := .next s.takeStroke

def execWalkReadEnd (s : State) : Host.Outcome State Fault Refusal := .next s.walkReadEnd

def execResolveTimerExpiry (s : State) : Host.Outcome State Fault Refusal := .next s.resolveExpiry

def execRetrReadEnd (s : State) : Host.Outcome State Fault Refusal := .next s.retrReadEnd

def execMatchCheck (s : State) : Host.Outcome State Fault Refusal := .next s.matchCheck

def execReplacement (s : State) : Host.Outcome State Fault Refusal := .next s.replacement

def execSettleTimerExpiry (s : State) : Host.Outcome State Fault Refusal := .next s.settleExpiry

end Sys2Proof.Machine
end

