-- ==== Sys2Proof/Machine/Port.lean ====
section
/-! DEFINITION. The host port's transactions (10.2): takes, answers, responses read, and the commands that are discarded. -/

namespace Sys2Proof.Machine

/-! ## Response codes (R186, 11.4) -/

inductive ReplyCode where
  | ok
  | accepted
  | busy
  | badState
  | range
  | full
  | refused
  deriving DecidableEq, Repr

def ReplyCode.code : ReplyCode → Byte
  | .ok => 0
  | .accepted => 1
  | .busy => 2
  | .badState => 3
  | .range => 4
  | .full => 5
  | .refused => 6

/-- The reasons of a REFUSED (R190, 11.4). -/
inductive GoReason where
  | noConfig
  | station
  | roles
  | directory
  | caseBounds
  | caseDamaged
  deriving DecidableEq, Repr

def GoReason.code : GoReason → Nat
  | .noConfig => 1
  | .station => 2
  | .roles => 3
  | .directory => 4
  | .caseBounds => 5
  | .caseDamaged => 6

/-- A command completes: its response is READY (R185). -/
def State.reply (s : State) (c : ReplyCode) (data : List Byte) : State :=
  s.setLcp { s.lcp with response := some { code := c.code, data := data } }

def State.ok (s : State) : State := s.reply .ok []

def State.refuseGo (s : State) (r : GoReason) : State := s.reply .refused (leBytes 1 r.code)

/-! ## Takes (R184, R186) -/

/-- The node states in which a command code is taken (the table of R186); a code that names no command is answered RANGE in both. -/
def takenIn (code : Byte) (online : Bool) : Bool :=
  if online then decide (code ≠ 1) && decide (code ≠ 2) && decide (code ≠ 4)
  else !(decide (6 ≤ code.toNat) && decide (code.toNat ≤ 10))

/-- The largest parameter block the port buffers (R184). -/
def maxParams : Nat := 264

def takeByte (busy : Bool) : Byte := if busy then 2 else 1

/-- The first two bytes the port gives in a command transaction: the status and the take byte (R184). -/
def Lcp.takeBytes (l : Lcp) : List Byte := [l.status, takeByte l.inFlight.isSome]

def State.give (s : State) (bs : List Byte) : State := s.setLcp { s.lcp with given := bs }

/-- The state with a command taken and in flight (R184, R185). -/
def State.taking (s : State) (code : Byte) (params : List Byte) : State :=
  s.setLcp { s.lcp with given := s.lcp.takeBytes, inFlight := some { code := code, params := params.take maxParams } }

/-- A whole command transaction (R184): BUSY discards it; otherwise the command is taken, and it runs unless its parameters are too
long or the node state is not one it is taken in. -/
def State.takeCommand (s : State) (code : Byte) (params : List Byte) (run : State → State) : State :=
  if s.lcp.inFlight.isSome then s.give s.lcp.takeBytes
  else if maxParams < params.length then (s.taking code params).reply .full []
  else if takenIn code s.online then run (s.taking code params)
  else (s.taking code params).reply .badState []

/-- A command with checked parameters: RANGE where they fail. -/
def State.checked {α : Type} (s : State) (p : Option α) (run : State → α → State) : State :=
  match p with
  | some x => run s x
  | none => s.reply .range []

/-- The check of a command without parameters. -/
def noParams (params : List Byte) : Option Unit := if params.isEmpty then some () else none

/-! ## The commands -/

/-- COMMAND_TAKE_BUSY (R184): nothing is left of the transaction. -/
def State.commandTakeBusy (s : State) : State := if s.lcp.inFlight.isSome then s.give s.lcp.takeBytes else s

/-- SHORT_COMMAND_TRANSACTION (R184): the port gave as many of its bytes as the host clocked. The transaction is discarded whatever its
length field says, be it above 264 (the model's choice, log 42). -/
def State.shortCommand (s : State) (sent : List Byte) : State := s.give (s.lcp.takeBytes.take sent.length)

/-- The bytes of a READY response after the port status (11.4). -/
def Response.bytes (r : Response) : List Byte := r.code :: (leBytes 2 r.data.length ++ r.data)

/-- RESPONSE_READ (R185): `clocked` bytes in all, the port status first. -/
def State.responseRead (s : State) (clocked : Nat) : State :=
  match s.lcp.response with
  | some r =>
    let s1 := s.give ((s.lcp.status :: r.bytes).take clocked)
    if 1 + r.bytes.length ≤ clocked then s1.setLcp { s1.lcp with inFlight := none, response := none } else s1
  | none => s.give ([s.lcp.status].take clocked)

/-- UNKNOWN_COMMAND (R186): RANGE, after the state test where the code names a command whose selecting byte names none of its rows
(log 5). -/
def State.unknownCommand (s : State) (code : Byte) (params : List Byte) : State :=
  s.takeCommand code params fun t => t.reply .range []

def execCommandTakeBusy (_ : Byte) (_ : List Byte) (s : State) : Host.Outcome State Fault Refusal := .next s.commandTakeBusy

def execShortCommandTransaction (sent : List Byte) (s : State) : Host.Outcome State Fault Refusal := .next (s.shortCommand sent)

def execResponseRead (clocked : Nat) (s : State) : Host.Outcome State Fault Refusal := .next (s.responseRead clocked)

def execUnknownCommand (code : Byte) (params : List Byte) (s : State) : Host.Outcome State Fault Refusal :=
  .next (s.unknownCommand code params)

end Sys2Proof.Machine
end

