-- ==== Sys2Proof/Machine/Define.lean ====
section
/-! DEFINITION. The Definition Unit (02): received definitions, PLAN, WRITE and FINISH, the directory check and CASE scan of GO,
and GO's completion. -/

namespace Sys2Proof.Machine

/-! ## Reports (R33, R36, R37, R38) -/

def DefEntry.first (e : DefEntry) : Stroke := e.strokes.headD 0

/-- The event of an entry's outcome: DEFINE_RESULT for a local one, DEFINE_RECEIVED for a received one. -/
def DefEntry.event (e : DefEntry) (o : DefineEnd) (r : ReceivedEnd) : Event :=
  if e.source = 0 then .defineResult o e.first else .defineReceived r e.source

/-- The entry reports and leaves service (R31). -/
def State.leaveService (s : State) (ev : Event) : State := (s.setDu { s.du with work := .idle }).latch ev

/-! ## Cells rewritten (R35, R38): the fields not named are kept -/

def withFlags (bs : List Byte) (f : Byte) : List Byte := patch bs 3 [f]

def cellWithText (bs : List Byte) (t : TextRef) (origin : Nat) : List Byte :=
  patch (patch (withFlags bs (byteOf bs 3 ||| 1)) 4 (leBytes 3 t.addr ++ leBytes 1 t.len)) 14 (leBytes 1 origin)

def cellWithNext (bs : List Byte) (table : Nat) : List Byte := patch (withFlags bs (byteOf bs 3 ||| 2)) 8 (leBytes 3 table)

def cellWithoutText (bs : List Byte) : List Byte := withFlags bs (byteOf bs 3 &&& 0xFE)

def cellWithoutNext (bs : List Byte) : List Byte := withFlags bs (byteOf bs 3 &&& 0xFD)

def cellWithLink (bs : List Byte) (link : Nat) : List Byte := patch bs 11 (leBytes 3 link)

def aWrite (addr : Nat) (bytes : List Byte) : PlannedWrite := { addr := addr, bytes := bytes, freed := [] }

/-- `bytes` from `addr` in operations of up to 16 bytes, `fuel` of them at most. -/
def writesOf : Nat → Nat → List Byte → List PlannedWrite
  | 0, _, _ => []
  | fuel + 1, addr, bytes =>
    if bytes.isEmpty then [] else aWrite addr (bytes.take 16) :: writesOf fuel (addr + 16) (bytes.drop 16)

/-! ## The free-cell list (R34, R38) -/

/-- The lowest run of four cells at consecutive addresses, of a list in address order. -/
def lowestRun : List Nat → Option Nat
  | a :: b :: c :: d :: rest => if b = a + 16 ∧ c = a + 32 ∧ d = a + 48 then some a else lowestRun (b :: c :: d :: rest)
  | _ => none

/-- Runs for `n` new tables, and the cells left (R34 step 1). -/
def takeTables : Nat → List Nat → Option (List Nat × List Nat)
  | 0, free => some ([], free)
  | n + 1, free =>
    match lowestRun free with
    | some a =>
      match takeTables n (free.filter fun x => decide (x < a) || decide (a + 48 < x)) with
      | some r => some (a :: r.1, r.2)
      | none => none
    | none => none

/-- The addresses chosen for an entry: tables and cells, shallowest first, and the free cells left. -/
structure Alloc where
  tables : List Nat
  cells  : List Nat
  free   : List Nat
  deriving DecidableEq, Repr

/-- `t` tables and `c` cells of the free-cell list (R34 steps 1 and 2). -/
def allocate (t c : Nat) (free : List Nat) : Option Alloc :=
  match takeTables t free with
  | some r => if c ≤ r.2.length then some { tables := r.1, cells := r.2.take c, free := r.2.drop c } else none
  | none => none

/-- A cell joins the free-cell list in address order. -/
def freeCell (a : Nat) : List Nat → List Nat
  | [] => [a]
  | x :: rest => if a < x then a :: x :: rest else if a = x then x :: rest else x :: freeCell a rest

/-! ## The writes of a DEFINE (R35) -/

/-- New tables, shallowest first, each for the cell of its stroke (step 1, log 13). -/
def tableWrites : List Stroke → List Nat → List Nat → List PlannedWrite
  | v :: vs, c :: cs, t :: ts => writesOf 4 t (newTableBytes v c) ++ tableWrites vs cs ts
  | _, _, _ => []

/-- New cells, shallowest first: `tables` are those of the strokes after the first, `link` the first cell's chain link, `g` the
generation (step 3). -/
def cellWrites (g : BitVec 16) (ref : TextRef) (origin : Nat) : List Stroke → List Nat → List Nat → Nat → List PlannedWrite
  | [v], c :: _, _, link => [aWrite c (newCellBytes (fun i => Config.absentByte g (c + i)) v (some ref) none link origin)]
  | v :: vs, c :: cs, t :: ts, link =>
    aWrite c (newCellBytes (fun i => Config.absentByte g (c + i)) v none (some t) link origin) :: cellWrites g ref origin vs cs ts 0
  | _, _, _, _ => []

/-- New tables, text and new cells, the cells deepest first (steps 1 to 3). -/
def buildWrites (e : DefEntry) (ref : TextRef) (tabled : List Stroke) (tabledCells tables : List Nat) (cells : List PlannedWrite) :
    List PlannedWrite :=
  tableWrites tabled tabledCells tables ++ writesOf e.text.length ref.addr e.text ++ cells.reverse

/-- The writes for strokes missing from an existing table, the lookup `k` having ended there. -/
def writesInTable (g : BitVec 16) (e : DefEntry) (ref : TextRef) (missing : List Stroke) (k : Lookup) (a : Alloc) : List PlannedWrite :=
  buildWrites e ref (missing.drop 1) (a.cells.drop 1) a.tables (cellWrites g ref e.source missing a.cells a.tables k.head)
    ++ [aWrite k.headAddr (leBytes 3 (a.cells.headD 0)), aWrite k.table (headerBytes k.exponent (k.cellCount + 1))]

/-- The writes for strokes missing under a cell without a next level. -/
def writesUnderCell (g : BitVec 16) (e : DefEntry) (ref : TextRef) (missing : List Stroke) (p : PlanStep) (a : Alloc) : List PlannedWrite :=
  buildWrites e ref missing a.cells a.tables (cellWrites g ref e.source missing a.cells (a.tables.drop 1) 0)
    ++ [aWrite p.cellAddr (cellWithNext p.bytes (a.tables.headD 0))]

/-- The writes for a final cell that exists. -/
def writesOnCell (e : DefEntry) (ref : TextRef) (p : PlanStep) : List PlannedWrite :=
  buildWrites e ref [] [] [] [] ++ [aWrite p.cellAddr (cellWithText p.bytes ref e.source)]

/-! ## WRITE (R31) -/

/-- WRITE starts, or goes on, with the writes of `todo`; after the last comes FINISH with a fence for each stroke (R36, R38). -/
def State.writeOn (s : State) (e : DefEntry) (ref : TextRef) (todo : List PlannedWrite) : State :=
  match todo with
  | w :: _ => (s.setDu { s.du with work := .write e ref todo }).request .defn (.write w.addr w.bytes)
  | [] => s.setDu { s.du with work := .finish e ref e.strokes }

/-! ## The end of PLAN (R33, R34, R37, R38) -/

/-- The rank held for an origin (R33). -/
def Roster.rankOf (r : Roster) (origin : Nat) : Nat :=
  match r.of origin with
  | some q => q.rank
  | none => 0

/-- The conflict rule for a final cell (R33): one without text takes any entry. -/
def State.mayReplace (s : State) (e : DefEntry) (c : CellData) : Bool :=
  !c.hasText || decide (e.source = 0) || (decide (c.origin ≠ 0) && decide (s.roster.rankOf c.origin ≤ e.rank))

/-- The heap top, which GO has set (R41). -/
def State.heapTop (s : State) : Nat := s.du.heapTop.getD s.dir.heapStart

/-- The text of an entry at the heap top. -/
def State.newRef (s : State) (e : DefEntry) : TextRef := { addr := s.heapTop, len := e.text.length }

/-- Capacity for `t` tables, `c` cells and the text: FULL, or the addresses are taken and WRITE starts (R34). -/
def State.claimSpace (s : State) (e : DefEntry) (t c : Nat) (writes : Alloc → List PlannedWrite) : State :=
  match allocate t c s.du.freeCells with
  | some a =>
    if s.heapTop + e.text.length ≤ s.dir.heapStart + s.dir.heapSize then
      (s.setDu { s.du with freeCells := a.free, heapTop := some (s.heapTop + e.text.length) }).writeOn e (s.newRef e) (writes a)
    else s.leaveService (e.event .full .full)
  | none => s.leaveService (e.event .full .full)

/-- PLAN of a DEFINE has walked as far as it goes: `path` the steps found, `k` the lookup that ended without an entry, if one did. -/
def State.planDefine (s : State) (e : DefEntry) (path : List PlanStep) (k : Option Lookup) : State :=
  let missing := e.strokes.drop path.length
  match k, path.getLast? with
  | some k, _ =>
    s.claimSpace e (missing.length - 1) missing.length (writesInTable s.du.generation e (s.newRef e) missing k)
  | none, some p =>
    if missing.isEmpty then
      if s.mayReplace e (CellData.ofBytes p.bytes) then s.claimSpace e 0 0 fun _ => writesOnCell e (s.newRef e) p
      else s.leaveService (.defineReceived .dropped e.source)
    else s.claimSpace e missing.length missing.length (writesUnderCell s.du.generation e (s.newRef e) missing p)
  | none, none => s.leaveService (e.event .fault .fault)

/-- The cells a removed table frees (R22, R38). -/
def tableCellList (p : PlanStep) : List Nat := (List.range (tableCells p.exponent)).map fun i => p.table + 16 * i

/-- The bucket head or the predecessor takes a removed cell's chain link (R38 step 1). -/
def unlinkWrite (p : PlanStep) : PlannedWrite :=
  match p.prev with
  | none => aWrite p.headAddr (leBytes 3 (CellData.ofBytes p.bytes).link)
  | some q => aWrite q.1 (cellWithLink q.2 (CellData.ofBytes p.bytes).link)

/-- The writes that prune an empty cell and, while tables empty, the cells above it (R38): path steps innermost first. -/
def pruneWrites (root : Nat) : List PlanStep → List PlannedWrite
  | [] => []
  | p :: up =>
    [unlinkWrite p, { addr := p.table, bytes := headerBytes p.exponent (p.cellCount - 1), freed := [p.cellAddr] }]
    ++ (if p.cellCount ≤ 1 ∧ p.table ≠ root then
          match up with
          | [] => []
          | q :: _ =>
            { addr := q.cellAddr, bytes := cellWithoutNext q.bytes, freed := tableCellList p }
              :: (if (CellData.ofBytes q.bytes).hasText then [] else pruneWrites root up)
        else [])

/-- The writes of a FORGET whose final cell is `p`, under the steps `up` (R38). -/
def forgetWrites (root : Nat) (p : PlanStep) (up : List PlanStep) : List PlannedWrite :=
  aWrite p.cellAddr (cellWithoutText p.bytes)
    :: (if (CellData.ofBytes p.bytes).hasNext then [] else pruneWrites root ({ p with bytes := cellWithoutText p.bytes } :: up))

/-- PLAN of a FORGET has walked as far as it goes (R37). -/
def State.planForget (s : State) (e : DefEntry) (path : List PlanStep) (k : Option Lookup) : State :=
  match k, path.reverse with
  | none, p :: up =>
    if path.length = e.strokes.length ∧ (CellData.ofBytes p.bytes).hasText = true then
      s.writeOn e { addr := 0, len := 0 } (forgetWrites s.dir.caseRoot p up)
    else s.leaveService (.defineResult .notFound e.first)
  | _, _ => s.leaveService (.defineResult .notFound e.first)

def State.planEnds (s : State) (e : DefEntry) (path : List PlanStep) (k : Option Lookup) : State :=
  match e.kind with
  | .define => s.planDefine e path k
  | .forget => s.planForget e path k

/-! ## PLAN's walk (R32) -/

/-- A fault ends PLAN with outcome FAULT (R26, R32, R37). -/
def State.planFault (s : State) (e : DefEntry) (d : Damage) : State := (s.latchDamage 0 d).leaveService (e.event .fault .fault)

/-- The lookup of the next stroke of an entry begins under `table` (R32). -/
def State.planStart (s : State) (e : DefEntry) (path : List PlanStep) (table : Nat) : State :=
  match startLookup s.dir 0 table ((e.strokes[path.length]?).getD 0) true with
  | .read a n k => (s.setDu { s.du with work := .plan e k path }).request .defn (.read a n)
  | .fault d => s.planFault e d
  | _ => s

/-- The step a found lookup gives. -/
def Lookup.planStep (k : Lookup) (bs : List Byte) : PlanStep :=
  { table := k.table, exponent := k.exponent, cellCount := k.cellCount, headAddr := k.headAddr, cellAddr := k.cellAddr,
    bytes := bs, prev := k.prev }

/-- A stroke of the path is found: the walk goes into the cell's next level, or ends (R32). -/
def State.planFound (s : State) (e : DefEntry) (path : List PlanStep) (c : CellData) : State :=
  if path.length < e.strokes.length ∧ c.hasNext = true then s.planStart e path c.next else s.planEnds e path none

/-- What a PLAN lookup does next. -/
def State.planLookup (s : State) (e : DefEntry) (path : List PlanStep) : LookupOut → State
  | .read a n k => (s.setDu { s.du with work := .plan e k path }).request .defn (.read a n)
  | .noEntry k => s.planEnds e path (some k)
  | .found k bs => s.planFound e (path ++ [k.planStep bs]) (CellData.ofBytes bs)
  | .fault d => s.planFault e d

/-- DU_SERVICE_START (R31). -/
def State.duServiceStart (s : State) : State :=
  match s.du.work, s.du.queue with
  | .idle, e :: rest => (s.setDu { s.du with queue := rest }).planStart e [] s.dir.caseRoot
  | _, _ => s

/-! ## FINISH (R36, R38, R39, R50) -/

/-- Define sharing sends. -/
def DefineSharing.sends : DefineSharing → Bool
  | .send => true
  | .both => true
  | _ => false

def DefineSharing.receives : DefineSharing → Bool
  | .receive => true
  | .both => true
  | _ => false

/-- What follows the last fence: the raise, the handings and the report (R36 steps 2 to 4, R38). -/
def State.finishEntry (s : State) (e : DefEntry) (ref : TextRef) : State :=
  let s1 := s.raiseGeneration
  match e.kind with
  | .forget => s1.leaveService (.defineResult .forgotten e.first)
  | .define =>
    let s2 := (s1.handRetr { strokes := e.strokes, ref := ref }).leaveService (e.event .done .applied)
    if e.source = 0 ∧ e.share = true ∧ s2.cfg.sharing.sends = true then s2.sendDefinition e.strokes e.text else s2

/-- FENCE_COMPLETE (R47, R50). -/
def State.fenceComplete (s : State) : State :=
  match s.du.work with
  | .finish e ref (v :: rest) =>
    let s1 := (s.fence (.strokeLayer v 0)).setDu { s.du with work := .finish e ref rest }
    if rest.isEmpty then (((s1.finishEntry e ref).teRun).choose).compose else s1
  | _ => s

/-! ## GO (R20, R40, R41, R191) -/

/-- GO's checks fail: no directory copy is kept (R190). -/
def State.goFails (s : State) (r : GoReason) : State := (s.setDu { s.du with work := .idle, dir := none }).refuseGo r

/-- GO completes: ONLINE, and every block takes the configuration in force (R191). -/
def State.goComplete (s : State) : State :=
  let s1 := (s.setDu { s.du with work := .idle }).setLcp { s.lcp with online := true }
  let s2 := ((s1.setCache (s1.cache.fence .all)).setKcu s1.kcu.atGo).setTb s1.tb.atGo
  let s3 := ((s2.setLnc s2.lnc.atGo).setCu Cu.atGo).setRoster s2.roster.atGo
  (((s3.publisherAtGo).viewerAtGo).ok).choose

/-- The count rewrites owed after the scan, one at a time; then GO completes (R41). -/
def State.goCountsOn (s : State) (todo : List PlannedWrite) : State :=
  match todo with
  | w :: _ => (s.setDu { s.du with work := .goCounts todo }).request .defn (.write w.addr w.bytes)
  | [] => s.goComplete

/-- What the CASE scan does next (R40, R41). -/
def State.scanOut (s : State) : ScanOut → State
  | .read a n sc => (s.setDu { s.du with work := .goScan sc }).request .defn (.read a n)
  | .fault d => (s.latchDamage 0 d).goFails .caseDamaged
  | .done sc =>
    (s.setDu { s.du with freeCells := freeAfter s.dir sc.reached, heapTop := some (sc.textTop.getD s.dir.heapStart) }).goCountsOn
      sc.fixes

/-- The directory reads of GO, checked when all four are done (R20, log 11). -/
def State.goDirectory (s : State) (got : List Byte) : State :=
  if got.length < 64 then (s.setDu { s.du with work := .goDirectory got }).request .defn (.read got.length 16)
  else if !directoryOk got then s.goFails .directory
  else if !caseBoundsOk (Directory.ofBytes got) then s.goFails .caseBounds
  else (s.setDu { s.du with dir := some (Directory.ofBytes got) }).scanOut (startScan (Directory.ofBytes got))

/-! ## DEF_OPERATION_END (R31) -/

/-- The cells a finished write frees join the free-cell list (R38). -/
def State.freeCellsOf (s : State) (w : PlannedWrite) : State :=
  s.setDu { s.du with freeCells := w.freed.foldl (fun l a => freeCell a l) s.du.freeCells }

/-- The end of a DU operation that gave `bs`. -/
def State.duData (s : State) (bs : List Byte) : State :=
  match s.du.work with
  | .plan e k path => s.planLookup e path (lookupStep s.dir k bs)
  | .write e ref (w :: rest) => (s.freeCellsOf w).writeOn e ref rest
  | .goDirectory got => s.goDirectory (got ++ bs)
  | .goScan sc => s.scanOut (scanStep s.dir sc bs)
  | .goCounts (_ :: rest) => s.goCountsOn rest
  | _ => s

/-- DEF_OPERATION_END. -/
def State.defOperationEnd (s : State) : State :=
  match s.serving .defn with
  | none => s
  | some r => (s.endOperation r).duData (s.mem.answer r.op)

/-! ## DEFINE frames (R30) -/

/-- A received definition as a queue entry. -/
def DefineBody.entry (d : DefineBody) (station number : Nat) : DefEntry :=
  { kind := .define, source := station, rank := d.rank, defNumber := some number, strokes := d.strokes, text := d.text,
    share := false }

def State.countReceivedLost (s : State) : State := s.setDu { s.du with receivedLost := satSucc s.du.receivedLost }

/-- A DEFINE frame is offered by a station whose slot `i` holds `q` (R30 steps 3 to 6). -/
def State.offerDefine (s : State) (f : Frame) (i : Nat) (q : RosterSlot) : State :=
  if q.lastDefine = some (fieldAt f.body 1 1) then s
  else
    match DefineBody.parse f.body with
    | none => s.countReceivedLost
    | some d =>
      if s.du.queue.length < 8 then
        (s.setDu { s.du with queue := s.du.queue ++ [d.entry q.station (fieldAt f.body 1 1)] }).setSlot i
          (some { q with lastDefine := some (fieldAt f.body 1 1) })
      else s.countReceivedLost

/-- A DEFINE frame reaches the Definition Unit (R30). -/
def State.defineAtDu (s : State) (f : Frame) : State :=
  if s.cfg.sharing.receives then
    match s.roster.indexOf f.station with
    | none => s
    | some i =>
      match s.roster.slot i with
      | some q => if q.state = .admitted then s.offerDefine f i q else s
      | none => s
  else s

/-- DELIVER_DEFINE (R30, R144). -/
def State.deliverDefine (s : State) : State := s.deliver .define fun t f => (t.refreshSlot f.station).defineAtDu f

/-! ## RESTART (R42) -/

def Du.atRestart (d : Du) : Du := { Du.reset with receivedLost := d.receivedLost }

/-! ## The meanings -/

def execDuServiceStart (s : State) : Host.Outcome State Fault Refusal := .next s.duServiceStart

def execDefOperationEnd (s : State) : Host.Outcome State Fault Refusal := .next s.defOperationEnd

def execFenceComplete (s : State) : Host.Outcome State Fault Refusal := .next s.fenceComplete

def execDeliverDefine (s : State) : Host.Outcome State Fault Refusal := .next s.deliverDefine

end Sys2Proof.Machine
end

