-- ==== Sys2Proof/Machine/HostPort.lean ====
section
/-! DEFINITION. The host commands (10), EXPORT operations, RESTART and the full reset. -/

namespace Sys2Proof.Machine

/-! ## CONFIGURE (R188) -/

def State.configureWith (s : State) (g : Settings) : State :=
  ((s.setLcp { s.lcp with config := some g, mask := g.mask }).adoptSettings g).ok

def State.configure (s : State) (params : List Byte) : State :=
  s.takeCommand 1 params fun t => t.checked (Settings.parse params) State.configureWith

/-! ## LOAD, READ_DICT and their operations (R56, R189) -/

/-- The next EXPORT write of a LOAD, or its completion. -/
def State.loadOn (s : State) (addr : Nat) (left : List Byte) : State :=
  if left.isEmpty then (s.setLcp { s.lcp with job := none }).ok
  else (s.setLcp { s.lcp with job := some (.load addr left) }).request .host (.write addr (left.take 16))

/-- The next EXPORT read of a READ_DICT, or its completion. -/
def State.readOn (s : State) (addr left : Nat) (got : List Byte) : State :=
  if left = 0 then (s.setLcp { s.lcp with job := none }).reply .ok got
  else (s.setLcp { s.lcp with job := some (.read addr left got) }).request .host (.read addr (min 16 left))

def State.load (s : State) (params : List Byte) : State :=
  s.takeCommand 2 params fun t => t.checked (loadParams params) fun u p => u.loadOn p.1 p.2

def State.readDict (s : State) (params : List Byte) : State :=
  s.takeCommand 3 params fun t => t.checked (readDictParams params) fun u p => u.readOn p.1 p.2 []

/-- The end of an EXPORT operation that gave `bs`. -/
def State.exportData (s : State) (bs : List Byte) : State :=
  match s.lcp.job with
  | some (.load addr left) => s.loadOn (addr + 16) (left.drop 16)
  | some (.read addr left got) => s.readOn (addr + 16) (left - 16) (got ++ bs)
  | none => s

/-- EXPORT_OPERATION_END (R56). -/
def State.exportOperationEnd (s : State) : State :=
  match s.serving .host with
  | none => s
  | some r => (s.endOperation r).exportData (s.mem.answer r.op)

/-! ## GO (R190) -/

/-- The checks of the take event, in order. -/
def goCheck : Option Settings → Option GoReason
  | none => some .noConfig
  | some g =>
    if g.station = 0 ∨ 30 < g.station then some .station
    else if g.writer = false ∧ g.viewer = false then some .roles
    else none

def State.goTaken (s : State) : State :=
  match goCheck s.lcp.config with
  | some r => s.refuseGo r
  | none => s.goDirectory []

def State.go (s : State) (params : List Byte) : State :=
  s.takeCommand 4 params fun t => t.checked (noParams params) fun u _ => u.goTaken

/-! ## RESTART (R192) and FULL_RESET (R16) -/

/-- Every block at RESTART, by its own rule. -/
def State.blocksRestarted (s : State) : State :=
  { (s.restartCapture) with
    mem := s.memAtReset, du := s.du.atRestart, cache := Cache.reset, arb := Arbiter.reset, te := Te.reset, tb := Tb.reset,
    lnc := s.lnc.atRestart, pub := s.pub.atRestart, roster := s.roster.atRestart, cu := Cu.reset, vw := s.vw.atRestart,
    sp := { Screen.reset with busyPin := s.sp.busyPin } }

def State.restarted (s : State) : State :=
  (s.blocksRestarted.setLcp { s.lcp with online := false, job := none, lineCursor := 1 }).ok

def State.restart (s : State) (params : List Byte) : State :=
  s.takeCommand 5 params fun t => t.checked (noParams params) fun u _ => u.restarted

/-- FULL_RESET (R16, R42, R58, R122, R142, R166, R183, R192, R201): State.reset but for the memory, which keeps its contents (R19),
with the operation in service served at the RESET pin (R58, log 8); the levels at the input pins, which are the outside's (log 7);
and the queue of commands. -/
def State.fullReset (s : State) (src : ResetSource) : State :=
  { State.reset with
    kcu := s.kcu.atReset, lnc := s.lnc.atReset, sp := { Screen.reset with busyPin := s.sp.busyPin },
    mem := match src with | .powerUp => s.mem | .pin => s.memAtReset,
    pending := s.pending }

/-! ## DEFINE and FORGET (R29, R37) -/

/-- An entry joins the definition queue, or the answer is BUSY (R29). -/
def State.queueEntry (s : State) (e : DefEntry) : State :=
  if s.du.queue.length < 8 then (s.setDu { s.du with queue := s.du.queue ++ [e] }).reply .accepted [] else s.reply .busy []

def State.hostDefine (s : State) (params : List Byte) : State :=
  s.takeCommand 6 params fun t => t.checked (defineParams params) fun u p =>
    u.queueEntry { kind := .define, source := 0, rank := u.cfg.rank, defNumber := none, strokes := p.1, text := p.2.1, share := p.2.2 }

def State.hostForget (s : State) (params : List Byte) : State :=
  s.takeCommand 7 params fun t => t.checked (forgetParams params) fun u p =>
    u.queueEntry { kind := .forget, source := 0, rank := u.cfg.rank, defNumber := none, strokes := p, text := [], share := false }

/-! ## FLUSH_CACHE (R48) -/

/-- The layer of a FLUSH_CACHE: 0 to 2. -/
def flushLayer (rest : List Byte) : Option Nat := if fieldAt rest 0 1 ≤ 2 then some (fieldAt rest 0 1) else none

/-- The stroke value of a FLUSH_CACHE: no bit above key 23. -/
def flushStroke (rest : List Byte) : Option Stroke :=
  if fieldAt rest 1 3 < 8388608 then some (BitVec.ofNat 23 (fieldAt rest 1 3)) else none

def flushAllScope (rest : List Byte) : Option FenceScope := if rest.length = 4 then some .all else none

def flushLayerScope (rest : List Byte) : Option FenceScope :=
  if rest.length = 4 then (flushLayer rest).map .layer else none

def flushStrokeScope (rest : List Byte) : Option FenceScope :=
  if rest.length = 4 then (flushStroke rest).map .stroke else none

def flushStrokeLayerScope (rest : List Byte) : Option FenceScope :=
  if rest.length = 4 then
    match flushLayer rest, flushStroke rest with
    | some l, some v => some (.strokeLayer v l)
    | _, _ => none
  else none

/-- A valid fence of the host: a void one does nothing, any other raises the generation (R48). -/
def State.hostFence (s : State) (f : FenceScope) : State :=
  if f.void then s.ok else ((((s.fence f).raiseGeneration.ok).teRun).choose).compose

def State.flushCache (s : State) (selector : Byte) (rest : List Byte) (scope : Option FenceScope) : State :=
  s.takeCommand 8 (selector :: rest) fun t => t.checked scope State.hostFence

/-! ## CUSTODY (R151) -/

/-- The answer to a host request that applies (R151). -/
def CustodyRequest.reply : CustodyRequest → ReplyCode
  | .claim => .accepted
  | .release => .accepted
  | _ => .ok

/-- The TE's part of a request that applies: a RELEASE asked it for a flush (R161). -/
def State.flushFor (s : State) : CustodyRequest → State
  | .release => s.teRun
  | _ => s

/-- A host request is taken: BAD_STATE where it does not apply. -/
def State.hostRequest (s : State) (q : CustodyRequest) : State :=
  if s.requestApplies q then (((((s.takeRequest q).flushFor q).reply q.reply []).choose).compose) else s.reply .badState []

def State.custody (s : State) (selector : Byte) (rest : List Byte) (q : CustodyRequest) : State :=
  s.takeCommand 9 (selector :: rest) fun t => t.checked (noParams rest) fun u _ => u.hostRequest q

/-! ## PANE (R194) -/

/-- The parameters of a PANE: pane B or A, source, offset, prefix. -/
def paneParams (p : List Byte) : Option (Bool × PaneSource × Nat × Bool) :=
  match PaneSource.ofCode (fieldAt p 1 1) with
  | some src =>
    if p.length = 5 ∧ fieldAt p 0 1 ≤ 1 ∧ fieldAt p 2 2 ≤ 511 ∧ fieldAt p 4 1 ≤ 1 then
      some ((byteOf p 0).getLsbD 0, src, fieldAt p 2 2, (byteOf p 4).getLsbD 0)
    else none
  | none => none

/-- A pane with three settings changed; its rows stay. A pane that the Viewer does not hold stays none (log 27). -/
def Pane.change (p : Option Pane) (src : PaneSource) (offset : Nat) (pfx : Bool) : Option Pane :=
  p.map fun q => { q with source := src, offset := offset, pfx := pfx }

def State.setPane (s : State) (p : Bool × PaneSource × Nat × Bool) : State :=
  let v := if p.1 then { s.vw with paneB := Pane.change s.vw.paneB p.2.1 p.2.2.1 p.2.2.2 }
    else { s.vw with paneA := Pane.change s.vw.paneA p.2.1 p.2.2.1 p.2.2.2 }
  (((s.setVw v).releasePins).compose).ok

def State.paneCommand (s : State) (params : List Byte) : State :=
  s.takeCommand 10 params fun t => t.checked (paneParams params) State.setPane

/-! ## READ_LINES (R195, 11.5) -/

def CommittedLine.bytes (l : CommittedLine) : List Byte :=
  leBytes 4 l.ordinal ++ leBytes 1 l.series.code ++ leBytes 3 l.number ++ leBytes 3 (pageOf l.number)
    ++ leBytes 1 (lineOnPage l.number) ++ leBytes 1 l.station ++ [packBits [l.brk, l.carried]] ++ leBytes 2 l.strokes
    ++ leBytes 1 l.text.length ++ l.text

/-- Where the line cursor stands (R195): the ordinals jumped over, the cursor after the jump, and the held lines from there on. -/
def State.lineWindow (s : State) : Nat × Nat × List CommittedLine :=
  let steps := ordinalSteps s.lcp.lineCursor s.tb.nextOrdinal
  if steps ≤ s.tb.ring.length then (0, s.lcp.lineCursor, s.tb.ring.drop (s.tb.ring.length - steps))
  else (steps - s.tb.ring.length, (s.tb.ring.head?.map CommittedLine.ordinal).getD s.tb.nextOrdinal, s.tb.ring)

/-- The parameter bytes after the mode: a count of 1 to `max`. -/
def countParam (rest : List Byte) (max : Nat) : Option Nat :=
  if rest.length = 1 ∧ 1 ≤ fieldAt rest 0 1 ∧ fieldAt rest 0 1 ≤ max then some (fieldAt rest 0 1) else none

/-- The cursor after `given` lines from `cursor`: past the last of them. -/
def cursorPast (cursor : Nat) (given : List CommittedLine) : Nat :=
  match given.getLast? with
  | some l => nextOrdinalOf l.ordinal
  | none => cursor

/-- Up to `n` lines are given; `auto` moves the cursor past them (R195). -/
def State.giveLines (s : State) (auto : Bool) (n : Nat) : State :=
  let w := s.lineWindow
  let given := w.2.2.take n
  (s.setLcp { s.lcp with lineCursor := if auto then cursorPast w.2.1 given else w.2.1 }).reply .ok
    (leBytes 4 w.1 ++ leBytes 1 given.length ++ given.flatMap CommittedLine.bytes)

def State.readLines (s : State) (selector : Byte) (rest : List Byte) (auto : Bool) : State :=
  s.takeCommand 11 (selector :: rest) fun t => t.checked (countParam rest 4) fun u n => u.giveLines auto n

/-! ## READ_NOTES (R14, R196, 11.5) -/

def StrokeRecord.bytes (r : StrokeRecord) : List Byte :=
  leBytes 4 r.number ++ leBytes 3 r.value.toNat ++ [packBits [r.notTranslated, r.afterDrop]] ++ leBytes 4 r.openTime.toNat
    ++ leBytes 4 r.closeTime.toNat

/-- The unexported entries, oldest first. -/
def NotesLog.waiting (n : NotesLog) : List StrokeRecord := n.entries.drop (n.entries.length - n.unexported)

def State.giveNotes (s : State) (auto : Bool) (n : Nat) : State :=
  let given := s.notes.waiting.take n
  let s1 := if auto then s.setNotes { s.notes with unexported := s.notes.unexported - given.length } else s
  s1.reply .ok
    (leBytes 1 given.length ++ given.flatMap StrokeRecord.bytes ++ leBytes 2 s1.notes.unexported ++ leBytes 4 s1.notes.lost)

def State.readNotes (s : State) (selector : Byte) (rest : List Byte) (auto : Bool) : State :=
  s.takeCommand 12 (selector :: rest) fun t => t.checked (countParam rest 16) fun u n => u.giveNotes auto n

/-! ## READ_STATUS (R197, 11.5; the details are log 19) -/

def statusLcp (s : State) : List Byte := [boolByte s.lcp.online, boolByte s.lcp.config.isSome]

def statusCapture (s : State) : List Byte :=
  leBytes 4 s.kcu.nextStroke ++ [boolByte s.kcu.exhausted] ++ leBytes 4 s.kcu.grazes ++ leBytes 4 s.sq.dropped
    ++ leBytes 1 s.sq.records.length

/-- A heap top that is none is given as 0, and so is one of 16,777,216, by its low three bytes (log 19). -/
def statusStore (s : State) : List Byte :=
  leBytes 2 s.du.generation.toNat ++ leBytes 1 s.du.queue.length ++ leBytes 4 s.du.receivedLost ++ leBytes 4 s.du.freeCells.length
    ++ leBytes 3 (s.du.heapTop.getD 0) ++ leBytes 4 s.cache.hits ++ leBytes 4 s.cache.misses

def statusTe (s : State) : List Byte :=
  leBytes 1 s.te.phase.code ++ leBytes 1 s.te.pendingBuf.length ++ leBytes 4 s.te.taken ++ leBytes 4 s.te.consumed
    ++ leBytes 4 s.te.lateUndo ++ leBytes 4 s.te.retrLost

def statusTb (s : State) : List Byte :=
  leBytes 1 s.tb.series.code ++ leBytes 3 s.tb.nextDraft ++ leBytes 4 (s.tb.nextRecord.getD 0) ++ leBytes 3 s.tb.horizon
    ++ leBytes 4 s.tb.nextOrdinal ++ leBytes 4 s.tb.discardedLines ++ leBytes 4 s.tb.discardedStrokes

def statusLnc (s : State) : List Byte :=
  leBytes 4 s.lnc.errors.check ++ leBytes 4 s.lnc.errors.short ++ leBytes 4 s.lnc.errors.long ++ leBytes 4 s.lnc.errors.framing
    ++ leBytes 4 s.lnc.errors.overrun ++ leBytes 4 s.lnc.errors.total ++ leBytes 4 s.lnc.aborted ++ leBytes 4 s.lnc.txDropped
    ++ leBytes 4 s.lnc.cutOff

/-- Entries held, in flight included, in the order of the slot's sources: STATION, LINE, DEFINE, answers, TAIL. -/
def Pub.held (p : Pub) : List Nat :=
  [p.stationWaiting.toList.length + p.stationInFlight.toList.length, p.lineQueue.length, p.defines.length, p.answers.length,
   p.tailWaiting.toList.length + p.tailInFlight.toList.length]

def statusPub (s : State) : List Byte :=
  leBytes 1 s.pub.ownWeight ++ leBytes 1 s.pub.weightSum ++ leBytes 2 s.pub.share ++ [boolByte s.pub.muted] ++ leBytes 2 s.pub.credit
    ++ leBytes 2 s.pub.remainder ++ leBytes 1 s.pub.nextDefine ++ s.pub.held.flatMap (leBytes 1) ++ leBytes 4 s.pub.lineOverflow
    ++ leBytes 4 s.pub.answersDropped ++ leBytes 4 s.pub.defineSendLost

/-- The four entries of the claim list; an unused one is zeros. -/
def claimBytes (cs : List Claim) : List Byte :=
  ((cs.flatMap fun (c : Claim) => leBytes 1 c.station ++ leBytes 1 c.rank ++ leBytes 3 c.horizon) ++ List.replicate 20 0).take 20

def statusCu (s : State) : List Byte :=
  leBytes 1 s.cu.state.code ++ leBytes 1 ((s.cu.prior.map CustodyState.code).getD 255) ++ leBytes 1 s.cu.handOver.code
    ++ leBytes 1 s.cu.handOver.target ++ [packBits [s.cu.hold, s.cu.recordClosed, s.cu.conflict]] ++ claimBytes s.cu.claims
    ++ leBytes 4 s.roster.refused

/-- How many slots of the record store are WAITING, LOST and HELD. -/
def Viewer.storeCounts (v : Viewer) : Nat × Nat × Nat :=
  v.store.foldl (fun c x => match x.state with
    | .waiting _ _ _ => (c.1 + 1, c.2.1, c.2.2)
    | .lost => (c.1, c.2.1 + 1, c.2.2)
    | .held _ _ => (c.1, c.2.1, c.2.2 + 1)) (0, 0, 0)

/-- The dirty set with bit r for row r. -/
def dirtyBits (d : List Nat) : Nat := (d.map fun r => 2 ^ r).sum

/-- A reach, reach station or store base that is none is given as 0 (log 19). -/
def statusVw (s : State) : List Byte :=
  leBytes 1 (s.followStation s.vw.followed) ++ leBytes 3 ((s.vw.reach.map Prod.fst).getD 0)
    ++ leBytes 1 ((s.vw.reach.map Prod.snd).getD 0) ++ leBytes 3 (s.vw.base.getD 0) ++ leBytes 4 (512 - s.vw.store.length)
    ++ leBytes 4 s.vw.storeCounts.1 ++ leBytes 4 s.vw.storeCounts.2.1 ++ leBytes 4 s.vw.storeCounts.2.2
    ++ leBytes 1 s.vw.asks.length ++ leBytes 4 s.vw.asksLost ++ leBytes 4 s.vw.linesLost ++ leBytes 4 (dirtyBits s.sp.dirty)

/-- The READ_STATUS data, block by block in the order of the table of R197. -/
def State.statusData (s : State) : List Byte :=
  statusLcp s ++ statusCapture s ++ statusStore s ++ statusTe s ++ statusTb s ++ statusLnc s ++ statusPub s ++ statusCu s ++ statusVw s

/-- READ_STATUS brings the credit up to date first (R139, R197). -/
def State.giveStatus (s : State) : State := (s.updateCredit).reply .ok s.updateCredit.statusData

def State.readStatus (s : State) (params : List Byte) : State :=
  s.takeCommand 13 params fun t => t.checked (noParams params) fun u _ => u.giveStatus.choose

/-! ## READ_ROSTER (R197, 11.5) -/

/-- Milliseconds since a slot's lapse timer was last restarted, or since it lapsed (R197). -/
def RosterSlot.since (q : RosterSlot) (now : Ms) : Nat :=
  match q.state with
  | .lapsed => (now - q.lapsedAt.getD 0).toNat
  | _ => (now - q.refreshedAt).toNat

def RosterSlot.bytes (q : RosterSlot) (i : Nat) (now : Ms) : List Byte :=
  leBytes 1 i ++ leBytes 1 q.station ++ leBytes 1 q.state.code ++ leBytes 1 q.roles ++ leBytes 1 q.custody.code ++ leBytes 1 q.rank
    ++ [q.flags] ++ leBytes 3 q.horizon ++ leBytes 2 q.share ++ [(q.newer.getD (0, 0)).1, (q.newer.getD (0, 0)).2]
    ++ leBytes 2 (q.lastDefine.getD 65535) ++ leBytes 4 (q.since now)

/-- The records of the slots that hold a station, slot number first. -/
def State.rosterRecords (s : State) : List (List Byte) :=
  (List.range 16).filterMap fun i => (s.roster.slot i).map fun q => q.bytes i s.clock.ms

def State.giveRoster (s : State) : State :=
  s.reply .ok (leBytes 1 s.rosterRecords.length ++ s.rosterRecords.flatMap id)

def State.readRoster (s : State) (params : List Byte) : State :=
  s.takeCommand 14 params fun t => t.checked (noParams params) fun u _ => u.giveRoster

/-! ## READ_EVENT and SET_MASK (R199) -/

/-- The latch of priority `p` is cleared. -/
def Lcp.clearLatch (l : Lcp) (p : Nat) : Lcp := { l with latches := l.latches.setIfInBounds (p - 1) none }

/-- The highest-priority unmasked pending event, with its latch. -/
def Lcp.nextEvent (l : Lcp) : Option (Nat × Latch) :=
  match l.offered with
  | [] => none
  | p :: _ => (l.latch p).map fun x => (p, x)

def State.giveEvent (s : State) : State :=
  match s.lcp.nextEvent with
  | some (p, x) => (s.setLcp (s.lcp.clearLatch p)).reply .ok (leBytes 1 p ++ leBytes 1 x.count ++ x.event.detail)
  | none => s.reply .ok (List.replicate 8 0)

def State.readEvent (s : State) (params : List Byte) : State :=
  s.takeCommand 15 params fun t => t.checked (noParams params) fun u _ => u.giveEvent

/-- The mask of a SET_MASK. -/
def maskParam (params : List Byte) : Option (BitVec 16) :=
  if params.length = 2 then some (BitVec.ofNat 16 (fieldAt params 0 2)) else none

def State.setMask (s : State) (params : List Byte) : State :=
  s.takeCommand 16 params fun t => t.checked (maskParam params) fun u m => (u.setLcp { u.lcp with mask := m }).ok

/-! ## The meanings -/

def execFullReset (source : ResetSource) (s : State) : Host.Outcome State Fault Refusal := .next (s.fullReset source)

def execExportOperationEnd (s : State) : Host.Outcome State Fault Refusal := .next s.exportOperationEnd

def execConfigure (params : List Byte) (s : State) : Host.Outcome State Fault Refusal := .next (s.configure params)

def execLoad (params : List Byte) (s : State) : Host.Outcome State Fault Refusal := .next (s.load params)

def execReadDict (params : List Byte) (s : State) : Host.Outcome State Fault Refusal := .next (s.readDict params)

def execGo (params : List Byte) (s : State) : Host.Outcome State Fault Refusal := .next (s.go params)

def execRestart (params : List Byte) (s : State) : Host.Outcome State Fault Refusal := .next (s.restart params)

def execDefine (params : List Byte) (s : State) : Host.Outcome State Fault Refusal := .next (s.hostDefine params)

def execForget (params : List Byte) (s : State) : Host.Outcome State Fault Refusal := .next (s.hostForget params)

def execFlushCacheAll (rest : List Byte) (s : State) : Host.Outcome State Fault Refusal :=
  .next (s.flushCache 0 rest (flushAllScope rest))

def execFlushCacheLayer (rest : List Byte) (s : State) : Host.Outcome State Fault Refusal :=
  .next (s.flushCache 1 rest (flushLayerScope rest))

def execFlushCacheStroke (rest : List Byte) (s : State) : Host.Outcome State Fault Refusal :=
  .next (s.flushCache 2 rest (flushStrokeScope rest))

def execFlushCacheStrokeLayer (rest : List Byte) (s : State) : Host.Outcome State Fault Refusal :=
  .next (s.flushCache 3 rest (flushStrokeLayerScope rest))

def execCustodyClaim (rest : List Byte) (s : State) : Host.Outcome State Fault Refusal := .next (s.custody 0 rest .claim)

def execCustodyRelease (rest : List Byte) (s : State) : Host.Outcome State Fault Refusal := .next (s.custody 1 rest .release)

def execCustodyEnterShadow (rest : List Byte) (s : State) : Host.Outcome State Fault Refusal := .next (s.custody 2 rest .enterShadow)

def execCustodyLeaveShadow (rest : List Byte) (s : State) : Host.Outcome State Fault Refusal := .next (s.custody 3 rest .leaveShadow)

def execCustodyHold (rest : List Byte) (s : State) : Host.Outcome State Fault Refusal := .next (s.custody 4 rest .hold)

def execCustodyUnhold (rest : List Byte) (s : State) : Host.Outcome State Fault Refusal := .next (s.custody 5 rest .unhold)

def execPane (params : List Byte) (s : State) : Host.Outcome State Fault Refusal := .next (s.paneCommand params)

def execReadLinesAuto (rest : List Byte) (s : State) : Host.Outcome State Fault Refusal := .next (s.readLines 0 rest true)

def execReadLinesPeek (rest : List Byte) (s : State) : Host.Outcome State Fault Refusal := .next (s.readLines 1 rest false)

def execReadNotesAuto (rest : List Byte) (s : State) : Host.Outcome State Fault Refusal := .next (s.readNotes 0 rest true)

def execReadNotesPeek (rest : List Byte) (s : State) : Host.Outcome State Fault Refusal := .next (s.readNotes 1 rest false)

def execReadStatus (params : List Byte) (s : State) : Host.Outcome State Fault Refusal := .next (s.readStatus params)

def execReadRoster (params : List Byte) (s : State) : Host.Outcome State Fault Refusal := .next (s.readRoster params)

def execReadEvent (params : List Byte) (s : State) : Host.Outcome State Fault Refusal := .next (s.readEvent params)

def execSetMask (params : List Byte) (s : State) : Host.Outcome State Fault Refusal := .next (s.setMask params)

end Sys2Proof.Machine
end

