-- ==== Sys2Proof/Machine/Dispatch.lean ====
section
/-! DEFINITION. Each command and its meaning. -/

namespace Sys2Proof.Machine

def exec (i : Instr) (s : State) : Host.Outcome State Fault Refusal :=
  match i with
  | .fullReset src => Sys2Proof.Machine.execFullReset src s
  | .rawLevelChange n down => Sys2Proof.Machine.execRawLevelChange n down s
  | .settlingTimerExpiry n => Sys2Proof.Machine.execSettlingTimerExpiry n s
  | .stuckTimerExpiry n => Sys2Proof.Machine.execStuckTimerExpiry n s
  | .takeStroke => Sys2Proof.Machine.execTakeStroke s
  | .walkReadEnd => Sys2Proof.Machine.execWalkReadEnd s
  | .resolveTimerExpiry => Sys2Proof.Machine.execResolveTimerExpiry s
  | .retrReadEnd => Sys2Proof.Machine.execRetrReadEnd s
  | .matchCheck => Sys2Proof.Machine.execMatchCheck s
  | .replacement => Sys2Proof.Machine.execReplacement s
  | .duServiceStart => Sys2Proof.Machine.execDuServiceStart s
  | .defOperationEnd => Sys2Proof.Machine.execDefOperationEnd s
  | .exportOperationEnd => Sys2Proof.Machine.execExportOperationEnd s
  | .characterReceived h b ok => Sys2Proof.Machine.execCharacterReceived h b ok s
  | .frameEndBySilence => Sys2Proof.Machine.execFrameEndBySilence s
  | .turnaroundGuardExpiry => Sys2Proof.Machine.execTurnaroundGuardExpiry s
  | .transmitStart => Sys2Proof.Machine.execTransmitStart s
  | .creditReach => Sys2Proof.Machine.execCreditReach s
  | .deliverStation => Sys2Proof.Machine.execDeliverStation s
  | .deliverClaim => Sys2Proof.Machine.execDeliverClaim s
  | .deliverRelease => Sys2Proof.Machine.execDeliverRelease s
  | .deliverRefuse => Sys2Proof.Machine.execDeliverRefuse s
  | .deliverDefine => Sys2Proof.Machine.execDeliverDefine s
  | .deliverAsk => Sys2Proof.Machine.execDeliverAsk s
  | .deliverTail => Sys2Proof.Machine.execDeliverTail s
  | .deliverLine => Sys2Proof.Machine.execDeliverLine s
  | .beaconTimerExpiry => Sys2Proof.Machine.execBeaconTimerExpiry s
  | .refreshTimerExpiry => Sys2Proof.Machine.execRefreshTimerExpiry s
  | .lapseTimerExpiry n => Sys2Proof.Machine.execLapseTimerExpiry n s
  | .freeTimerExpiry n => Sys2Proof.Machine.execFreeTimerExpiry n s
  | .claimTimerExpiry => Sys2Proof.Machine.execClaimTimerExpiry s
  | .settleTimerExpiry => Sys2Proof.Machine.execSettleTimerExpiry s
  | .commitAll => Sys2Proof.Machine.execCommitAll s
  | .gapTimerExpiry n => Sys2Proof.Machine.execGapTimerExpiry n s
  | .rowSendStart => Sys2Proof.Machine.execRowSendStart s
  | .busyChange high => Sys2Proof.Machine.execBusyChange high s
  | .rowSendComplete => Sys2Proof.Machine.execRowSendComplete s
  | .commandTakeBusy code ps => Sys2Proof.Machine.execCommandTakeBusy code ps s
  | .responseRead clocked => Sys2Proof.Machine.execResponseRead clocked s
  | .unknownCommand code ps => Sys2Proof.Machine.execUnknownCommand code ps s
  | .configure ps => Sys2Proof.Machine.execConfigure ps s
  | .load ps => Sys2Proof.Machine.execLoad ps s
  | .readDict ps => Sys2Proof.Machine.execReadDict ps s
  | .go ps => Sys2Proof.Machine.execGo ps s
  | .restart ps => Sys2Proof.Machine.execRestart ps s
  | .define ps => Sys2Proof.Machine.execDefine ps s
  | .forget ps => Sys2Proof.Machine.execForget ps s
  | .flushCacheAll rs => Sys2Proof.Machine.execFlushCacheAll rs s
  | .flushCacheLayer rs => Sys2Proof.Machine.execFlushCacheLayer rs s
  | .flushCacheStroke rs => Sys2Proof.Machine.execFlushCacheStroke rs s
  | .flushCacheStrokeLayer rs => Sys2Proof.Machine.execFlushCacheStrokeLayer rs s
  | .custodyClaim rs => Sys2Proof.Machine.execCustodyClaim rs s
  | .custodyRelease rs => Sys2Proof.Machine.execCustodyRelease rs s
  | .custodyEnterShadow rs => Sys2Proof.Machine.execCustodyEnterShadow rs s
  | .custodyLeaveShadow rs => Sys2Proof.Machine.execCustodyLeaveShadow rs s
  | .custodyHold rs => Sys2Proof.Machine.execCustodyHold rs s
  | .custodyUnhold rs => Sys2Proof.Machine.execCustodyUnhold rs s
  | .pane ps => Sys2Proof.Machine.execPane ps s
  | .readLinesAuto rs => Sys2Proof.Machine.execReadLinesAuto rs s
  | .readLinesPeek rs => Sys2Proof.Machine.execReadLinesPeek rs s
  | .readNotesAuto rs => Sys2Proof.Machine.execReadNotesAuto rs s
  | .readNotesPeek rs => Sys2Proof.Machine.execReadNotesPeek rs s
  | .readStatus ps => Sys2Proof.Machine.execReadStatus ps s
  | .readRoster ps => Sys2Proof.Machine.execReadRoster ps s
  | .readEvent ps => Sys2Proof.Machine.execReadEvent ps s
  | .setMask ps => Sys2Proof.Machine.execSetMask ps s
  | .fenceComplete => Sys2Proof.Machine.execFenceComplete s
  | .startBitSeen atStart => Sys2Proof.Machine.execStartBitSeen atStart s
  | .shortCommandTransaction sent => Sys2Proof.Machine.execShortCommandTransaction sent s

end Sys2Proof.Machine
end

