-- ==== Sys2Proof/WellFormed.lean ====
section
/-! DEFINITION. The commands whose operands the spec admits. -/

namespace Sys2Proof

/-- A contact input, 1 to 28 (R2). -/
def contactOk (n : Nat) : Bool := decide (1 ≤ n) && decide (n ≤ 28)

/-- A roster slot, 0 to 15 (8.1). -/
def slotOk (i : Nat) : Bool := decide (i < 16)

/-- A record line number (00). -/
def lineOk (n : Nat) : Bool := decide (1 ≤ n) && decide (n ≤ 16777215)

/-- A parameter block whose length the two length bytes give (R184). -/
def paramsOk (ps : List Byte) : Bool := decide (ps.length ≤ 65535)

/-- The bytes after the selecting byte of a parameter block. -/
def restOk (rs : List Byte) : Bool := decide (rs.length ≤ 65534)

/-- The first parameter byte, where there is one, is at or above `n`: it selects none of a command's `n` rows. -/
def selectsNone (ps : List Byte) (n : Nat) : Bool :=
  match ps with
  | [] => true
  | b :: _ => decide (n ≤ b.toNat)

/-- A code and parameters that are no other row's (R186): a code above 16, or a selecting byte that names no row (log 5). The code 0
begins a response transaction (R185). -/
def unnamed (code : Byte) (ps : List Byte) : Bool :=
  decide (16 < code.toNat)
  || (decide (code = 8) && selectsNone ps 4)
  || (decide (code = 9) && selectsNone ps 6)
  || ((decide (code = 11) || decide (code = 12)) && selectsNone ps 2)

/-- A command transaction deselected before its code, length and parameter bytes are whole (R184). One whose length is above 264 and that
is cut before so many bytes is among them, and not answered FULL, which is the model's choice (log 42). -/
def isShort (sent : List Byte) : Bool :=
  match sent with
  | [] => false
  | [code] => decide (code ≠ 0)
  | [code, _] => decide (code ≠ 0)
  | code :: lo :: hi :: ps => decide (code ≠ 0) && decide (ps.length < lo.toNat + 256 * hi.toNat)

/-- The operands of a command are those the spec admits. -/
def Instr.wellFormed : Instr → Bool
  | .rawLevelChange n _ => contactOk n
  | .settlingTimerExpiry n => contactOk n
  | .stuckTimerExpiry n => contactOk n
  | .lapseTimerExpiry i => slotOk i
  | .freeTimerExpiry i => slotOk i
  | .gapTimerExpiry n => lineOk n
  | .commandTakeBusy code ps => decide (code ≠ 0) && paramsOk ps
  | .responseRead clocked => decide (1 ≤ clocked)
  | .unknownCommand code ps => unnamed code ps && paramsOk ps
  | .shortCommandTransaction sent => isShort sent
  | .configure ps => paramsOk ps
  | .load ps => paramsOk ps
  | .readDict ps => paramsOk ps
  | .go ps => paramsOk ps
  | .restart ps => paramsOk ps
  | .define ps => paramsOk ps
  | .forget ps => paramsOk ps
  | .pane ps => paramsOk ps
  | .readStatus ps => paramsOk ps
  | .readRoster ps => paramsOk ps
  | .readEvent ps => paramsOk ps
  | .setMask ps => paramsOk ps
  | .flushCacheAll rs => restOk rs
  | .flushCacheLayer rs => restOk rs
  | .flushCacheStroke rs => restOk rs
  | .flushCacheStrokeLayer rs => restOk rs
  | .custodyClaim rs => restOk rs
  | .custodyRelease rs => restOk rs
  | .custodyEnterShadow rs => restOk rs
  | .custodyLeaveShadow rs => restOk rs
  | .custodyHold rs => restOk rs
  | .custodyUnhold rs => restOk rs
  | .readLinesAuto rs => restOk rs
  | .readLinesPeek rs => restOk rs
  | .readNotesAuto rs => restOk rs
  | .readNotesPeek rs => restOk rs
  | _ => true

end Sys2Proof
end

