-- ==== Sys2Proof/Safety.lean ====
section
/-! DEFINITION. What the statements about the part are said with: frames, the host's commands, and the invariants. -/

namespace Sys2Proof

/-! ## The host's commands (11.4) -/

/-- The code and the parameter bytes of a command transaction that takes a command; none for every other row. -/
def Instr.hostCommand : Instr → Option (Byte × List Byte)
  | .unknownCommand code ps => some (code, ps)
  | .configure ps => some (1, ps)
  | .load ps => some (2, ps)
  | .readDict ps => some (3, ps)
  | .go ps => some (4, ps)
  | .restart ps => some (5, ps)
  | .define ps => some (6, ps)
  | .forget ps => some (7, ps)
  | .flushCacheAll rs => some (8, 0 :: rs)
  | .flushCacheLayer rs => some (8, 1 :: rs)
  | .flushCacheStroke rs => some (8, 2 :: rs)
  | .flushCacheStrokeLayer rs => some (8, 3 :: rs)
  | .custodyClaim rs => some (9, 0 :: rs)
  | .custodyRelease rs => some (9, 1 :: rs)
  | .custodyEnterShadow rs => some (9, 2 :: rs)
  | .custodyLeaveShadow rs => some (9, 3 :: rs)
  | .custodyHold rs => some (9, 4 :: rs)
  | .custodyUnhold rs => some (9, 5 :: rs)
  | .pane ps => some (10, ps)
  | .readLinesAuto rs => some (11, 0 :: rs)
  | .readLinesPeek rs => some (11, 1 :: rs)
  | .readNotesAuto rs => some (12, 0 :: rs)
  | .readNotesPeek rs => some (12, 1 :: rs)
  | .readStatus ps => some (13, ps)
  | .readRoster ps => some (14, ps)
  | .readEvent ps => some (15, ps)
  | .setMask ps => some (16, ps)
  | _ => none

end Sys2Proof

namespace Sys2Proof.Machine

/-! ## Frames -/

/-- The parts of the state a frame speaks of: one for each block. `latches` are the event latches, `lcp` the rest of the host port. -/
inductive Part where
  | clock
  | kcu
  | sq
  | notes
  | mem
  | du
  | cache
  | arb
  | te
  | tb
  | lnc
  | pub
  | roster
  | cu
  | vw
  | sp
  | lcp
  | latches
  deriving DecidableEq, Repr

/-- Every part not named in `xs` is the same in `t` as in `s`, and so is the queue of commands. Memory is compared byte by byte. -/
def SameBut (xs : List Part) (s t : State) : Prop :=
  (Part.clock ∉ xs → t.clock = s.clock) ∧ (Part.kcu ∉ xs → t.kcu = s.kcu) ∧ (Part.sq ∉ xs → t.sq = s.sq)
  ∧ (Part.notes ∉ xs → t.notes = s.notes) ∧ (Part.mem ∉ xs → ∀ a, Memory.byteAt t.mem a = Memory.byteAt s.mem a)
  ∧ (Part.du ∉ xs → t.du = s.du) ∧ (Part.cache ∉ xs → t.cache = s.cache) ∧ (Part.arb ∉ xs → t.arb = s.arb)
  ∧ (Part.te ∉ xs → t.te = s.te) ∧ (Part.tb ∉ xs → t.tb = s.tb) ∧ (Part.lnc ∉ xs → t.lnc = s.lnc)
  ∧ (Part.pub ∉ xs → t.pub = s.pub) ∧ (Part.roster ∉ xs → t.roster = s.roster) ∧ (Part.cu ∉ xs → t.cu = s.cu)
  ∧ (Part.vw ∉ xs → t.vw = s.vw) ∧ (Part.sp ∉ xs → t.sp = s.sp)
  ∧ (Part.lcp ∉ xs → { t.lcp with latches := s.lcp.latches } = s.lcp) ∧ (Part.latches ∉ xs → t.lcp.latches = s.lcp.latches)
  ∧ t.pending = s.pending

/-! ## Responses -/

/-- The response is READY with a code and data. -/
def Answers (t : State) (c : ReplyCode) (data : List Byte) : Prop := t.lcp.response = some { code := c.code, data := data }

/-- The command with a code and parameters is in flight. -/
def InFlight (t : State) (code : Byte) (params : List Byte) : Prop := t.lcp.inFlight = some { code := code, params := params }

/-- The response `c` without data and the take are all that is new. -/
def OnlyAnswers (s t : State) (code : Byte) (params : List Byte) (c : ReplyCode) : Prop :=
  t = (s.taking code params).reply c []

/-! ## What an event ends with -/

/-- The slot's choice (R115) and the composition of the panes (R177), where an event ends with both. -/
def State.offered (u : State) : State := (u.choose).compose

/-- The work of the TE's walk side, then the slot's choice and the composition, where an event can move the TE. -/
def State.settled (u : State) : State := (u.teRun).offered

/-- The Publisher `q` is `p` but for the credit (a choice of the slot may bring it up to date, R139). -/
def SameButCredit (p q : Pub) : Prop := q = { p with credit := q.credit, remainder := q.remainder, creditMark := q.creditMark }

/-- The Line Controller `m` is `l` but for the transmit slot. -/
def SameButSlot (l m : Lnc) : Prop := m = { l with slot := m.slot }

/-- The event latch `p` of `t` has taken `e` on top of what it held in `s` (R198). -/
def Latched (s t : State) (p : Nat) (e : Event) : Prop := t.lcp.latch p = some (latchWith e (s.lcp.latch p))

/-- The open region is the rendering of its own lead and units (R88). -/
def Rendered (s : State) : Prop := s.tb.region.render s.cfg.width s.cfg.indent = s.tb.region

/-- The pending buffer as the walk keeps it (R60, R63, R77): at most 8 strokes, fewer in HOLD with no re-walk due, none in IDLE; no
open unit holds more than 8 strokes. -/
def PendingKept (s : State) : Prop :=
  s.te.pendingBuf.length ≤ 8
  ∧ (s.te.phase = .hold → s.te.rewalkDue = false → s.te.pendingBuf.length < 8)
  ∧ (s.te.phase = .idle → s.te.pendingBuf = [])
  ∧ ∀ x ∈ s.tb.region.units, x.strokes.length ≤ 8

/-- The units `us` are an untranslate run of the strokes `vs`: one UNTRANSLATE unit for each stroke, in order (R75). -/
def IsRun (vs : List Stroke) (us : List TextUnit) : Prop :=
  us.map (fun u => (u.kind, u.strokes.map NumStroke.value)) = vs.map fun v => (UnitKind.untranslate, [v])

/-- A line of `w` characters at most that ends in a space only where it holds indent alone (R85, R90). -/
def LineOk (w : Nat) (l : List Byte) : Prop := l.length ≤ w ∧ (l.getLast? = some 32 → ∀ b ∈ l, b = 32)

/-- Reach `n` of `station` opens gaps from `base` (R172): in the 512 numbers up to it, a number whose slot is empty or tagged lower
waits 300 ms for the station; every other number of them, and every number above, stays. -/
def GapsOpened (s t : State) (station base n : Nat) : Prop :=
  (∀ m, max base (n - 511) ≤ m → m ≤ n → t.vw.stateOf m =
      if s.vw.stateOf m = none ∧ s.vw.takes m = true then some (.waiting 0 (s.clock.ms + 300) station) else s.vw.stateOf m)
  ∧ ∀ m, n < m → t.vw.stateOf m = s.vw.stateOf m

/-- The committed ring with a line more: the oldest of 256 leaves first (R95). -/
def ringWith (ring : List CommittedLine) (l : CommittedLine) : List CommittedLine :=
  if ring.length < 256 then ring ++ [l] else ring.drop 1 ++ [l]

/-- The host port after a line has entered `ring`, `next` being the next commit ordinal: the line that leaves a full ring is told by
EXPORT_MISSED where the export cursor has not passed it (R95). -/
def afterRing (l : Lcp) (ring : List CommittedLine) (next : Nat) : Lcp :=
  match ring with
  | [] => l
  | old :: _ =>
    if 256 ≤ ring.length ∧ ordinalSteps l.lineCursor old.ordinal < ordinalSteps l.lineCursor next then
      l.latched (.exportMissed old.ordinal)
    else l

/-- The LINE send queue and its overflow count, `p`, with the entry `e` more: of a full queue the oldest entry that is not in flight
leaves first, and is counted (R131). -/
def lineQueued (inFlight : Bool) (p : List LineEntry × Nat) (e : LineEntry) : List LineEntry × Nat :=
  if p.1.length < 8 then (p.1 ++ [e], p.2)
  else ((if inFlight = true then p.1.take 1 ++ p.1.drop 2 else p.1.drop 1) ++ [e], satSucc p.2)

/-- The Viewer with the node's own RECORD line `n` in its store, and the reach at it while the holder followed is SELF (R168, R171). -/
def Viewer.withOwnLine (v : Viewer) (own n : Nat) (brk : Bool) (text : List Byte) : Viewer :=
  let w := match v.stateOf n with
    | some (.held _ _) => v
    | none => if v.takes n then v.put n (.held brk text) else v
    | _ => v.put n (.held brk text)
  if v.followed = some .self then { w with reach := some (n, own), base := some (w.base.getD (max 1 (n - 31))) } else w

/-- A frame with `n` earlier aborts stays with its source (`kept`) to be tried again, or is dropped at its sixth (`gone`) and counted
(R120). -/
def TriedOrDropped (s t : State) (n : Nat) (kept gone : Prop) : Prop :=
  (n < 5 → kept ∧ t.lnc.txDropped = s.lnc.txDropped) ∧ (5 ≤ n → gone ∧ t.lnc.txDropped = satSucc s.lnc.txDropped)

/-- The entry in service ends with an event, and nothing else is new (R31, R33, R34, R36, R37). -/
def LeavesService (s t : State) (ev : Event) : Prop :=
  SameBut [.du, .latches] s t ∧ t.du = { s.du with work := .idle } ∧ t.lcp = s.lcp.latched ev

/-- PLAN's lookup of `e` goes on as `k`, the `n` bytes from `a` being read next, after the next grant (R25, R32, log 26). -/
def PlanGoesOn (s u : State) (e : DefEntry) (k : Lookup) (path : List PlanStep) (a n : Nat) : Prop :=
  SameBut [.du, .arb] s u ∧ u.du = { s.du with work := .plan e k path }
  ∧ u.arb = s.arb.next.request { cls := .defn, op := .read a n }

/-- PLAN of `e` has met the fault `d`: DICT_FAULT tells it, then the outcome FAULT is told, and the entry leaves service with nothing
written (R26, R32, R36, R37). -/
def PlanFaults (s u : State) (e : DefEntry) (d : FaultKind × Nat) : Prop :=
  SameBut [.du, .arb, .latches] s u ∧ u.arb = s.arb.next ∧ u.du = { s.du with work := .idle }
  ∧ u.lcp = (s.lcp.latched (.dictFault 0 d.1 d.2)).latched
      (if e.source = 0 then .defineResult .fault (e.strokes.headD 0) else .defineReceived .fault e.source)

/-- WRITE of `e` begins: the writes `ws` are to be made, the first is requested; `free` is what is left of the free-cell list and `top`
the heap top (R34, R35, R38). -/
def BeginsWrite (s t : State) (e : DefEntry) (ref : TextRef) (free : List Nat) (top : Option Nat) (ws : List PlannedWrite) : Prop :=
  SameBut [.du, .arb] s t ∧ t.du = { s.du with freeCells := free, heapTop := top, work := .write e ref ws }
  ∧ ∃ w rest, ws = w :: rest ∧ t.arb = s.arb.request { cls := .defn, op := .write w.addr w.bytes }

/-- The heap has room for the text of `e` (R34). -/
def HeapTakes (s : State) (e : DefEntry) : Prop := s.heapTop + e.text.length ≤ s.dir.heapStart + s.dir.heapSize

/-- GO has completed at `t` (R191, R18, R104, R123, R142, R166, R183): the node is ONLINE and GO is answered OK; the Path Cache and the
roster are empty, custody is IDLE; contacts held down are HELD_OVER; the open region is empty with CAP alone, DRAFT from 1; the first
STATION is ready and the beacon timer runs; a viewer has its panes, every row dirty. -/
def GoneOnline (s t : State) : Prop :=
  t.online = true ∧ Answers t .ok [] ∧ t.lcp.config = s.lcp.config
  ∧ (∀ (i : Fin 16) (j : Fin 4), t.cache.sets[i].ways[j] = none)
  ∧ (∀ i, t.roster.slot i = none) ∧ t.roster.refused = s.roster.refused ∧ t.cu = Cu.reset
  ∧ t.kcu = { s.kcu with contacts := t.kcu.contacts }
  ∧ (∀ i : Fin 28, t.kcu.contacts[i] =
      if s.kcu.keyMap[i] ≠ 0 ∧ s.kcu.contacts[i].acceptedDown = true ∧ s.kcu.contacts[i].mark = .none then
        { s.kcu.contacts[i] with mark := .heldOver }
      else s.kcu.contacts[i])
  ∧ t.tb.region = Region.empty { cap := true, lower := false, attach := false, glueLast := false }
  ∧ t.tb.series = .draft ∧ t.tb.nextDraft = 1 ∧ t.tb.nextRecord = none
  ∧ t.pub.stationWaiting = some 0 ∧ t.pub.beaconAt = some (s.clock.ms + 500) ∧ t.pub.ownWeight = 0 ∧ t.pub.share = 0
  ∧ t.pub.muted = false ∧ t.pub.signature = s.cfg.signature
  ∧ t.lnc.silence = 0 ∧ t.lnc.assembly = none
  ∧ (s.cfg.viewer = true → t.vw.paneA = some s.cfg.paneA ∧ t.vw.paneB = some s.cfg.paneB
      ∧ t.sp.dirty = List.range (s.cfg.paneA.rows + s.cfg.paneB.rows))

/-- Both of the TE's requests in flight, where it has them, with their marks changed by `f` (R47, R49). -/
def Te.marked (t : Te) (f : ReqMarks → ReqMarks) : Te :=
  { t with
    walkReq := match t.walkReq with
      | some (.lookup k m) => some (.lookup k (f m))
      | some (.fetch r n got m) => some (.fetch r n got (f m))
      | none => none,
    retr := match t.retr with
      | .fetch h got m => .fetch h got (f m)
      | w => w }

/-- The TE after a fence and the generation raise that follows it: its requests in flight are fence-seen and raise-seen (R47, R49); unless
it is IDLE a re-walk is due, and in HOLD the resolve timer is stopped (R72). -/
def Te.fencedAndRaised (t : Te) : Te :=
  { t.marked fun m => { m with fenceSeen := true, raiseSeen := true } with
    rewalkDue := if t.phase = .idle then t.rewalkDue else true,
    resolveAt := if t.phase = .hold then none else t.resolveAt }

/-- The walk side's lookup `k` with the marks `m` has ended, its layer standing at `p`; one that is raise-seen is discarded (R25, R49). -/
def LookupEnds (s u : State) (k : Lookup) (m : ReqMarks) (p : WalkPos) : Prop :=
  u.arb = s.arb.next
  ∧ u.te = (if m.raiseSeen = true then { s.te with walkReq := none }
            else { s.te with walkReq := none, stepLayer := k.layer + 1, positions := s.te.positions.setIfInBounds k.layer p })

/-- The walk side's lookup goes on as `k`, the `n` bytes from `a` being read next, after the next grant (R25, log 26). -/
def LookupGoesOn (s u : State) (k : Lookup) (m : ReqMarks) (a n : Nat) : Prop :=
  SameBut [.te, .arb] s u ∧ u.te = { s.te with walkReq := some (.lookup k m) }
  ∧ u.arb = s.arb.next.request { cls := .walk, op := .read a n }

/-- The walk side's lookup has met the fault `kind` at `a`: DICT_FAULT tells it, and the layer in hand is OFF; one that is raise-seen is
discarded, its fault told all the same (R26, R49). -/
def LookupFaults (s u : State) (m : ReqMarks) (kind : FaultKind) (a : Nat) : Prop :=
  SameBut [.te, .arb, .latches] s u ∧ u.arb = s.arb.next ∧ u.lcp = s.lcp.latched (.dictFault s.te.stepLayer kind a)
  ∧ u.te = (if m.raiseSeen = true then { s.te with walkReq := none }
            else { s.te with walkReq := none, stepLayer := s.te.stepLayer + 1,
                             positions := s.te.positions.setIfInBounds s.te.stepLayer .off })

/-- The FLUSH_CACHE `c` applies the fence `f` and raises the generation, is answered OK, and the event's end follows (R48). -/
def Fences (s : State) (c : Instr) (f : FenceScope) : Prop :=
  ∃ u ps, c.hostCommand = some (8, ps) ∧ exec c s = .next u.settled ∧ SameBut [.lcp, .cache, .te, .du] s u
    ∧ u.cache = s.cache.fence f ∧ u.te = s.te.fencedAndRaised ∧ u.du = { s.du with generation := s.du.generation + 1 }
    ∧ InFlight u 8 ps ∧ Answers u .ok []

/-! ## Custody, share and the followed holder -/

/-- The weight, the weight sum, the share and the MUTED flag are those of the present custody state, roster and configuration (R136 to
R138). -/
def Weighed (t : State) : Prop :=
  t.pub.ownWeight = t.cu.state.weight ∧ t.pub.weightSum = t.weightSumFor t.cu.state.weight
  ∧ t.pub.share = t.shareFor t.cu.state.weight ∧ t.pub.muted = t.mutedFor t.cu.state.weight

/-- The Viewer follows the holder chosen at `t`, a change since `s` being told; where it has become SELF the reach is the node's own
(R169, R171). -/
def Refollowed (s t : State) : Prop :=
  (t.online = true → t.cfg.viewer = true → t.vw.followed = t.followChoice)
  ∧ (t.vw.followed ≠ s.vw.followed → Latched s t 12 (.followChanged (t.followStation t.vw.followed))
      ∧ (t.vw.followed = some .self → t.vw.reach = some (t.tb.committedThrough, s.own)))
  ∧ (t.vw.followed = s.vw.followed → t.vw.reach = s.vw.reach)

/-- What a change of the roster may end with (R147): `station` leaves the claim list in GATHERING, an empty list making the node
ON_RECORD again (R158); the share is recomputed (R138) and the followed holder chosen anew (R169). -/
def ToldLeft (s t : State) (station : Nat) : Prop :=
  ((s.cu.handOver ≠ .gathering ∨ ∀ x ∈ s.cu.claims, x.station ≠ station) → t.cu = s.cu)
  ∧ (s.cu.handOver = .gathering → (∃ x ∈ s.cu.claims, x.station = station) → ∀ left,
      left = s.cu.claims.filter (fun x => decide (x.station ≠ station)) →
      (left ≠ [] → t.cu = { s.cu with claims := left })
      ∧ (left = [] → t.cu = { s.cu with claims := [], settleAt := none, handOver := .none, state := .onRecord }
          ∧ t.pub.stationWaiting = some 0))
  ∧ Weighed t ∧ Refollowed s t

/-! ## Invariants -/

/-- The dirty set stands in rising order, without repeats: its head is the lowest row (R181, R182). -/
def DirtyRising (s : State) : Prop := s.sp.dirty.Pairwise (· < ·)

/-- The bounds the spec gives the queues, lists and counts of the blocks. -/
def Bounded (s : State) : Prop :=
  s.sq.records.length ≤ 32 ∧ s.notes.entries.length ≤ 8192 ∧ s.notes.unexported ≤ s.notes.entries.length
  ∧ s.du.queue.length ≤ 8 ∧ s.te.handings.length ≤ 8
  ∧ s.tb.ring.length ≤ 256 ∧ s.lnc.queue.length ≤ 8 ∧ s.pub.lineQueue.length ≤ 8 ∧ s.pub.answers.length ≤ 32
  ∧ s.pub.defines.length ≤ 8 ∧ s.pub.credit ≤ 800 ∧ s.cu.claims.length ≤ 4 ∧ s.vw.asks.length ≤ 4
  ∧ ((s.lnc.custodyList.drop 1).map CustodyFrame.kind).Nodup

/-- The custody state, the series in force, the hand-over and the two custody timers agree (8.3, R96, R150). -/
def Coherent (s : State) : Prop :=
  (s.tb.series = .record ↔ s.cu.state.holds = true)
  ∧ (s.cu.handOver ≠ .none ↔ s.cu.state = .releasing)
  ∧ (s.cu.claimAt.isSome = true → s.cu.state = .claiming)
  ∧ (s.cu.settleAt.isSome = true → s.cu.handOver = .gathering)
  ∧ (∀ p, s.cu.prior = some p → p = .idle ∨ p = .shadow)

/-- The work of a GO is in hand. -/
def DuWork.isGo : DuWork → Bool
  | .goDirectory _ => true
  | .goScan _ => true
  | .goCounts _ => true
  | _ => false

/-- A command is in flight exactly while one thing is owed for it: a response to be read, EXPORT operations, or the work of GO
(R185). -/
def PortCoherent (s : State) : Prop :=
  s.lcp.response.isSome.toNat + s.lcp.job.isSome.toNat + s.du.work.isGo.toNat = s.lcp.inFlight.isSome.toNat

end Sys2Proof.Machine
end

