-- ==== Sys2Proof/Certificates/Slice0/Obligations.lean ====
section
/-! DEFINITION. The statements about the KT620, for the provers, one `def Obligations.<Name> : Prop` each, in the order of
OBLIGATIONS.json. -/

open Sys2Proof Sys2Proof.Machine

/-! ## The machine as a whole -/

/-- With the command `c` at the front of the queue, a step is `exec c` on the state with the queue's rest. -/
def Obligations.AStepRunsTheFrontCommand : Prop :=
  ∀ (c : Instr) (rest : List Instr) (s : State), step (s.setPending (c :: rest)) = exec c (s.setPending rest)

/-- With no command waiting, a step is one character time of 44 µs (the model's choice, log 2): the clocks, the line's silence and the
row send go on, and nothing else changes. -/
def Obligations.AnIdleStepIsOneCharacterTime : Prop :=
  ∀ s : State, s.pending = [] → s.clock.us < 1000 →
    ∃ t, step s = .next t ∧ SameBut [.clock, .lnc, .sp] s t
      ∧ t.clock.chars = s.clock.chars + 1
      ∧ 1000 * (t.clock.ms - s.clock.ms).toNat + t.clock.us = s.clock.us + 44 ∧ t.clock.us < 1000
      ∧ t.lnc = { s.lnc with silence := t.lnc.silence, quiet := t.lnc.quiet }
      ∧ t.lnc.silence = (if s.lnc.busySince = none then s.lnc.silence + 1 else s.lnc.silence)
      ∧ t.sp = { s.sp with send := t.sp.send }

/-- Every command, in every state, answers a next state, and leaves the queue of waiting commands as it is; a step takes at most the
front command from it. -/
def Obligations.EveryCommandCompletes : Prop :=
  (∀ (c : Instr) (s : State), ∃ t, exec c s = .next t ∧ t.pending = s.pending)
  ∧ ∀ s : State, ∃ t, step s = .next t ∧ t.pending = s.pending.tail

/-- FULL_RESET (R16): START, every block at its reset values, the contacts that are physically down settling anew (log 7), an input at
the start level that the node's own driver does not hold still making the line busy (log 18), and the dictionary memory kept: a write in
service is served to its end at the RESET pin, and is not served at power-up (log 8). -/
def Obligations.FullResetLeavesTheResetState : Prop :=
  ∀ (src : ResetSource) (s : State), s.mem.wf = true →
    ∃ t, exec (.fullReset src) s = .next t
      ∧ t.online = false ∧ t.lcp = Lcp.reset ∧ t.attn = false
      ∧ t.clock = { ms := 0, us := 0, chars := 0 }
      ∧ t.kcu.nextStroke = 1 ∧ t.kcu.exhausted = false ∧ t.kcu.grazes = 0 ∧ t.kcu.chord = none ∧ t.kcu.keyMap = defaultKeyMap
      ∧ t.kcu.debounce = 5 ∧ t.kcu.graze = 12 ∧ t.kcu.stuckLimit = 4
      ∧ (∀ i : Fin 28, t.kcu.contacts[i] =
          { rawDown := s.kcu.contacts[i].rawDown, acceptedDown := false, mark := .none, stuckAt := none,
            settleAt := if s.kcu.contacts[i].rawDown then some 5 else none })
      ∧ t.sq = StrokeQueue.reset ∧ t.notes = NotesLog.reset ∧ t.du = Du.reset ∧ t.cache = Cache.reset ∧ t.arb = Arbiter.reset
      ∧ t.te = Te.reset ∧ t.tb = Tb.reset ∧ t.pub = Pub.reset
      ∧ t.lnc = { Lnc.reset with busySince := if s.lnc.driver = true then none else s.lnc.busySince.map fun _ => 0,
                                 held := s.lnc.held && !s.lnc.driver }
      ∧ t.roster = Roster.reset ∧ t.cu = Cu.reset ∧ t.vw = Viewer.reset
      ∧ t.sp = { rows := [], dirty := [], send := none, busyPin := s.sp.busyPin }
      ∧ (src = .powerUp → t.mem = s.mem)
      ∧ (src = .pin → ∀ r, s.arb.inService = some r → ∀ a n bs, a + bs.length ≤ memSize →
          (r.op = .read a n → t.mem = s.mem)
          ∧ (r.op = .write a bs → ∀ b, Memory.byteAt t.mem b =
              if a ≤ b ∧ b < a + bs.length then bs.getD (b - a) 0 else Memory.byteAt s.mem b))
      ∧ (src = .pin → s.arb.inService = none → t.mem = s.mem)

/-- The machine right after reset meets every invariant. It lists no byte of memory (the model's choice, log 1), and its queue of
commands is empty (the model's own field, log 5). -/
def Obligations.ResetMeetsTheInvariants : Prop :=
  State.reset.mem = [] ∧ State.reset.mem.wf = true ∧ Bounded State.reset ∧ Coherent State.reset ∧ PortCoherent State.reset
  ∧ DirtyRising State.reset ∧ State.reset.pending = []

/-- Every step keeps the canonical form of dictionary memory. -/
def Obligations.MemoryKeepsItsForm : Prop :=
  ∀ s t : State, s.mem.wf = true → step s = .next t → t.mem.wf = true

/-- Every step keeps the bounds of the queues, lists and counts: the Stroke Queue at 32 records (R10), the Notes Log at 8,192 with no more
entries unexported than it holds (R12), the definition queue at 8 (R29), the retranslation list at 8 (R74), the ring at 256 lines (R95),
the receive queue at 8 (R111), at most one waiting frame of a kind behind the first of the custody list (R116), the LINE send queue at 8
(R131), the answer set at 32 (R132), the define send list at 8 (R134), the credit at 800 (R139), the claim list at 4 (R157), the ASK list
at 4 (R174). -/
def Obligations.BoundsAreKept : Prop :=
  ∀ s t : State, Bounded s → step s = .next t → Bounded t

/-- Every step keeps the agreement of custody state, series in force, hand-over and custody timers. -/
def Obligations.CustodyStaysCoherent : Prop :=
  ∀ s t : State, Coherent s → step s = .next t → Coherent t

/-- Every step keeps the host port coherent: a command is in flight exactly while a response, EXPORT operations or the work of GO are
owed for it. -/
def Obligations.PortStaysCoherent : Prop :=
  ∀ s t : State, PortCoherent s → step s = .next t → PortCoherent t

/-- A host transaction's command code and parameters are those of exactly one row: every code but 0 with at most 65,535 parameter bytes
is one well-formed command, and no two commands share them. That the row follows the selecting byte of the parameters, and that a
selecting byte that names no row makes the row UNKNOWN_COMMAND, is the model's choice (log 5). -/
def Obligations.EveryTransactionIsOneRow : Prop :=
  (∀ (code : Byte) (ps : List Byte), code ≠ 0 → ps.length ≤ 65535 →
    ∃ i : Instr, i.wellFormed = true ∧ i.hostCommand = some (code, ps))
  ∧ ∀ (i j : Instr) (x : Byte × List Byte), i.wellFormed = true → j.wellFormed = true → i.hostCommand = some x →
      j.hostCommand = some x → i = j

/-! ## Rules of single operations -/

/-- R23: the fold and the bucket. R43: the Path Cache set that the same fold chooses. -/
def Obligations.TheBucketIsTheFoldModulo : Prop :=
  (∀ v : Stroke, fold v = v.toNat ^^^ (v.toNat / 2048))
  ∧ (∀ (v : Stroke) (b : Nat), bucketOf v b = fold v % 2 ^ b)
  ∧ (∀ v : Stroke, bucketOf v 0 = 0)
  ∧ ∀ (v : Stroke) (t : Nat), cacheSetOf v t = (fold v + t / 8) % 16

/-- A frame as its sender drives it, heading first with its flag and the two sums last, assembles at a receiver to that same frame, and
its check passes (R106 to R108): for every body of 1 to 360 bytes that is not below its kind's minimum. -/
def Obligations.AFrameSentIsTheFrameReceived : Prop :=
  ∀ f : Frame, f.kind.minBody ≤ f.body.length → f.body.length ≤ 360 →
    ∃ rest, f.chars = (true, f.heading) :: rest ∧ (∀ c ∈ rest, c.1 = false)
      ∧ (rest.foldl (fun a c => a.join c.2 false) (Assembly.start f.heading false false)).verdict = .good f

/-- R53 and R54: an idle port grants a request at once; in any other state it joins the stacked set. At the end of the operation in
service the first batch member is granted; with the batch empty the stacked set becomes the batch; with both empty the port is idle. -/
def Obligations.TheArbiterServesBatches : Prop :=
  (∀ (a : Arbiter) (r : Request), a.inService = none → a.batch = [] → a.request r = { a with inService := some r })
  ∧ (∀ (a : Arbiter) (r : Request), (a.inService ≠ none ∨ a.batch ≠ []) →
      (a.request r).inService = a.inService ∧ (a.request r).batch = a.batch
      ∧ (a.request r).stacked.Perm (r :: a.stacked)
      ∧ (a.stacked.Pairwise (fun x y => x.cls.priority ≤ y.cls.priority) →
          (a.request r).stacked.Pairwise fun x y => x.cls.priority ≤ y.cls.priority))
  ∧ (∀ (a : Arbiter) (r : Request) (rest : List Request), a.batch = r :: rest →
      a.next = { a with inService := some r, batch := rest })
  ∧ (∀ (a : Arbiter) (r : Request) (rest : List Request), a.batch = [] → a.stacked = r :: rest →
      a.next = { inService := some r, batch := rest, stacked := [] })
  ∧ ∀ a : Arbiter, a.batch = [] → a.stacked = [] → a.next = { inService := none, batch := [], stacked := [] }

/-- A fence takes from every way of the Path Cache the entry its scope removes, and no other (R47): a LAYER fence spares the FIXED
entries, a STROKE+LAYER fence does not. The set of a key is that of its stroke and table (R43). A tree step is a hit where a way of its
set holds the key; the hit counts and makes that way the most recent (R44). A fill goes to the way that holds the key, else to the lowest
empty way, else to the least recent one, which becomes the most recent (R45). -/
def Obligations.AFenceRemovesItsScope : Prop :=
  (∀ (c : Cache) (f : FenceScope) (i : Fin 16) (w : Fin 4),
    (c.fence f).hits = c.hits ∧ (c.fence f).misses = c.misses
    ∧ (c.sets[i].ways[w] = none → (c.fence f).sets[i].ways[w] = none)
    ∧ ∀ e, c.sets[i].ways[w] = some e →
        (c.fence f).sets[i].ways[w] =
          (match f with
           | .all => none
           | .layer l => if e.layer = l ∧ e.content.fixed = false then none else some e
           | .stroke v => if e.stroke = v then none else some e
           | .strokeLayer v l => if e.stroke = v ∧ e.layer = l then none else some e))
  ∧ (∀ (c : Cache) (l t : Nat) (v : Stroke) (x : CacheSet), c.sets[cacheSetOf v t]? = some x →
    (c.lookup l t v = none ↔ ∀ (w : Fin 4) (e : CacheEntry), x.ways[w] = some e → ¬ (e.layer = l ∧ e.table = t ∧ e.stroke = v))
    ∧ ∀ r, c.lookup l t v = some r → ∃ (w : Fin 4) (e : CacheEntry), x.ways[w] = some e ∧ e.layer = l ∧ e.table = t ∧ e.stroke = v
        ∧ e.content = r
        ∧ c.hit l t v = { c with
            hits := satSucc c.hits,
            sets := c.sets.setIfInBounds (cacheSetOf v t)
              { x with recency := w :: x.recency.filter fun j => decide (j ≠ w) } })
  ∧ ∀ (c : Cache) (e : CacheEntry) (x : CacheSet) (held : Nat → Prop) (w : Fin 4), c.sets[cacheSetOf e.stroke e.table]? = some x →
    (∀ j : Nat, held j ↔ ∃ o, x.ways[j]? = some (some o) ∧ o.layer = e.layer ∧ o.table = e.table ∧ o.stroke = e.stroke) →
    ((held w ∧ ∀ j, j < w.val → ¬ held j)
      ∨ ((∀ j, ¬ held j) ∧ x.ways[w] = none ∧ ∀ j : Nat, j < w.val → x.ways[j]? ≠ some none)
      ∨ ((∀ j, ¬ held j) ∧ (∀ j : Nat, x.ways[j]? ≠ some none) ∧ x.recency.getLast? = some w.val)) →
    c.fill e = { c with
      sets := c.sets.setIfInBounds (cacheSetOf e.stroke e.table)
        { ways := x.ways.setIfInBounds w (some e), recency := w :: x.recency.filter fun j => decide (j ≠ w) } }

/-- The weight of each custody state, and the weight sum in the two share modes (R136); the share in permille and the MUTED flag
(R137). A recomputation (R138): the credit is brought up to date, the new weight, sum, share and flag are taken, and an entry from weight
0 has the full credit; a change of the flag readies a STATION; TAILs no longer allowed lose their waiting image and refresh timer, and
where the flag is cleared an image is built and the timer runs (R127 to R129). -/
def Obligations.WeightsGiveTheShare : Prop :=
  CustodyState.onRecord.weight = 8 ∧ CustodyState.releasing.weight = 8 ∧ CustodyState.shadow.weight = 2
  ∧ CustodyState.claiming.weight = 2 ∧ CustodyState.idle.weight = 0
  ∧ (∀ (s : State) (own : Nat), s.cfg.shareMode = .dynamic →
      s.weightSumFor own = own + (s.roster.slots.toList.map fun x => match x with
        | some q => if q.state = .admitted then q.custody.weight else 0
        | none => 0).sum)
  ∧ (∀ (s : State) (own : Nat), s.cfg.shareMode = .static → s.weightSumFor own = 8 + 2 * s.cfg.shadowAllowance)
  ∧ (∀ (s : State) (own : Nat), s.shareFor own = if own = 0 then 0 else s.cfg.pool * own / s.weightSumFor own)
  ∧ (∀ (s : State) (own : Nat), s.mutedFor own = true ↔ 0 < own ∧ s.shareFor own < 50)
  ∧ ∀ (s : State) (own : Nat) (upd : Nat × Nat), own = s.cu.state.weight →
      upd = creditAfter s.pub.credit s.pub.remainder s.pub.share (s.clock.chars - s.pub.creditMark) →
      SameBut [.pub] s s.reshare
      ∧ s.reshare.pub =
          { s.pub with
            ownWeight := own, weightSum := s.weightSumFor own, share := s.shareFor own, muted := s.mutedFor own,
            credit := if s.pub.ownWeight = 0 ∧ 0 < own then 800 else upd.1,
            remainder := if s.pub.ownWeight = 0 ∧ 0 < own then 0 else upd.2,
            creditMark := s.clock.chars,
            stationWaiting := if s.mutedFor own = s.pub.muted then s.pub.stationWaiting else some 0,
            tailWaiting :=
              if own = 0 ∨ s.mutedFor own = true ∨ s.cu.conflict = true then none
              else if s.pub.muted = true then
                some { series := s.tb.series, custody := s.cu.state, committed := s.tb.committedThrough,
                       firstOpen := s.tb.firstOpen, lines := s.tb.region.lines, attempts := 0 }
              else s.pub.tailWaiting,
            refreshAt :=
              if own = 0 ∨ s.mutedFor own = true ∨ s.cu.conflict = true then none
              else if s.pub.muted = true then some (s.clock.ms + 2000)
              else s.pub.refreshAt }

/-- R198: a clear latch takes the event with its detail and count 1; a pending one counts to 255 and keeps its detail; the mask is not
asked, and no other latch changes. -/
def Obligations.ALatchKeepsTheFirstDetail : Prop :=
  ∀ (s : State) (e : Event),
    1 ≤ e.priority ∧ e.priority ≤ 16
    ∧ (s.lcp.latch e.priority = none → (s.latch e).lcp.latch e.priority = some { event := e, count := 1 })
    ∧ (∀ x, s.lcp.latch e.priority = some x → x.count ≤ 255 →
        (s.latch e).lcp.latch e.priority = some { event := x.event, count := min 255 (x.count + 1) })
    ∧ (∀ p, 1 ≤ p → p ≤ 16 → p ≠ e.priority → (s.latch e).lcp.latch p = s.lcp.latch p)
    ∧ (s.latch e).lcp.mask = s.lcp.mask
    ∧ SameBut [.latches] s (s.latch e)

/-- R200: ATTN is active exactly while some event is pending with its mask enable set; after a full reset it is inactive. -/
def Obligations.AttnShowsAPendingEnabledEvent : Prop :=
  (∀ s : State, s.attn = true ↔ ∃ p, 1 ≤ p ∧ p ≤ 16 ∧ s.lcp.latch p ≠ none ∧ s.lcp.mask.getLsbD (p - 1) = true)
  ∧ ∀ (src : ResetSource) (s : State), ∃ t, exec (.fullReset src) s = .next t ∧ t.attn = false ∧ ∀ p, t.lcp.latch p = none

/-! ## Stroke capture -/

/-- RAW_LEVEL_CHANGE (R2): the pin takes its level; a level that differs from the accepted one starts the settling timer, one that
returns to it cancels the timer; every other contact and all else stays. -/
def Obligations.ARawLevelChangeStartsOrEndsSettling : Prop :=
  ∀ (n : Nat) (down : Bool) (s : State) (c : Contact), contactOk n = true → s.kcu.contact n = some c →
    ∃ t, exec (.rawLevelChange n down) s = .next t ∧ SameBut [.kcu] s t
      ∧ t.kcu = { s.kcu with contacts := t.kcu.contacts } ∧ (∀ m, m ≠ n → t.kcu.contact m = s.kcu.contact m)
      ∧ t.kcu.contact n =
          some (if c.rawDown = down then c
                else { c with rawDown := down,
                              settleAt := if down = c.acceptedDown then none
                                          else some (s.clock.ms + BitVec.ofNat 32 s.kcu.debounce) })

/-- SETTLING_TIMER_EXPIRY of a contact whose pin is down (R2, R4, R5, R7): an accepted down at the expiry; the stuck timer starts on a
mapped contact; a live one adds its key to the open chord, or opens a chord ONLINE at a writer with numbers left. The reading taken is
that of the expiry, or the present one where the row comes late (the model's choice, log 3). -/
def Obligations.AnAcceptedDownOpensOrJoinsTheChord : Prop :=
  ∀ (n : Nat) (s : State) (c : Contact) (e : Ms), contactOk n = true → s.kcu.contact n = some c → c.settleAt = some e →
    c.rawDown = true →
    ∃ t, exec (.settlingTimerExpiry n) s = .next t ∧ SameBut [.kcu] (s.reachMs e) t
      ∧ t.kcu = { s.kcu with contacts := t.kcu.contacts, chord := t.kcu.chord }
      ∧ (∀ m, m ≠ n → t.kcu.contact m = s.kcu.contact m)
      ∧ t.kcu.contact n =
          some { c with acceptedDown := true, settleAt := none,
                        stuckAt := if s.kcu.keyOf n = 0 then none
                                   else some (t.clock.ms + BitVec.ofNat 32 (1000 * s.kcu.stuckLimit)) }
      ∧ t.kcu.chord =
          (if s.kcu.keyOf n = 0 ∨ c.mark ≠ .none then s.kcu.chord
           else match s.kcu.chord with
             | some ch => some { ch with keys := ch.keys ||| keyBit (s.kcu.keyOf n) }
             | none =>
               if s.online = true ∧ s.cfg.writer = true ∧ s.kcu.exhausted = false then
                 some { keys := keyBit (s.kcu.keyOf n), openTime := t.clock.ms }
               else none)

/-- SETTLING_TIMER_EXPIRY of a contact whose pin is up (R2, R5, R6, R8, R9): an accepted up clears its mark and stuck timer; where it was
the last live contact of an open chord the chord closes: below the graze limit a graze is counted, otherwise a numbered stroke is
handed to the Stroke Queue and the Notes Log. The reading taken is that of the expiry, or the present one where the row comes late (the
model's choice, log 3). -/
def Obligations.AnAcceptedUpClosesTheChord : Prop :=
  ∀ (n : Nat) (s : State) (c : Contact) (e : Ms), contactOk n = true → s.kcu.contact n = some c → c.settleAt = some e →
    c.rawDown = false →
    ∃ t, exec (.settlingTimerExpiry n) s = .next t ∧ SameBut [.kcu, .sq, .notes, .latches] (s.reachMs e) t
      ∧ (∀ m, m ≠ n → t.kcu.contact m = s.kcu.contact m)
      ∧ t.kcu.contact n = some { c with acceptedDown := false, settleAt := none, mark := .none, stuckAt := none }
      ∧ t.kcu = { s.kcu with contacts := t.kcu.contacts, chord := t.kcu.chord, nextStroke := t.kcu.nextStroke,
                             exhausted := t.kcu.exhausted, grazes := t.kcu.grazes }
      ∧ (∀ ch, s.kcu.chord = some ch → s.kcu.live n = true → (∀ m, 1 ≤ m → m ≤ 28 → m ≠ n → s.kcu.live m = false) →
          t.kcu.chord = none
          ∧ ((t.clock.ms - ch.openTime).toNat < s.kcu.graze →
              t.kcu.grazes = satSucc s.kcu.grazes ∧ t.kcu.nextStroke = s.kcu.nextStroke ∧ t.sq = s.sq ∧ t.notes = s.notes
              ∧ t.lcp = s.lcp)
          ∧ (s.kcu.graze ≤ (t.clock.ms - ch.openTime).toNat → ∃ r : StrokeRecord,
              r = { number := s.kcu.nextStroke, value := ch.keys, openTime := ch.openTime, closeTime := t.clock.ms,
                    notTranslated := false, afterDrop := false }
              ∧ t.kcu.grazes = s.kcu.grazes ∧ t.sq = s.sq.take r ∧ t.notes = s.notes.take (s.sq.noteCopy r)
              ∧ (s.kcu.nextStroke < 4294967295 → t.kcu.nextStroke = s.kcu.nextStroke + 1 ∧ t.kcu.exhausted = s.kcu.exhausted)
              ∧ (4294967295 ≤ s.kcu.nextStroke → t.kcu.nextStroke = s.kcu.nextStroke ∧ t.kcu.exhausted = true)))
      ∧ ((s.kcu.chord = none ∨ s.kcu.live n = false ∨ ∃ m, 1 ≤ m ∧ m ≤ 28 ∧ m ≠ n ∧ s.kcu.live m = true) →
          t.kcu = { s.kcu with contacts := t.kcu.contacts } ∧ t.sq = s.sq ∧ t.notes = s.notes ∧ t.lcp = s.lcp)

/-- A stroke record handed on (R9 to R13): a queue below 32 takes it, with AFTER_DROP where strokes were refused before it; a full one
counts and marks the drop, and the notes copy says NOT_TRANSLATED. A log with a free or exported place takes the copy, NOTES_NEAR at
7,168 unexported entries; otherwise the notes-lost count rises with NOTES_FULL. -/
def Obligations.AStrokeReachesQueueAndLog : Prop :=
  ∀ (s : State) (r : StrokeRecord),
    SameBut [.sq, .notes, .latches] s (s.handOn r)
    ∧ (s.sq.records.length < 32 →
        (s.handOn r).sq = { s.sq with records := s.sq.records ++ [{ r with afterDrop := s.sq.dropPending }], dropPending := false })
    ∧ (32 ≤ s.sq.records.length → (s.handOn r).sq = { s.sq with dropped := s.sq.dropped + 1, dropPending := true })
    ∧ ∃ copy : StrokeRecord,
        copy = (if s.sq.records.length < 32 then { r with afterDrop := s.sq.dropPending } else { r with notTranslated := true })
        ∧ (s.notes.entries.length < 8192 →
            (s.handOn r).notes = { s.notes with entries := s.notes.entries ++ [copy], unexported := s.notes.unexported + 1 })
        ∧ (8192 ≤ s.notes.entries.length → s.notes.unexported < 8192 →
            (s.handOn r).notes = { s.notes with entries := s.notes.entries.drop 1 ++ [copy], unexported := s.notes.unexported + 1 })
        ∧ (8192 ≤ s.notes.entries.length → 8192 ≤ s.notes.unexported →
            (s.handOn r).notes = { s.notes with lost := s.notes.lost + 1 } ∧ Latched s (s.handOn r) 6 (.notesFull r.number)
            ∧ (s.handOn r).lcp.latch 7 = s.lcp.latch 7)
        ∧ ((s.notes.entries.length < 8192 ∨ s.notes.unexported < 8192) → s.notes.unexported = 7167 →
            Latched s (s.handOn r) 7 (.notesNear 7168) ∧ (s.handOn r).lcp.latch 6 = s.lcp.latch 6)
        ∧ ((s.notes.entries.length < 8192 ∨ s.notes.unexported < 8192) → s.notes.unexported ≠ 7167 → (s.handOn r).lcp = s.lcp)

/-- STUCK_TIMER_EXPIRY (R5 to R7, R9): the contact is marked STUCK and KEY_STUCK is latched with the contact and its key. With no chord
open, or another contact live, nothing else changes. An open chord with no other live contact closes: below the graze limit a graze is
counted and no number is used; otherwise a stroke of the next number is handed to the Stroke Queue and the Notes Log, and the number
rises, or the numbering is exhausted at 4,294,967,295. The reading taken is that of the expiry, or the present one where the row comes
late (the model's choice, log 3). -/
def Obligations.AStuckExpiryMarksTheContact : Prop :=
  ∀ (n : Nat) (s : State) (c : Contact) (e : Ms), contactOk n = true → s.kcu.contact n = some c → c.stuckAt = some e →
    ∃ t, exec (.stuckTimerExpiry n) s = .next t ∧ SameBut [.kcu, .sq, .notes, .latches] (s.reachMs e) t
      ∧ (∀ m, m ≠ n → t.kcu.contact m = s.kcu.contact m)
      ∧ t.kcu.contact n = some { c with mark := .stuck, stuckAt := none }
      ∧ t.kcu = { s.kcu with contacts := t.kcu.contacts, chord := t.kcu.chord, nextStroke := t.kcu.nextStroke,
                             exhausted := t.kcu.exhausted, grazes := t.kcu.grazes }
      ∧ Latched s t 8 (.keyStuck n (s.kcu.keyOf n))
      ∧ ((s.kcu.chord = none ∨ ∃ m, 1 ≤ m ∧ m ≤ 28 ∧ m ≠ n ∧ s.kcu.live m = true) →
          t.kcu = { s.kcu with contacts := t.kcu.contacts } ∧ t.sq = s.sq ∧ t.notes = s.notes
          ∧ t.lcp = s.lcp.latched (.keyStuck n (s.kcu.keyOf n)))
      ∧ ((∀ m, 1 ≤ m → m ≤ 28 → m ≠ n → s.kcu.live m = false) → ∀ ch, s.kcu.chord = some ch →
          t.kcu.chord = none
          ∧ ((t.clock.ms - ch.openTime).toNat < s.kcu.graze →
              t.kcu.grazes = satSucc s.kcu.grazes ∧ t.kcu.nextStroke = s.kcu.nextStroke ∧ t.kcu.exhausted = s.kcu.exhausted
              ∧ t.sq = s.sq ∧ t.notes = s.notes ∧ t.lcp = s.lcp.latched (.keyStuck n (s.kcu.keyOf n)))
          ∧ (s.kcu.graze ≤ (t.clock.ms - ch.openTime).toNat → ∃ r : StrokeRecord,
              r = { number := s.kcu.nextStroke, value := ch.keys, openTime := ch.openTime, closeTime := t.clock.ms,
                    notTranslated := false, afterDrop := false }
              ∧ t.kcu.grazes = s.kcu.grazes ∧ t.sq = s.sq.take r ∧ t.notes = s.notes.take (s.sq.noteCopy r)
              ∧ (s.kcu.nextStroke < 4294967295 → t.kcu.nextStroke = s.kcu.nextStroke + 1 ∧ t.kcu.exhausted = s.kcu.exhausted)
              ∧ (4294967295 ≤ s.kcu.nextStroke → t.kcu.nextStroke = s.kcu.nextStroke ∧ t.kcu.exhausted = true)))

/-! ## Translation -/

/-- TAKE_STROKE (R60, R66): while the TE is free the oldest record leaves the queue, the resolve timer is cancelled, and an ordinary stroke
joins the pending buffer and is stepped; one with AFTER_DROP is held in hand until pending strokes before it are resolved, and with none
pending it joins the buffer behind an emitted DROP unit. The TE's work goes on from there. While the TE is not free, or with no record,
nothing changes (log 4). TAKE_STROKE of the undo stroke (R67, R91): the newest pending stroke is taken back and what is left is walked
again; with nothing pending, the newest open unit goes (not a DROP), the region is rendered from the units left, and the unit's strokes
but the last are pending again; with none to undo, the late-undo count rises. The undo stroke itself is consumed. An undo stroke with
AFTER_DROP and nothing pending finds the DROP unit just emitted, and is late. -/
def Obligations.TakeStrokeMovesTheOldestRecord : Prop :=
  ((∀ (s : State) (r : StrokeRecord) (rest : List StrokeRecord), s.sq.records = r :: rest → s.te.free = true →
    r.value ≠ s.cfg.undoStroke → r.afterDrop = false →
    ∃ u, exec .takeStroke s = .next u.settled ∧ SameBut [.sq, .te] s u ∧ u.sq = { s.sq with records := rest }
      ∧ u.te = { s.te with resolveAt := none, taken := s.te.taken + 1, phase := .step, stepLayer := 0,
                           pendingBuf := s.te.pendingBuf ++ [{ number := r.number, value := r.value }] })
  ∧ (∀ (s : State) (r : StrokeRecord) (rest : List StrokeRecord), s.sq.records = r :: rest → s.te.free = true →
    r.afterDrop = true → s.te.pendingBuf ≠ [] →
    ∃ u, exec .takeStroke s = .next u.settled ∧ SameBut [.sq, .te] s u ∧ u.sq = { s.sq with records := rest }
      ∧ u.te = { s.te with resolveAt := none, inHand := some r, demand := .all })
  ∧ (∀ (s : State) (r : StrokeRecord) (rest : List StrokeRecord), s.sq.records = r :: rest → s.te.free = true →
    r.afterDrop = true → s.te.pendingBuf = [] → r.value ≠ s.cfg.undoStroke →
    ∃ u, exec .takeStroke s = .next u.settled ∧ SameBut [.sq, .te, .tb, .pub, .vw, .latches] s u
      ∧ u.sq = { s.sq with records := rest }
      ∧ u.tb = (((s.setSq { s.sq with records := rest }).setTe { s.te with resolveAt := none }).emitUnit
                 (newUnit .drop [] dropText)).tb
      ∧ u.te = { s.te with resolveAt := none, inHand := none, demand := .none, taken := s.te.taken + 1, phase := .step,
                           stepLayer := 0, pendingBuf := [{ number := r.number, value := r.value }] })
  ∧ ∀ s : State, (s.te.free = false ∨ s.sq.records = []) → exec .takeStroke s = .next s)
  ∧ (∀ (s : State) (r : StrokeRecord) (rest : List StrokeRecord), s.sq.records = r :: rest → s.te.free = true →
    r.value = s.cfg.undoStroke → r.afterDrop = false →
    ∃ u, exec .takeStroke s = .next u.settled ∧ u.sq = { s.sq with records := rest }
      ∧ (s.te.pendingBuf ≠ [] → ∀ left, left = s.te.pendingBuf.dropLast →
          SameBut [.sq, .te] s u
          ∧ u.te = { s.te with resolveAt := none, taken := s.te.taken + 1, consumed := s.te.consumed + 2, pendingBuf := left,
                               walked := 0, positions := Vector.replicate 3 .root, table := Vector.replicate 8 [], stepLayer := 0,
                               phase := if left = [] then .idle else .step })
      ∧ (s.te.pendingBuf = [] → ∀ x g left, s.tb.region.units.getLast? = some x → x.kind ≠ .drop → left = x.strokes.dropLast →
          g = Region.render { s.tb.region with units := s.tb.region.units.dropLast } s.cfg.width s.cfg.indent →
          SameBut [.sq, .te, .tb, .pub] s u
          ∧ u.tb = { s.tb with region := g, carried := min s.tb.carried g.lines.length }
          ∧ u.te = { s.te with resolveAt := none, taken := s.te.taken + 1, consumed := s.te.consumed + 2, pendingBuf := left,
                               walked := 0, positions := Vector.replicate 3 .root, table := Vector.replicate 8 [], stepLayer := 0,
                               phase := if left = [] then .idle else .step })
      ∧ (s.te.pendingBuf = [] → (∀ x, s.tb.region.units.getLast? = some x → x.kind = .drop) →
          SameBut [.sq, .te] s u
          ∧ u.te = { s.te with resolveAt := none, taken := s.te.taken + 1, consumed := s.te.consumed + 1,
                               lateUndo := s.te.lateUndo + 1 }))
  ∧ ∀ (s : State) (r : StrokeRecord) (rest : List StrokeRecord), s.sq.records = r :: rest → s.te.free = true →
    r.value = s.cfg.undoStroke → r.afterDrop = true → s.te.pendingBuf = [] →
    ∃ u, exec .takeStroke s = .next u.settled ∧ SameBut [.sq, .te, .tb, .pub, .vw, .latches] s u
      ∧ u.sq = { s.sq with records := rest }
      ∧ u.tb = (((s.setSq { s.sq with records := rest }).setTe { s.te with resolveAt := none }).emitUnit
                 (newUnit .drop [] dropText)).tb
      ∧ u.te = { s.te with resolveAt := none, inHand := none, demand := .none, taken := s.te.taken + 1,
                           consumed := s.te.consumed + 1, lateUndo := s.te.lateUndo + 1 }

/-- WALK_READ_END in a lookup of the walk (R25, R45, R46, R49). Header: the bucket head is read next; an exponent above 12 or a table past
the end of memory ends the layer's step with DICT_FAULT and the layer OFF. Head: 0 is OFF, an address of a cell is read, any other is a
fault. Cell: one that breaks a rule of R26 is a fault, one of those that apply (log 9); the stroke found puts the layer AT the cell and
fills the Path Cache unless the request is marked; a chain goes on to its next cell, or is a CHAIN_LIMIT fault past 24 cells. A request
marked raise-seen leaves the walk where it was. In a walk text fetch (R27, R64): bytes left are fetched; at the end the text is kept with
its reference unless a raise was seen; a byte outside the code latches DICT_FAULT with its address and takes the reference from the match
table. A next read is requested in the same row, after the next grant (log 26). With no walk operation in service nothing changes (log
4). -/
def Obligations.AWalkReadEndsItsRequest : Prop :=
  (∀ (s : State) (k : Lookup) (m : ReqMarks) (b : Nat),
    s.te.walkReq = some (.lookup k m) → k.duRules = false → k.stage = .header →
    s.arb.inService = some { cls := .walk, op := .read k.table 8 } → b = (Memory.byteAt s.mem k.table).toNat →
    ∃ u, exec .walkReadEnd s = .next u.settled
      ∧ (b ≤ 12 → k.table + tableBytes b ≤ memSize →
          LookupGoesOn s u { k with stage := .head, exponent := b, cellCount := fieldAt (s.mem.bytesAt k.table 8) 1 2,
                                    headAddr := k.table + 8 + 3 * bucketOf k.stroke b } m
            (k.table + 8 + 3 * bucketOf k.stroke b) 3)
      ∧ (12 < b → LookupFaults s u m .exponent k.table)
      ∧ (b ≤ 12 → memSize < k.table + tableBytes b → LookupFaults s u m .address k.table))
  ∧ (∀ (s : State) (k : Lookup) (m : ReqMarks) (h : Nat),
    s.te.walkReq = some (.lookup k m) → k.duRules = false → k.stage = .head →
    s.arb.inService = some { cls := .walk, op := .read k.headAddr 3 } → h = fieldAt (s.mem.bytesAt k.headAddr 3) 0 3 →
    ∃ u, exec .walkReadEnd s = .next u.settled
      ∧ (h = 0 → SameBut [.te, .arb] s u ∧ LookupEnds s u k m .off)
      ∧ (h ≠ 0 → h % 16 = 0 →
          LookupGoesOn s u { k with head := h, stage := .cell, cellAddr := h, place := k.place + 1, prev := none } m h 16)
      ∧ (h % 16 ≠ 0 → LookupFaults s u m .address k.table))
  ∧ (∀ (s : State) (k : Lookup) (m : ReqMarks) (bs : List Byte) (c : CellData),
    s.te.walkReq = some (.lookup k m) → k.duRules = false → k.stage = .cell →
    s.arb.inService = some { cls := .walk, op := .read k.cellAddr 16 } → bs = s.mem.bytesAt k.cellAddr 16 → c = CellData.ofBytes bs →
    ∃ u, exec .walkReadEnd s = .next u.settled
      ∧ (cellFaults s.dir k.layer k.cellAddr c ≠ [] →
          ∃ d ∈ cellFaults s.dir k.layer k.cellAddr c, LookupFaults s u m d.1 d.2)
      ∧ (cellFaults s.dir k.layer k.cellAddr c = [] →
          (c.stroke = k.stroke.toNat → SameBut [.cache, .te, .arb] s u ∧ LookupEnds s u k m (.at (c.content k.cellAddr))
              ∧ u.cache = (if m.raiseSeen = true ∨ m.fenceSeen = true then s.cache
                else s.cache.fill { layer := k.layer, table := k.table, stroke := k.stroke, content := c.content k.cellAddr }))
          ∧ (c.stroke ≠ k.stroke.toNat → c.link = 0 → SameBut [.te, .arb] s u ∧ LookupEnds s u k m .off)
          ∧ (c.stroke ≠ k.stroke.toNat → c.link ≠ 0 → k.place < 24 →
              LookupGoesOn s u { k with cellAddr := c.link, place := k.place + 1, prev := some (k.cellAddr, bs) } m c.link 16)
          ∧ (c.stroke ≠ k.stroke.toNat → c.link ≠ 0 → 24 ≤ k.place → LookupFaults s u m .chainLimit k.table)))
  ∧ (∀ (d : Directory) (layer a x : Nat) (kind : FaultKind) (c : CellData), (kind, x) ∈ cellFaults d layer a c ↔ x = a
    ∧ ((kind = .address ∧ (c.link % 16 ≠ 0 ∨ (c.hasNext = true ∧ (c.next = 0 ∨ c.next % 8 ≠ 0))))
      ∨ (kind = .spare ∧ (8388608 ≤ c.stroke ∨ c.spare ≠ 0 ∨ 8 ≤ c.flags.toNat ∨ (layer ≠ 0 ∧ c.origin ≠ 0)))
      ∨ (kind = .length ∧ c.hasText = true ∧ (c.text.len = 0 ∨ 120 < c.text.len))
      ∨ (kind = .textRange ∧ c.hasText = true ∧ ¬ (
          if layer = 0 then d.heapStart ≤ c.text.addr ∧ c.text.addr + c.text.len ≤ d.heapStart + d.heapSize
          else if layer = 1 then d.jobTextStart ≤ c.text.addr ∧ c.text.addr + c.text.len ≤ d.jobTextStart + d.jobTextSize
          else d.mainTextStart ≤ c.text.addr ∧ c.text.addr + c.text.len ≤ d.mainTextStart + d.mainTextSize))))
  ∧ (∀ (s : State) (r : LayerRef) (k : Nat) (got all : List Byte) (m : ReqMarks) (a n : Nat),
    s.arb.inService = some { cls := .walk, op := .read a n } → s.te.walkReq = some (.fetch r k got m) → all = got ++ s.mem.bytesAt a n →
    ((∀ b ∈ s.mem.bytesAt a n, inTextCode b = true) → r.ref.len ≤ all.length →
      ∃ u, exec .walkReadEnd s = .next u.settled ∧ SameBut [.te, .arb] s u ∧ u.arb = s.arb.next
        ∧ u.te = { s.te with walkReq := none,
                             kept := if m.raiseSeen = true then s.te.kept else some { ref := r.ref, text := all } })
    ∧ ((∀ b ∈ s.mem.bytesAt a n, inTextCode b = true) → all.length < r.ref.len →
      ∃ u, exec .walkReadEnd s = .next u.settled ∧ SameBut [.te, .arb] s u
        ∧ u.te = { s.te with walkReq := some (.fetch r k all m) }
        ∧ u.arb = s.arb.next.request
            { cls := .walk, op := .read (r.ref.addr + all.length) (min 16 (r.ref.len - all.length)) })
    ∧ (∀ i, i < n → (∀ j, j < i → inTextCode (Memory.byteAt s.mem (a + j)) = true) →
        inTextCode (Memory.byteAt s.mem (a + i)) = false →
        ∃ u, exec .walkReadEnd s = .next u.settled ∧ SameBut [.te, .arb, .latches] s u ∧ u.arb = s.arb.next
          ∧ u.lcp = s.lcp.latched (.dictFault r.layer .textCode (r.ref.addr + got.length + i))
          ∧ u.te = (if m.raiseSeen = true then { s.te with walkReq := none }
                    else { s.te with walkReq := none,
                                     table := s.te.table.setIfInBounds (k - 1)
                                       (((s.te.table[k - 1]?).getD []).filter fun x => decide (x ≠ r)) })))
  ∧ ∀ s : State, s.serving .walk = none → exec .walkReadEnd s = .next s

/-- RESOLVE_TIMER_EXPIRY (R65): the timer is done and one resolution is demanded; the TE's work goes on from there. The timer's reading is
that of its expiry, or the present one where the row comes late (the model's choice, log 3). What the TE's work, the slot's choice and the
composition after an event may change: no clock, no capture, no memory, no Definition Unit, no roster, no host port but the event latches.
One resolution of that work (R62, R64, R68, R69, R77): without a match the first stroke leaves the pending buffer in an UNTRANSLATE unit;
with a best match of k strokes whose text is at hand, the command marks go to the Custody Unit and the first k strokes leave it in a
TRANSLATION unit, or are consumed where the text holds command marks alone. The unit reaches the open region in the same action (R89, R90):
there it is the newest unit or has been locked; four lines and 96 units at most are open after it. The pending buffer never holds more
than 8 strokes (R77): every action of the walk side, a TAKE_STROKE and a REPLACEMENT keep it so. The walk itself: the layers CASE, JOB, MAIN
are stepped in turn, OFF where there is no table, from the Path Cache where it holds the step, else by a lookup (R44, R61); after the
three, the match table takes the texts found (R62), and the prefix is walked on, held with the resolve timer running, or resolved (R63).
A demand ends the hold; a re-walk begins again at the roots (R72); a text not at hand is fetched in operations of 16 bytes (R64). After
the unit the rest of P is walked again; with P empty a stroke in hand ends its drop work (R66): a DROP unit, then the stroke, an undo of
it being late; a flush owed completes, its report asking for the commit-all while a hand-over goes on (R70). -/
def Obligations.TheResolveTimerDemandsOneResolution : Prop :=
  (∀ (s : State) (e : Ms), s.te.resolveAt = some e →
    ∃ u, exec .resolveTimerExpiry s = .next u.settled ∧ SameBut [.te] (s.reachMs e) u
      ∧ u.te = { s.te with resolveAt := none, demand := .one })
  ∧ (∀ u : State, SameBut [.te, .arb, .cache, .latches, .tb, .pub, .vw, .cu, .lnc, .sp] u u.settled)
  ∧ (∀ s : State, s.te.walkReq = none → s.te.phase = .fetch → s.te.rewalkDue = false → s.te.inHand = none →
    (∀ p ps, s.te.best = none → s.te.pendingBuf = p :: ps →
      ∃ t, s.teNext = some t ∧ t.te.pendingBuf = ps ∧ t.te.taken = s.te.taken ∧ t.te.consumed = s.te.consumed
        ∧ t.tb = (s.emitUnit (newUnit .untranslate [p] (stenoNotation p.value))).tb)
    ∧ (∀ k r text, s.te.best = some (k, r) → s.te.keptFor r.ref = some text →
      ∃ t, s.teNext = some t ∧ t.te.pendingBuf = s.te.pendingBuf.drop k ∧ t.te.taken = s.te.taken
        ∧ (withoutCommands text = [] → t.te.consumed = s.te.consumed + k ∧ t.tb = (s.handMarks text).tb)
        ∧ (withoutCommands text ≠ [] → t.te.consumed = s.te.consumed
            ∧ t.tb = ((s.handMarks text).emitUnit
                (newUnit .translation (s.te.pendingBuf.take k) (withoutCommands text))).tb)))
  ∧ (∀ (s : State) (x : TextUnit), Rendered s →
    Rendered (s.emitUnit x) ∧ (s.emitUnit x).tb.region.lines.length ≤ 4 ∧ (s.emitUnit x).tb.region.units.length ≤ 96
    ∧ (s.tb.region.units.length < 96 → ∀ r : Region,
        r = Region.render { s.tb.region with units := s.tb.region.units ++ [x] } s.cfg.width s.cfg.indent → r.lines.length ≤ 4 →
        (s.emitUnit x).tb = { s.tb with region := r, carried := min s.tb.carried r.lines.length }))
  ∧ (∀ s : State, PendingKept s →
    (∀ t, s.teNext = some t → PendingKept t) ∧ PendingKept s.teRun ∧ (∃ t, exec .takeStroke s = .next t ∧ PendingKept t)
    ∧ ∀ vs text, s.te.retr = .requested vs text → vs.length ≤ 8 → ∃ t, exec .replacement s = .next t ∧ PendingKept t)
  ∧ (∀ (s : State) (l : Nat) (v : Stroke) (under : Option Nat), s.te.walkReq = none → s.te.phase = .step → s.te.rewalkDue = false →
    s.te.stepLayer = l → l < 3 → v = ((s.te.pendingBuf[s.te.walked]?).map NumStroke.value).getD 0 →
    under = (match s.te.positions[l]? with
      | some .root => if s.dir.root l = 0 then none else some (s.dir.root l)
      | some (.at c) => c.next
      | _ => none) →
    ∃ t, s.teNext = some t
      ∧ (under = none → SameBut [.te] s t
          ∧ t.te = { s.te with stepLayer := l + 1, positions := s.te.positions.setIfInBounds l .off })
      ∧ ∀ table, under = some table →
        (∀ c, s.cache.lookup l table v = some c → SameBut [.te, .cache] s t ∧ t.cache = s.cache.hit l table v
          ∧ t.te = { s.te with stepLayer := l + 1, positions := s.te.positions.setIfInBounds l (.at c) })
        ∧ (s.cache.lookup l table v = none → t.cache = { s.cache with misses := satSucc s.cache.misses }
          ∧ (table % 8 = 0 → ∃ k, SameBut [.te, .cache, .arb] s t
            ∧ t.te = { s.te with walkReq := some (.lookup k
                        { generation := s.du.generation, raiseSeen := false, fenceSeen := false }) }
            ∧ k.layer = l ∧ k.table = table ∧ k.stroke = v ∧ k.duRules = false ∧ k.stage = .header ∧ k.place = 0
            ∧ t.arb = s.arb.request { cls := .walk, op := .read table 8 })
          ∧ (table % 8 ≠ 0 → SameBut [.te, .cache, .latches] s t ∧ t.lcp = s.lcp.latched (.dictFault l .address table)
            ∧ t.te = { s.te with stepLayer := l + 1, positions := s.te.positions.setIfInBounds l .off })))
  ∧ (∀ (s : State) (w : Nat) (goes : Bool) (refs : List LayerRef), s.te.walkReq = none → s.te.phase = .step → s.te.rewalkDue = false →
    3 ≤ s.te.stepLayer → w = s.te.walked + 1 →
    (goes = true ↔ w < 8 ∧ ∃ l c, l < 3 ∧ s.te.positions[l]? = some (.at c) ∧ c.next ≠ none) →
    refs = (List.range 3).filterMap (fun (l : Nat) => match s.te.positions[l]? with
      | some (.at c) => c.text.map fun r => { layer := l, ref := r }
      | _ => none) →
    ∃ t, s.teNext = some t ∧ SameBut [.te] s t
      ∧ t.te = { s.te with
          walked := w, stepLayer := 0,
          table := s.te.table.setIfInBounds s.te.walked refs,
          phase := if goes = false then .fetch else if w < s.te.pendingBuf.length then .step
                   else if s.te.demand = .none then .hold else .fetch,
          resolveAt := if goes = true ∧ s.te.pendingBuf.length ≤ w ∧ s.te.demand = .none then
                         (if s.cfg.resolveWait = 0 then none else some (s.clock.ms + BitVec.ofNat 32 s.cfg.resolveWait))
                       else s.te.resolveAt })
  ∧ (∀ s : State, (s.te.walkReq ≠ none ∨ s.te.phase = .idle ∨ (s.te.phase = .hold ∧ s.te.rewalkDue = false ∧ s.te.demand = .none)) →
      s.teNext = none)
  ∧ (∀ s : State, s.te.walkReq = none → s.te.phase = .hold → s.te.rewalkDue = false → s.te.demand ≠ .none →
      s.teNext = some (s.setTe { s.te with phase := .fetch, resolveAt := none }))
  ∧ (∀ s : State, s.te.walkReq = none → s.te.phase ≠ .idle → s.te.rewalkDue = true →
      s.teNext = some (s.setTe
        { s.te with rewalkDue := false, resolveAt := none, walked := 0, positions := Vector.replicate 3 .root,
                    table := Vector.replicate 8 [], stepLayer := 0, phase := if s.te.pendingBuf = [] then .idle else .step }))
  ∧ (∀ (s : State) (k : Nat) (r : LayerRef), s.te.walkReq = none → s.te.phase = .fetch → s.te.rewalkDue = false →
      s.te.best = some (k, r) → (∀ x, s.te.kept = some x → x.ref ≠ r.ref) →
      ∃ t, s.teNext = some t ∧ SameBut [.te, .arb] s t
        ∧ t.te = { s.te with walkReq := some (.fetch r k []
                    { generation := s.du.generation, raiseSeen := false, fenceSeen := false }) }
        ∧ t.arb = s.arb.request { cls := .walk, op := .read r.ref.addr (min 16 r.ref.len) })
  ∧ (∀ (t : Te), (t.best = none ↔ ∀ i, i < 8 → t.table[i]? = some [])
      ∧ ∀ k r, t.best = some (k, r) ↔ 1 ≤ k ∧ k ≤ 8 ∧ (∃ rs, t.table[k - 1]? = some (r :: rs))
          ∧ ∀ i, k ≤ i → i < 8 → t.table[i]? = some [])
  ∧ (∀ (t : Te) (r : TextRef) (text : List Byte),
    t.keptFor r = some text ↔ ∃ x, t.kept = some x ∧ x.ref = r ∧ x.text = text)
  ∧ (∀ s : State, s.te.walkReq = none → s.te.phase = .fetch → s.te.rewalkDue = false →
    (∀ p ps, s.te.best = none → s.te.pendingBuf = p :: ps →
      s.teNext = some ((s.emitUnit (newUnit .untranslate [p] (stenoNotation p.value))).afterUnit 1))
    ∧ ∀ k r text u, s.te.best = some (k, r) → s.te.keptFor r.ref = some text → u = s.handMarks text →
      s.teNext = some ((if withoutCommands text = [] then u.setTe { u.te with consumed := u.te.consumed + k }
        else u.emitUnit (newUnit .translation (u.te.pendingBuf.take k) (withoutCommands text))).afterUnit k))
  ∧ (∀ (s d w t : State) (k : Nat) (ps : List NumStroke) (base : Te), ps = s.te.pendingBuf.drop k →
    base = { s.te with
      pendingBuf := ps, walked := 0, positions := Vector.replicate 3 .root, table := Vector.replicate 8 [], stepLayer := 0,
      phase := if ps = [] then .idle else .step, demand := if s.te.demand = .one then .none else s.te.demand } →
    d = (s.setTe base).emitUnit (newUnit .drop [] (bytesOf "[?]")) → t = s.afterUnit k →
    ((ps ≠ [] ∨ (s.te.inHand = none ∧ s.te.flushOwed = false)) → t = s.setTe base)
    ∧ (ps = [] → s.te.inHand = none → s.te.flushOwed = true →
        t = (s.setTe { base with flushOwed := false, demand := .none }).flushReport)
    ∧ (∀ r, ps = [] → s.te.inHand = some r → r.value ≠ s.cfg.undoStroke →
        t = d.setTe { base with inHand := none, demand := if s.te.flushOwed = true then .all else .none, taken := s.te.taken + 1,
                                pendingBuf := [{ number := r.number, value := r.value }], phase := .step })
    ∧ (∀ r, ps = [] → s.te.inHand = some r → r.value = s.cfg.undoStroke →
        w = d.setTe { base with inHand := none, flushOwed := false, demand := .none, taken := s.te.taken + 1,
                                consumed := s.te.consumed + 1, lateUndo := s.te.lateUndo + 1 } →
        t = if s.te.flushOwed = true then w.flushReport else w))
  ∧ (∀ s : State, ((∃ n, s.cu.handOver = .handingOver n) → s.flushReport = s.setCu { s.cu with commitAllDue := true })
    ∧ ((∀ n, s.cu.handOver ≠ .handingOver n) → s.flushReport = s))
  ∧ ∀ (s : State) (b : Byte) (rest : List Byte), s.handMarks [] = s ∧ s.handMarks (b :: rest) =
    (if b = 8 then s.takeRequest .claim else if b = 9 then s.takeRequest .release else if b = 10 then s.takeRequest .enterShadow
     else if b = 11 then s.takeRequest .leaveShadow else s).handMarks rest

/-- MATCH_CHECK (R75): the oldest handing leaves the list; where the open units hold a run of its strokes, its text is fetched by
RETR operations, or is at hand in the kept text and its replacement requested; otherwise the handing is done. While a handing is in
work, or with none, nothing changes (log 4). A run is one UNTRANSLATE unit for each of the strokes, in order. What a replacement makes of
the units (R76, R92): the leftmost run becomes, in its place, one TRANSLATION unit that holds the strokes of the run's units in order and
the text; the units after it are gone through in the same way, so that no unit is in two runs; without a run they stay. -/
def Obligations.AMatchCheckStartsARetranslation : Prop :=
  (∀ (s : State) (h : Handing) (rest : List Handing), s.te.retr = .idle → s.te.handings = h :: rest →
    (hasRun h.strokes s.tb.region.units = false →
      ∃ t, exec .matchCheck s = .next t ∧ SameBut [.te] s t ∧ t.te = { s.te with handings := rest })
    ∧ (hasRun h.strokes s.tb.region.units = true → (∀ x, s.te.kept = some x → x.ref ≠ h.ref) →
      ∃ t, exec .matchCheck s = .next t ∧ SameBut [.te, .arb] s t
        ∧ t.te = { s.te with handings := rest,
                             retr := .fetch h [] { generation := s.du.generation, raiseSeen := false, fenceSeen := false } }
        ∧ t.arb = s.arb.request { cls := .retr, op := .read h.ref.addr (min 16 h.ref.len) })
    ∧ (hasRun h.strokes s.tb.region.units = true → ∀ x, s.te.kept = some x → x.ref = h.ref →
      ∃ t, exec .matchCheck s = .next t ∧ SameBut [.te] s t
        ∧ t.te = { s.te with handings := rest,
                             retr := if withoutCommands x.text = [] then .idle
                                     else .requested h.strokes (withoutCommands x.text) }))
  ∧ (∀ s : State, (s.te.retr ≠ .idle ∨ s.te.handings = []) → exec .matchCheck s = .next s)
  ∧ ∀ (vs : List Stroke) (us : List TextUnit) (text : List Byte), vs ≠ [] →
    (hasRun vs us = true ↔ ∃ pre run post, us = pre ++ run ++ post ∧ IsRun vs run)
    ∧ (hasRun vs us = false → replaceRuns vs text 0 us = us)
    ∧ ∀ pre run post, us = pre ++ run ++ post → IsRun vs run →
      (∀ a r b, us = a ++ r ++ b → IsRun vs r → pre.length ≤ a.length) →
      ∃ x : TextUnit, x.kind = .translation ∧ x.strokes = run.flatMap TextUnit.strokes ∧ x.text = text
        ∧ replaceRuns vs text 0 us = pre ++ x :: replaceRuns vs text 0 post

/-- RETR_READ_END (R27, R49, R75): a fetch with bytes of its text left requests the next 16. At the last operation of its fetch, with the
generation unchanged, the text is kept and its replacement requested without command marks; after a raise the fetch begins again from its
first operation. A byte outside the code latches DICT_FAULT with its address and ends the handing, or after a raise begins the fetch
again. A next request is made in the same row, after the next grant (the model's choice, log 26). REPLACEMENT (R76, R88, R89, R92): the
request is taken; every run of its strokes becomes one TRANSLATION unit and the region is rendered again, a new image of it waiting as a
TAIL where its open lines changed and TAILs are allowed (R127, R128); where more than four lines are open the oldest are committed until
four are left; without a run the region stays as it was. A rendering (R79, R80, R88) places every unit from the lead's insertion point and
base state, oldest first, and changes nothing of a unit but its snapshot and anchor line; it depends on nothing else, so rendering again
changes nothing. A unit's text (R81): characters gather into words; a space or the end ends one; format marks set CAP and LOWER where
they stand, a PARA begins a line at the indent (R87), position marks act by the separator and flags of their place alone (R79, R83). The
first letter takes the case asked for (R84). A word fits, wraps, or is cut into pieces of a line's width (R85, R86). An UNTRANSLATE is one
word, its notation: the letters of its keys in key order, with a hyphen where R82 has it, 1 to 23 characters, CAP and LOWER untouched. No
line passes the width or ends in a space but the indent. -/
def Obligations.RetranslationFetchesAndReplaces : Prop :=
  (∀ (s : State) (h : Handing) (got : List Byte) (m : ReqMarks) (a n : Nat),
    s.arb.inService = some { cls := .retr, op := .read a n } → s.te.retr = .fetch h got m →
    (∀ b ∈ s.mem.bytesAt a n, inTextCode b = true) → h.ref.len ≤ got.length + n →
    ∃ t, exec .retrReadEnd s = .next t ∧ SameBut [.te, .arb] s t
      ∧ (m.raiseSeen = false →
          t.arb = s.arb.next
          ∧ t.te = { s.te with kept := some { ref := h.ref, text := got ++ s.mem.bytesAt a n },
                               retr := if withoutCommands (got ++ s.mem.bytesAt a n) = [] then .idle
                                       else .requested h.strokes (withoutCommands (got ++ s.mem.bytesAt a n)) })
      ∧ (m.raiseSeen = true →
          t.arb = s.arb.next.request { cls := .retr, op := .read h.ref.addr (min 16 h.ref.len) }
          ∧ t.te = { s.te with retr := .fetch h [] { generation := s.du.generation, raiseSeen := false, fenceSeen := false } }))
  ∧ (∀ (s : State) (h : Handing) (got all : List Byte) (m : ReqMarks) (a n : Nat),
    s.arb.inService = some { cls := .retr, op := .read a n } → s.te.retr = .fetch h got m → all = got ++ s.mem.bytesAt a n →
    (∀ b ∈ s.mem.bytesAt a n, inTextCode b = true) → all.length < h.ref.len →
    ∃ t, exec .retrReadEnd s = .next t ∧ SameBut [.te, .arb] s t ∧ t.te = { s.te with retr := .fetch h all m }
      ∧ t.arb = s.arb.next.request
          { cls := .retr, op := .read (h.ref.addr + all.length) (min 16 (h.ref.len - all.length)) })
  ∧ (∀ (s : State) (h : Handing) (got : List Byte) (m : ReqMarks) (a n i : Nat),
    s.arb.inService = some { cls := .retr, op := .read a n } → s.te.retr = .fetch h got m → i < n →
    (∀ j, j < i → inTextCode (Memory.byteAt s.mem (a + j)) = true) → inTextCode (Memory.byteAt s.mem (a + i)) = false →
    ∃ t, exec .retrReadEnd s = .next t ∧ SameBut [.te, .arb, .latches] s t
      ∧ t.lcp = s.lcp.latched (.dictFault 0 .textCode (h.ref.addr + got.length + i))
      ∧ (m.raiseSeen = false → t.te = { s.te with retr := .idle } ∧ t.arb = s.arb.next)
      ∧ (m.raiseSeen = true →
          t.te = { s.te with retr := .fetch h [] { generation := s.du.generation, raiseSeen := false, fenceSeen := false } }
          ∧ t.arb = s.arb.next.request { cls := .retr, op := .read h.ref.addr (min 16 h.ref.len) }))
  ∧ (∀ (s : State) (vs : List Stroke) (text : List Byte), s.te.retr = .requested vs text →
    ∃ u, exec .replacement s = .next u.offered ∧ SameBut [.te, .tb, .latches, .pub, .vw] s u ∧ u.te = { s.te with retr := .idle }
      ∧ (hasRun vs s.tb.region.units = false → u.tb = s.tb ∧ u.pub = s.pub ∧ u.vw = s.vw ∧ u.lcp = s.lcp)
      ∧ (hasRun vs s.tb.region.units = true → ∀ r : Region,
          r = Region.render { s.tb.region with units := replaceRuns vs text 0 s.tb.region.units } s.cfg.width s.cfg.indent →
          u.tb.region.lines.length ≤ 4
          ∧ ∃ v : State, u = v.commitOver ∧ SameBut [.te, .tb, .pub] s v ∧ v.te = { s.te with retr := .idle }
            ∧ v.tb = { s.tb with region := r, carried := min s.tb.carried r.lines.length }
            ∧ v.pub = (if 0 < s.pub.ownWeight ∧ s.pub.muted = false ∧ s.cu.conflict = false ∧ s.tb.region.lines ≠ r.lines then
                { s.pub with
                  tailWaiting := some { series := s.tb.series, custody := s.cu.state, committed := s.tb.committedThrough,
                                        firstOpen := s.tb.firstOpen, lines := r.lines, attempts := 0 },
                  refreshAt := some (s.clock.ms + 2000) }
                else s.pub)
            ∧ (r.lines.length ≤ 4 → u = v)))
  ∧ (∀ (r : Region) (w i : Nat),
    (r.render w i).lead = r.lead ∧ (r.render w i).render w i = r.render w i
    ∧ ((r.render w i).units.map fun u => (u.kind, u.strokes, u.text)) = r.units.map (fun u => (u.kind, u.strokes, u.text))
    ∧ (r.units = [] → (r.render w i).format = r.lead.base)
    ∧ (∀ x, (r.render w i).units.head? = some x → x.snapshot = r.lead.base)
    ∧ ∀ us x, r.units = us ++ [x] → ∀ q, q = (renderUnits w i r.lead.pen us).1 →
        (r.render w i).lines = (q.placeUnit w i x).1.lines ∧ (r.render w i).format = (q.placeUnit w i x).1.format)
  ∧ (∀ (v : Stroke) (keys : Nat → Nat → List Byte),
    keys = (fun lo hi => ((List.range' lo (hi + 1 - lo)).filter fun k => v.getLsbD (k - 1)).map fun k =>
      (bytesOf "STKPWHRAO*EUFRPBLGTSDZ#").getD (k - 1) 0) →
    stenoNotation v = keys 1 12 ++ (if keys 8 12 = [] ∧ keys 13 22 ≠ [] then [45] else []) ++ keys 13 23
    ∧ (v ≠ 0 → 1 ≤ (stenoNotation v).length) ∧ (stenoNotation v).length ≤ 23 ∧ ∀ b ∈ stenoNotation v, 33 ≤ b.toNat)
  ∧ (∀ (p q : Pen) (w sep c sp : Nat) (word : List Byte), 0 < w → q = p.placeWord w sep word → c = p.cur.length →
    sp = (if p.lineStart = true then 0 else sep) →
    q.lineStart = false ∧ q.format = p.format
    ∧ (c + sp + word.length ≤ w →
        q.done = p.done ∧ q.cur = p.cur ++ List.replicate sp 32 ++ word ∧ p.wordLine w sep word = p.done.length)
    ∧ (w < c + sp + word.length → word.length ≤ w →
        q.done = p.done ++ [p.cur] ∧ q.cur = word ∧ p.wordLine w sep word = p.done.length + 1)
    ∧ (w < word.length → ∃ pieces, q.done = (if c = 0 then p.done else p.done ++ [p.cur]) ++ pieces
        ∧ word = pieces.flatten ++ q.cur ∧ (∀ x ∈ pieces, x.length = w) ∧ 1 ≤ q.cur.length ∧ q.cur.length ≤ w
        ∧ p.wordLine w sep word = if c = 0 then p.done.length else p.done.length + 1))
  ∧ (∀ (p : Pen) (i : Nat), p.para i =
    if p.lineStart = true then { p with cur := List.replicate i 32 }
    else { p with done := p.done ++ [p.cur], cur := List.replicate i 32, lineStart := true })
  ∧ (∀ (f : Format) (b : Byte) (up low : Bool), up = decide (65 ≤ b.toNat ∧ b.toNat ≤ 90) →
    low = decide (97 ≤ b.toNat ∧ b.toNat ≤ 122) →
    casedChar f b =
      if up = false ∧ low = false then (b, f)
      else (if f.cap = true ∧ low = true then b - 32 else if f.cap = false ∧ f.lower = true ∧ up = true then b + 32 else b,
        { f with cap := false, lower := false }))
  ∧ (∀ (t : TextPen) (g : Setting) (cased : Bool) (b : Byte),
    (b = 32 → t.byte g cased b = t.endWord g)
    ∧ (33 ≤ b.toNat → cased = true → t.byte g cased b =
        { t with word := t.word ++ [(casedChar t.pen.format b).1], pen := { t.pen with format := (casedChar t.pen.format b).2 } })
    ∧ (33 ≤ b.toNat → cased = false → t.byte g cased b = { t with word := t.word ++ [b] })
    ∧ ((b = 4 ∨ b = 6) → t.byte g cased b =
        { t with pen := { t.pen with format := { t.pen.format with cap := true, lower := false } } })
    ∧ (b = 5 → t.byte g cased b = { t with pen := { t.pen with format := { t.pen.format with cap := false, lower := true } } })
    ∧ (b = 7 → ∀ u, u = t.endWord g → t.byte g cased b =
        { u with pen := u.pen.para g.indent,
                 first := if g.indent = 0 ∨ u.first ≠ none then u.first else some (u.pen.para g.indent).done.length })
    ∧ ((b = 1 ∨ b = 2 ∨ b = 3) → t.byte g cased b = t)
    ∧ (t.word = [] → t.endWord g = t)
    ∧ (t.word ≠ [] → ∀ sep q, sep = (if t.words = 0 then g.sep else 1) → q = t.pen.placeWord g.width sep t.word →
        t.endWord g =
          { pen := { q with format := { q.format with attach := false } }, word := [], words := t.words + 1,
            first := if t.first = none then some (t.pen.wordLine g.width sep t.word) else t.first }))
  ∧ (∀ (p : Pen) (w i : Nat) (x : TextUnit) (t : TextPen) (g : Setting),
    g = { width := w, indent := i,
          sep := if p.format.attach = true ∨ x.text.head? = some 1 ∨ (x.text.head? = some 3 ∧ p.format.glueLast = true)
                 then 0 else 1 } →
    t = (x.text.foldl (fun (t : TextPen) (b : Byte) => t.byte g (decide (x.kind ≠ .untranslate)) b)
      { pen := p, word := [], words := 0, first := none }).endWord g →
    p.placeUnit w i x =
      ({ t.pen with
         format := if t.words = 0 then t.pen.format
                   else { t.pen.format with attach := decide (x.text.getLast? = some 2),
                                            glueLast := decide (x.text.head? = some 3) } },
       t.first.getD t.pen.done.length))
  ∧ (∀ (p : Pen) (w i sep : Nat) (x : TextUnit), x.kind = .untranslate → x.text ≠ [] → (∀ b ∈ x.text, 33 ≤ b.toNat) →
    sep = (if p.format.attach = true then 0 else 1) →
    p.placeUnit w i x =
      ({ p.placeWord w sep x.text with format := { p.format with attach := false, glueLast := false } }, p.wordLine w sep x.text))
  ∧ ∀ (p : Pen) (w i : Nat) (x : TextUnit), 0 < w → i ≤ w → (∀ l ∈ p.lines, LineOk w l) →
    (∀ l ∈ (p.placeUnit w i x).1.lines, LineOk w l) ∧ p.done <+: (p.placeUnit w i x).1.done

/-! ## The dictionary store -/

/-- DU_SERVICE_START (R31, R32): while the Definition Unit is idle, the oldest queue entry enters PLAN and the header of the CASE root is
read; a root outside the rules ends it with DICT_FAULT, its kind a free value where several apply (log 9); otherwise nothing changes (log
4). DEF_OPERATION_END in WRITE (R31, R35, R38): the bytes stand in memory and no other byte changes; the cells freed join the free-cell
list; the next write is requested, after the next grant (log 26), or FINISH begins. In PLAN (R32): header, bucket head, cells; a fault
(R25, R26, one outside the CASE cells among them, free where several show, log 9) ends it with outcome FAULT; a cell found goes on in its
next level; the walk ends with the last stroke, a cell without next level, or a stroke not found. A DEFINE then (R33 to R35): a received
one that may not replace is DROPPED; a text for an existing cell needs heap room alone; missing strokes take tables and cells of the
free-cell list, one table for each stroke after the first in an existing table, or for each under a cell; without the room it is FULL, and
nothing is taken. The writes: new tables (each for the cell of its stroke, log 13), text, cells deepest first, the link, the count. A new
cell has its stroke, the last HAS_TEXT, the text reference and the origin, one above HAS_NEXT and its table; its chain link is the old
head of the bucket for the first in an existing table, else 0; what its flags mark absent is free (log 10). A FORGET (R37, R38): without
the text it is NOT_FOUND; else the text's flag is cleared and, without a next level, the cell unlinked and its table's count lowered,
pruning up while tables empty. What is chosen (R34): free cells alone, the lowest run for the first table, then the lowest cells left.
With no DEF operation in service nothing changes (log 4). -/
def Obligations.ADefinitionIsServedByOperations : Prop :=
  ((∀ (s : State) (e : DefEntry) (rest : List DefEntry), s.du.work = .idle → s.du.queue = e :: rest →
    (s.dir.caseRoot % 8 = 0 ∧ s.dir.inCells s.dir.caseRoot 8 = true →
      ∃ t k, exec .duServiceStart s = .next t ∧ SameBut [.du, .arb] s t
        ∧ t.du = { s.du with queue := rest, work := .plan e k [] } ∧ k.stage = .header ∧ k.layer = 0 ∧ k.table = s.dir.caseRoot
        ∧ k.stroke = (e.strokes[0]?).getD 0 ∧ k.duRules = true
        ∧ t.arb = s.arb.request { cls := .defn, op := .read s.dir.caseRoot 8 })
    ∧ (¬ (s.dir.caseRoot % 8 = 0 ∧ s.dir.inCells s.dir.caseRoot 8 = true) →
      ∃ t kind, exec .duServiceStart s = .next t ∧ SameBut [.du, .latches] s t
        ∧ t.du = { s.du with queue := rest, work := .idle } ∧ Latched s t 9 (.dictFault 0 kind s.dir.caseRoot)
        ∧ ((kind = .address ∧ s.dir.caseRoot % 8 ≠ 0) ∨ (kind = .region ∧ s.dir.inCells s.dir.caseRoot 8 = false))
        ∧ t.lcp = (s.lcp.latched (.dictFault 0 kind s.dir.caseRoot)).latched
            (if e.source = 0 then .defineResult .fault (e.strokes.headD 0) else .defineReceived .fault e.source)))
  ∧ ∀ s : State, (s.du.work ≠ .idle ∨ s.du.queue = []) → exec .duServiceStart s = .next s)
  ∧ ((∀ (s : State) (e : DefEntry) (ref : TextRef) (w : PlannedWrite) (rest : List PlannedWrite), s.mem.wf = true →
    s.du.work = .write e ref (w :: rest) → s.arb.inService = some { cls := .defn, op := .write w.addr w.bytes } →
    w.addr + w.bytes.length ≤ memSize →
    ∃ t, exec .defOperationEnd s = .next t ∧ SameBut [.mem, .du, .arb] s t
      ∧ (∀ b, Memory.byteAt t.mem b =
          if w.addr ≤ b ∧ b < w.addr + w.bytes.length then w.bytes.getD (b - w.addr) 0 else Memory.byteAt s.mem b)
      ∧ t.du.freeCells = w.freed.foldl (fun l a => freeCell a l) s.du.freeCells
      ∧ t.du = { s.du with freeCells := t.du.freeCells, work := t.du.work }
      ∧ (rest = [] → t.du.work = .finish e ref e.strokes ∧ t.arb = s.arb.next)
      ∧ (∀ v vs, rest = v :: vs → t.du.work = .write e ref rest
          ∧ t.arb = s.arb.next.request { cls := .defn, op := .write v.addr v.bytes }))
  ∧ (∀ (s : State) (e : DefEntry) (k : Lookup) (path : List PlanStep) (b : Nat), s.du.work = .plan e k path → k.stage = .header →
    s.arb.inService = some { cls := .defn, op := .read k.table 8 } → b = (Memory.byteAt s.mem k.table).toNat → b ≤ 12 →
    k.table + tableBytes b ≤ memSize → s.dir.inCells k.table (tableBytes b) = true →
    ∃ t k', exec .defOperationEnd s = .next t ∧ SameBut [.du, .arb] s t ∧ t.du = { s.du with work := .plan e k' path }
      ∧ k'.stage = .head ∧ k'.duRules = k.duRules ∧ k'.exponent = b ∧ k'.headAddr = k.table + 8 + 3 * bucketOf k.stroke b
      ∧ t.arb = s.arb.next.request { cls := .defn, op := .read (k.table + 8 + 3 * bucketOf k.stroke b) 3 })
  ∧ ∀ s : State, s.serving .defn = none → exec .defOperationEnd s = .next s)
  ∧ (∀ (s : State) (e : DefEntry) (k : Lookup) (path : List PlanStep) (r : Request), s.du.work = .plan e k path →
      k.stage = .head → r = { cls := .defn, op := .read k.headAddr 3 } → s.arb.inService = some r →
      fieldAt (s.mem.bytesAt k.headAddr 3) 0 3 = 0 →
      exec .defOperationEnd s = .next ((s.endOperation r).planEnds e path (some { k with head := 0 })))
  ∧ (∀ (s : State) (e : DefEntry) (k : Lookup) (path path' : List PlanStep) (r : Request) (bs : List Byte) (c : CellData),
      s.du.work = .plan e k path → k.stage = .cell → r = { cls := .defn, op := .read k.cellAddr 16 } → s.arb.inService = some r →
      bs = s.mem.bytesAt k.cellAddr 16 → c = CellData.ofBytes bs → cellFaults s.dir k.layer k.cellAddr c = [] →
      path' = path ++ [k.planStep bs] →
      (c.stroke ≠ k.stroke.toNat → c.link = 0 →
        exec .defOperationEnd s = .next ((s.endOperation r).planEnds e path (some k)))
      ∧ (c.stroke = k.stroke.toNat → (e.strokes.length ≤ path'.length ∨ c.hasNext = false) →
        exec .defOperationEnd s = .next ((s.endOperation r).planEnds e path' none))
      ∧ (c.stroke = k.stroke.toNat → path'.length < e.strokes.length → c.hasNext = true → s.dir.inCells c.next 8 = true →
        ∃ t k', exec .defOperationEnd s = .next t ∧ SameBut [.du, .arb] s t ∧ t.du = { s.du with work := .plan e k' path' }
          ∧ k'.stage = .header ∧ k'.duRules = true ∧ k'.table = c.next ∧ k'.stroke = (e.strokes[path'.length]?).getD 0
          ∧ t.arb = s.arb.next.request { cls := .defn, op := .read c.next 8 }))
  ∧ (∀ (s : State) (e : DefEntry) (path : List PlanStep) (ref : TextRef) (top : Option Nat) (text : List PlannedWrite) (full : Event),
      e.kind = .define → ref = { addr := s.heapTop, len := e.text.length } → top = some (s.heapTop + e.text.length) →
      text = writesOf e.text.length s.heapTop e.text →
      full = (if e.source = 0 then .defineResult .full (e.strokes.headD 0) else .defineReceived .full e.source) →
      (∀ p c u, path.length = e.strokes.length → path.getLast? = some p → c = CellData.ofBytes p.bytes → u = s.planEnds e path none →
        ((c.hasText = true ∧ e.source ≠ 0 ∧ (c.origin = 0 ∨ e.rank < s.roster.rankOf c.origin)) →
          LeavesService s u (.defineReceived .dropped e.source))
        ∧ ((c.hasText = false ∨ e.source = 0 ∨ (c.origin ≠ 0 ∧ s.roster.rankOf c.origin ≤ e.rank)) →
          (HeapTakes s e → BeginsWrite s u e ref s.du.freeCells top
            (text ++ [aWrite p.cellAddr (cellWithText p.bytes ref e.source)]))
          ∧ (¬ HeapTakes s e → LeavesService s u full)))
      ∧ (∀ k v vs u, e.strokes.drop path.length = v :: vs → u = s.planEnds e path (some k) →
        (∀ a, allocate vs.length (vs.length + 1) s.du.freeCells = some a → HeapTakes s e → BeginsWrite s u e ref a.free top
          (tableWrites vs (a.cells.drop 1) a.tables ++ text
            ++ (cellWrites s.du.generation ref e.source (v :: vs) a.cells a.tables k.head).reverse
            ++ [aWrite k.headAddr (leBytes 3 (a.cells.headD 0)), aWrite k.table (headerBytes k.exponent (k.cellCount + 1))]))
        ∧ ((allocate vs.length (vs.length + 1) s.du.freeCells = none ∨ ¬ HeapTakes s e) → LeavesService s u full))
      ∧ ∀ p v vs u, path.getLast? = some p → e.strokes.drop path.length = v :: vs → u = s.planEnds e path none →
        (∀ a, allocate (vs.length + 1) (vs.length + 1) s.du.freeCells = some a → HeapTakes s e → BeginsWrite s u e ref a.free top
          (tableWrites (v :: vs) a.cells a.tables ++ text
            ++ (cellWrites s.du.generation ref e.source (v :: vs) a.cells (a.tables.drop 1) 0).reverse
            ++ [aWrite p.cellAddr (cellWithNext p.bytes (a.tables.headD 0))]))
        ∧ ((allocate (vs.length + 1) (vs.length + 1) s.du.freeCells = none ∨ ¬ HeapTakes s e) → LeavesService s u full))
  ∧ (∀ (s : State) (e : DefEntry) (path : List PlanStep), e.kind = .forget →
      (∀ k, LeavesService s (s.planEnds e path (some k)) (.defineResult .notFound (e.strokes.headD 0)))
      ∧ ∀ p up u, path.reverse = p :: up → u = s.planEnds e path none →
        ((path.length = e.strokes.length ∧ (CellData.ofBytes p.bytes).hasText = true) →
          BeginsWrite s u e { addr := 0, len := 0 } s.du.freeCells s.du.heapTop
            (aWrite p.cellAddr (cellWithoutText p.bytes)
              :: (if (CellData.ofBytes p.bytes).hasNext = true then []
                  else pruneWrites s.dir.caseRoot ({ p with bytes := cellWithoutText p.bytes } :: up))))
        ∧ (¬ (path.length = e.strokes.length ∧ (CellData.ofBytes p.bytes).hasText = true) →
          LeavesService s u (.defineResult .notFound (e.strokes.headD 0))))
  ∧ (∀ (root : Nat) (p : PlanStep) (up : List PlanStep) (link : Nat) (unlink lowered : PlannedWrite), link = fieldAt p.bytes 11 3 →
      unlink = (match p.prev with
        | none => aWrite p.headAddr (leBytes 3 link)
        | some q => aWrite q.1 (patch q.2 11 (leBytes 3 link))) →
      lowered = { addr := p.table, bytes := headerBytes p.exponent (p.cellCount - 1), freed := [p.cellAddr] } →
      ((1 < p.cellCount ∨ p.table = root) → pruneWrites root (p :: up) = [unlink, lowered])
      ∧ ∀ q rest, p.cellCount ≤ 1 → p.table ≠ root → up = q :: rest →
        pruneWrites root (p :: up) =
          [unlink, lowered,
            { addr := q.cellAddr, bytes := cellWithoutNext q.bytes,
              freed := (List.range (tableCells p.exponent)).map fun i => p.table + 16 * i }]
          ++ (if (CellData.ofBytes q.bytes).hasText = true then [] else pruneWrites root up))
  ∧ (∀ (v : Stroke) (cell : Nat), (newTableBytes v cell).length = 64
      ∧ ∀ i, i < 64 → (newTableBytes v cell).getD i 0 =
          if i = 0 then 4 else if i = 1 then 1
          else if 8 + 3 * bucketOf v 4 ≤ i ∧ i < 11 + 3 * bucketOf v 4 then (leBytes 3 cell).getD (i - 8 - 3 * bucketOf v 4) 0
          else 0)
  ∧ (∀ (g : BitVec 16) (ref : TextRef) (origin head : Nat) (vs : List Stroke) (cells tables : List Nat) (ws : List PlannedWrite),
    vs.length ≤ cells.length → vs.length ≤ tables.length + 1 → ws = cellWrites g ref origin vs cells tables head →
    ws.length = vs.length
    ∧ ∀ (i c link : Nat) (v : Stroke), vs[i]? = some v → cells[i]? = some c → link = (if i = 0 then head else 0) →
      (i + 1 = vs.length → ∃ free : List Byte, free.length = 3 ∧ ws[i]? = some
        { addr := c, freed := [], bytes := leBytes 3 v.toNat ++ [1] ++ leBytes 3 ref.addr ++ leBytes 1 ref.len ++ free
            ++ leBytes 3 link ++ leBytes 1 origin ++ [0] })
      ∧ ∀ t, i + 1 < vs.length → tables[i]? = some t → ∃ (free : List Byte) (last : Byte), free.length = 4 ∧ ws[i]? = some
        { addr := c, freed := [], bytes := leBytes 3 v.toNat ++ [2] ++ free ++ leBytes 3 t ++ leBytes 3 link ++ [last, 0] })
  ∧ (∀ (n a : Nat) (bs : List Byte), bs.length ≤ 16 * n → (writesOf n a bs).length = (bs.length + 15) / 16
    ∧ ∀ i : Nat, 16 * i < bs.length →
      (writesOf n a bs)[i]? = some { addr := a + 16 * i, bytes := (bs.drop (16 * i)).take 16, freed := [] })
  ∧ (∀ (v : Stroke) (vs : List Stroke) (c t : Nat) (cs ts : List Nat), tableWrites [] cs ts = []
    ∧ tableWrites (v :: vs) (c :: cs) (t :: ts) = writesOf 4 t (newTableBytes v c) ++ tableWrites vs cs ts)
  ∧ (∀ (s : State) (e : DefEntry) (k : Lookup) (path : List PlanStep) (b : Nat), s.du.work = .plan e k path → k.duRules = true →
    k.stage = .header → s.arb.inService = some { cls := .defn, op := .read k.table 8 } → b = (Memory.byteAt s.mem k.table).toNat →
    ∃ t, exec .defOperationEnd s = .next t
      ∧ (12 < b → PlanFaults s t e (.exponent, k.table))
      ∧ (b ≤ 12 → (memSize < k.table + tableBytes b ∨ s.dir.inCells k.table (tableBytes b) = false) →
        ∃ d, PlanFaults s t e d ∧ ((d = (.address, k.table) ∧ memSize < k.table + tableBytes b)
          ∨ (d = (.region, k.table) ∧ s.dir.inCells k.table (tableBytes b) = false))))
  ∧ (∀ (s : State) (e : DefEntry) (k : Lookup) (path : List PlanStep) (h : Nat), s.du.work = .plan e k path → k.duRules = true →
    k.stage = .head → s.arb.inService = some { cls := .defn, op := .read k.headAddr 3 } →
    h = fieldAt (s.mem.bytesAt k.headAddr 3) 0 3 → h ≠ 0 →
    ∃ t, exec .defOperationEnd s = .next t
      ∧ (h % 16 = 0 → s.dir.inCells h 16 = true →
          PlanGoesOn s t e { k with stage := .cell, head := h, cellAddr := h, place := k.place + 1, prev := none } path h 16)
      ∧ ((h % 16 ≠ 0 ∨ s.dir.inCells h 16 = false) →
        ∃ d, PlanFaults s t e d ∧ ((d = (.address, k.table) ∧ h % 16 ≠ 0) ∨ (d = (.region, h) ∧ s.dir.inCells h 16 = false))))
  ∧ (∀ (s : State) (e : DefEntry) (k : Lookup) (path : List PlanStep) (bs : List Byte) (c : CellData), s.du.work = .plan e k path →
    k.duRules = true → k.stage = .cell → s.arb.inService = some { cls := .defn, op := .read k.cellAddr 16 } →
    bs = s.mem.bytesAt k.cellAddr 16 → c = CellData.ofBytes bs →
    ∃ t, exec .defOperationEnd s = .next t
      ∧ (cellFaults s.dir k.layer k.cellAddr c ≠ [] → ∃ d ∈ cellFaults s.dir k.layer k.cellAddr c, PlanFaults s t e d)
      ∧ (cellFaults s.dir k.layer k.cellAddr c = [] →
        (c.stroke ≠ k.stroke.toNat → c.link ≠ 0 →
          (24 ≤ k.place → PlanFaults s t e (.chainLimit, k.table))
          ∧ (k.place < 24 → s.dir.inCells c.link 16 = true →
              PlanGoesOn s t e { k with cellAddr := c.link, place := k.place + 1, prev := some (k.cellAddr, bs) } path c.link 16)
          ∧ (k.place < 24 → s.dir.inCells c.link 16 = false → PlanFaults s t e (.region, c.link)))
        ∧ (c.stroke = k.stroke.toNat → path.length + 1 < e.strokes.length → c.hasNext = true → s.dir.inCells c.next 8 = false →
            PlanFaults s t e (.region, c.next))))
  ∧ ∀ (t c : Nat) (free : List Nat) (a : Alloc), free.Pairwise (fun x y => x < y) → (∀ x ∈ free, x % 16 = 0) →
    allocate t c free = some a →
    a.tables.length = t ∧ a.cells.length = c
    ∧ (∀ x ∈ a.tables, x ∈ free ∧ x + 16 ∈ free ∧ x + 32 ∈ free ∧ x + 48 ∈ free)
    ∧ (∀ x, a.tables.head? = some x → ∀ y ∈ free, y + 16 ∈ free → y + 32 ∈ free → y + 48 ∈ free → x ≤ y)
    ∧ (∀ x ∈ a.cells, x ∈ free ∧ (∀ y ∈ a.tables, x < y ∨ y + 48 < x) ∧ ∀ y ∈ a.free, x < y)
    ∧ ∀ x ∈ free, x ∈ a.cells ∨ x ∈ a.free ∨ ∃ y ∈ a.tables, y ≤ x ∧ x ≤ y + 48

/-- DEF_OPERATION_END in the CASE scan and the count rewrites of GO (R40, R41, R190, R191): while the scan has something to read, that
read is requested, after the next grant, and so is the first count rewrite (the model's choice, log 26); a fault is latched and GO
answered REFUSED with reason 6, no directory copy kept; a scan without fault sets the free cells to those nothing reached covers and the
heap top above the highest text, and with a header count to rewrite requests the first rewrite (their order is the model's choice, log
12). GO completes at the end of the scan where no count is to be rewritten, or else at the last rewrite (GoneOnline: R18, R104, R123,
R142, R166, R183, R191). What the scan reads (R40): of a sound cell whose stroke is new in its table, short of the chain limit, the table
it points into, or else its chain's next cell; its extent is reached, its text taken into the heap top; a cell whose stroke its table has
had is DUPLICATE, with the address of the cell read second. That a cell's table is entered before its chain goes on, and that address, are
the model's choices (log 12). A table's header count that differs from the cells found is rewritten (R41). -/
def Obligations.GoPutsTheNodeOnline : Prop :=
  (∀ (s : State) (w : PlannedWrite), s.mem.wf = true → s.du.work = .goCounts [w] →
    s.arb.inService = some { cls := .defn, op := .write w.addr w.bytes } → w.addr + w.bytes.length ≤ memSize →
    ∃ t, exec .defOperationEnd s = .next t
      ∧ SameBut [.mem, .du, .arb, .lcp, .cache, .kcu, .tb, .lnc, .cu, .roster, .pub, .vw, .sp] s t
      ∧ (∀ b, Memory.byteAt t.mem b =
          if w.addr ≤ b ∧ b < w.addr + w.bytes.length then w.bytes.getD (b - w.addr) 0 else Memory.byteAt s.mem b)
      ∧ t.du = { s.du with work := .idle } ∧ t.arb = s.arb.next ∧ GoneOnline s t)
  ∧ (∀ (s : State) (sc : Scan) (a n : Nat) (out : ScanOut), s.du.work = .goScan sc →
    s.arb.inService = some { cls := .defn, op := .read a n } → out = scanStep s.dir sc (s.mem.bytesAt a n) →
    (∀ b m sc', out = .read b m sc' →
      ∃ t, exec .defOperationEnd s = .next t ∧ SameBut [.du, .arb] s t ∧ t.du = { s.du with work := .goScan sc' }
        ∧ t.arb = s.arb.next.request { cls := .defn, op := .read b m })
    ∧ (∀ d, out = .fault d →
      ∃ t, exec .defOperationEnd s = .next t ∧ SameBut [.du, .arb, .lcp, .latches] s t
        ∧ t.du = { s.du with work := .idle, dir := none } ∧ t.arb = s.arb.next ∧ Answers t .refused [6]
        ∧ Latched s t 9 (.dictFault 0 d.1 d.2))
    ∧ (∀ sc' du, out = .done sc' →
      du = { s.du with freeCells := freeAfter s.dir sc'.reached, heapTop := some (sc'.textTop.getD s.dir.heapStart) } →
      (∀ w ws, sc'.fixes = w :: ws →
        ∃ t, exec .defOperationEnd s = .next t ∧ SameBut [.du, .arb] s t ∧ t.du = { du with work := .goCounts (w :: ws) }
          ∧ t.arb = s.arb.next.request { cls := .defn, op := .write w.addr w.bytes })
      ∧ (sc'.fixes = [] →
        ∃ t, exec .defOperationEnd s = .next t
          ∧ SameBut [.du, .arb, .lcp, .cache, .kcu, .tb, .lnc, .cu, .roster, .pub, .vw, .sp] s t
          ∧ t.du = { du with work := .idle } ∧ t.arb = s.arb.next ∧ GoneOnline s t)))
  ∧ (∀ (d : Directory) (sc : Scan) (a : Nat) (f : ScanTable) (rest : List ScanTable) (bs : List Byte) (c : CellData)
      (f' : ScanTable) (sc' : Scan), sc.want = .cell a → sc.tables = f :: rest → c = CellData.ofBytes bs → cellFaults d 0 a c = [] →
    f' = { f with link := c.link, place := f.place + 1, found := f.found + 1, strokes := c.stroke :: f.strokes } →
    sc' = { sc with tables := f' :: rest, reached := sc.reached ++ [(a, a + 16)],
                    textTop := if c.hasText = true then some (max (sc.textTop.getD 0) (c.text.addr + c.text.len)) else sc.textTop } →
    ((f.place + 1 < 24 ∨ c.link = 0) → c.stroke ∉ f.strokes →
      (c.hasNext = true → c.next % 16 = 0 → d.inCells c.next 8 = true → overlaps sc'.reached c.next 8 = false →
        scanStep d sc bs = .read c.next 8 { sc' with want := .header c.next })
      ∧ (c.hasNext = false → c.link ≠ 0 → d.inCells c.link 16 = true → overlaps sc'.reached c.link 16 = false →
        scanStep d sc bs = .read c.link 16 { sc' with want := .cell c.link }))
    ∧ ((f.place + 1 < 24 ∨ c.link = 0) → c.stroke ∈ f.strokes → scanStep d sc bs = .fault (.duplicate, a)))
  ∧ ∀ f : ScanTable, (f.found = f.headerCount → countFix f = [])
    ∧ (f.found ≠ f.headerCount → countFix f =
        [{ addr := f.table, bytes := BitVec.ofNat 8 f.exponent :: leBytes 2 f.found ++ [0, 0, 0, 0, 0], freed := [] }])

/-- FENCE_COMPLETE (R36, R38, R39, R47, R49, R50): the CASE entries of the stroke leave the Path Cache and the TE's requests in flight
are marked; after the last stroke the generation rises by one, the requests in flight are marked raise-seen and the pending buffer's
re-walk falls due (R72), the outcome is latched, a definition is handed for retranslation, or counted as lost past 8 handings (R74), and,
if shared, handed to the Publisher. With no FINISH in hand nothing changes (log 4). -/
def Obligations.FinishFencesEveryStroke : Prop :=
  (∀ (s : State) (e : DefEntry) (ref : TextRef) (v w : Stroke) (rest : List Stroke), v ≠ 0 →
    s.du.work = .finish e ref (v :: w :: rest) →
    ∃ t, exec .fenceComplete s = .next t ∧ SameBut [.cache, .te, .du] s t ∧ t.cache = s.cache.fence (.strokeLayer v 0)
      ∧ t.du = { s.du with work := .finish e ref (w :: rest) }
      ∧ t.te = s.te.marked fun m => { m with fenceSeen := true })
  ∧ (∀ (s : State) (e : DefEntry) (ref : TextRef) (v : Stroke), v ≠ 0 → s.du.work = .finish e ref [v] →
    ∃ u, exec .fenceComplete s = .next u.settled ∧ SameBut [.cache, .te, .du, .latches, .pub] s u
      ∧ u.cache = s.cache.fence (.strokeLayer v 0)
      ∧ u.du = { s.du with work := .idle, generation := s.du.generation + 1 }
      ∧ (e.kind = .forget → u.lcp = s.lcp.latched (.defineResult .forgotten (e.strokes.headD 0)) ∧ u.pub = s.pub
          ∧ u.te = s.te.fencedAndRaised)
      ∧ (e.kind = .define →
          u.lcp = s.lcp.latched (if e.source = 0 then .defineResult .done (e.strokes.headD 0) else .defineReceived .applied e.source)
          ∧ (s.te.handings.length < 8 →
              u.te = { s.te.fencedAndRaised with handings := s.te.handings ++ [{ strokes := e.strokes, ref := ref }] })
          ∧ (8 ≤ s.te.handings.length → u.te = { s.te.fencedAndRaised with retrLost := satSucc s.te.retrLost })
          ∧ (e.source = 0 ∧ e.share = true ∧ s.cfg.sharing.sends = true → s.cu.conflict = false → s.pub.defines.length < 8 →
              u.pub = { s.pub with
                        defines := s.pub.defines
                          ++ [{ number := s.pub.nextDefine, strokes := e.strokes, text := e.text, attempts := 0 }],
                        nextDefine := (s.pub.nextDefine + 1) % 256 })
          ∧ (¬ (e.source = 0 ∧ e.share = true ∧ s.cfg.sharing.sends = true) → u.pub = s.pub)))
  ∧ ∀ s : State, (∀ e ref v rest, s.du.work ≠ .finish e ref (v :: rest)) → exec .fenceComplete s = .next s

/-- DELIVER_DEFINE (R30, R144): the frame leaves the receive queue and restarts its station's lapse timer; from an ADMITTED station, where
sharing receives, a new and sound definition joins the definition queue with its source, rank and number; a repeated number is ignored;
an unsound one, or one for a full queue, is counted. -/
def Obligations.AReceivedDefinitionIsQueued : Prop :=
  ∀ (s : State) (f : Frame) (rest : List Frame) (i : Nat) (q : RosterSlot), s.lnc.queue = f :: rest → f.kind = .define →
    s.roster.indexOf f.station = some i → s.roster.slot i = some q → q.state = .admitted →
    ∃ t, exec .deliverDefine s = .next t ∧ SameBut [.lnc, .du, .roster] s t ∧ t.lnc = { s.lnc with queue := rest }
      ∧ (∀ j, j ≠ i → t.roster.slot j = s.roster.slot j) ∧ t.roster.refused = s.roster.refused
      ∧ (s.cfg.sharing.receives = true → q.lastDefine ≠ some (fieldAt f.body 1 1) → ∀ d, DefineBody.parse f.body = some d →
          s.du.queue.length < 8 →
          t.du = { s.du with queue := s.du.queue ++
                    [{ kind := .define, source := q.station, rank := d.rank, defNumber := some (fieldAt f.body 1 1),
                       strokes := d.strokes, text := d.text, share := false }] }
          ∧ t.roster.slot i =
              some { q with lapseAt := some (s.clock.ms + BitVec.ofNat 32 (1000 * s.cfg.lapseTime)), refreshedAt := s.clock.ms,
                            lastDefine := some (fieldAt f.body 1 1) })
      ∧ (s.cfg.sharing.receives = true → q.lastDefine ≠ some (fieldAt f.body 1 1) →
          (DefineBody.parse f.body = none ∨ 8 ≤ s.du.queue.length) →
          t.du = { s.du with receivedLost := satSucc s.du.receivedLost }
          ∧ t.roster.slot i =
              some { q with lapseAt := some (s.clock.ms + BitVec.ofNat 32 (1000 * s.cfg.lapseTime)), refreshedAt := s.clock.ms })
      ∧ ((s.cfg.sharing.receives = false ∨ q.lastDefine = some (fieldAt f.body 1 1)) → t.du = s.du
          ∧ t.roster.slot i =
              some { q with lapseAt := some (s.clock.ms + BitVec.ofNat 32 (1000 * s.cfg.lapseTime)), refreshedAt := s.clock.ms })

/-! ## The courtroom line -/

/-- CHARACTER_RECEIVED while nothing is driven (R106, R108, R110): a heading opens an assembly, later characters join it, damaged ones
marking it; a sound heading ends the frame before it, which is queued where it is good and accepted, counted where it is bad and left
uncounted where it is the node's own, and opens the next. In START no assembly is made. A character whose stop bit is at the idle level
leaves the line quiet from silence 0 (R105); after a damaged one the input is taken to stay at the start level, and the line stays busy from
the end of the character (the model's choice, log 18). -/
def Obligations.CharactersAssembleToFrames : Prop :=
  ∀ (h : Bool) (b : Byte) (ok : Bool) (s : State), s.lnc.slot.isDriving = false →
    ∃ t, exec (.characterReceived h b ok) s = .next t ∧ SameBut [.clock, .lnc, .sp, .tb, .pub, .latches] s t
      ∧ SameButCredit s.pub t.pub ∧ t.lnc.silence = 0 ∧ t.lnc.busySince = (if ok = true then none else some t.clock.chars)
      ∧ t.lnc.held = !ok ∧ t.lnc.driver = false
      ∧ (s.online = false → t.lnc.assembly = s.lnc.assembly ∧ t.lnc.queue = s.lnc.queue ∧ t.tb = s.tb)
      ∧ (s.online = true → s.lnc.assembly = none → h = false →
          t.lnc.assembly = none ∧ t.lnc.queue = s.lnc.queue ∧ t.tb = s.tb ∧ t.lnc.errors = s.lnc.errors)
      ∧ (s.online = true → s.lnc.assembly = none → h = true →
          t.lnc.assembly = some { bytes := [b], count := 1, damaged := !ok, own := false } ∧ t.lnc.queue = s.lnc.queue
          ∧ t.tb = s.tb ∧ t.lnc.errors = s.lnc.errors)
      ∧ (s.online = true → ∀ a, s.lnc.assembly = some a → (h = false ∨ ok = false) →
          t.lnc.assembly = some { a with bytes := if a.count < 363 then a.bytes ++ [b] else a.bytes, count := a.count + 1,
                                         damaged := a.damaged || !ok }
          ∧ t.lnc.queue = s.lnc.queue ∧ t.tb = s.tb ∧ t.lnc.errors = s.lnc.errors)
      ∧ (s.online = true → ∀ a, s.lnc.assembly = some a → h = true → ok = true →
          t.lnc.assembly = some { bytes := [b], count := 1, damaged := false, own := false }
          ∧ (∀ f, a.verdict = .good f → s.cfg.accepts f = true → s.lnc.queue.length < 8 → t.lnc.queue = s.lnc.queue ++ [f])
          ∧ (∀ f, a.verdict = .good f → s.cfg.accepts f = false → t.lnc.queue = s.lnc.queue ∧ t.lnc.errors = s.lnc.errors)
          ∧ (∀ x, a.verdict = .bad x → t.lnc.queue = s.lnc.queue ∧ t.lnc.errors = s.lnc.errors.raise x)
          ∧ (a.verdict = .own → t.lnc.queue = s.lnc.queue ∧ t.lnc.errors = s.lnc.errors))

/-- CHARACTER_RECEIVED while driving (R118 to R120, R129, R141): the character as sent lets the next one go, the driver staying on, and
after the last the frame leaves its source; any other ends the attempt: the driver is off, the aborted count rises, and the frame stays
with its source, to be tried again, until its sixth abort drops it with the transmit-dropped count raised; a custody frame stays, its
count stopping at 6, also where a newer one of its kind waits behind it (the model's choice, log 37); a TAIL is discarded without count
where a newer image waits or TAILs are not allowed; an aborted STATION takes the waiting place (the model's choice, log 14). For a TAIL or
LINE the credit is brought up to date and the cost but for the characters sent is handed back, to 800 at most. The characters read so far
are a frame of another node's from then on (R119): a mismatch that is a sound heading ends them as such, and opens the next frame; any
other joins them. The slot then chooses again. -/
def Obligations.TheEchoDecidesTheAttempt : Prop :=
  ∀ (h : Bool) (b : Byte) (ok : Bool) (s : State) (x : Source) (chars : List (Bool × Byte)) (sent : Nat), s.online = true →
    s.lnc.slot = .driving x chars sent →
    ((ok = true ∧ chars[sent]? = some (h, b)) → sent + 1 < chars.length →
      ∃ t, exec (.characterReceived h b ok) s = .next t ∧ SameBut [.clock, .lnc, .sp, .tb, .latches] s t
        ∧ t.lnc.slot = .driving x chars (sent + 1) ∧ t.lnc.busySince = some t.clock.chars ∧ t.lnc.driver = true
        ∧ t.lnc.aborted = s.lnc.aborted)
    ∧ ((ok = true ∧ chars[sent]? = some (h, b)) → chars.length ≤ sent + 1 →
      ∃ u, exec (.characterReceived h b ok) s = .next u.choose ∧ SameBut [.clock, .lnc, .sp, .tb, .latches, .pub, .vw] s u
        ∧ u.lnc.slot = .empty ∧ u.lnc.driver = false ∧ u.lnc.aborted = s.lnc.aborted ∧ u.lnc.txDropped = s.lnc.txDropped
        ∧ u.lnc.custodyList = (if x = .custody then s.lnc.custodyList.drop 1 else s.lnc.custodyList)
        ∧ u.vw = (if x = .ask then { s.vw with asks := s.vw.asks.drop 1 } else s.vw)
        ∧ u.pub = (match x with
            | .station => { s.pub with stationInFlight := none }
            | .tail => { s.pub with tailInFlight := none }
            | .line => { s.pub with lineQueue := s.pub.lineQueue.drop 1 }
            | .define => { s.pub with defines := s.pub.defines.drop 1 }
            | .answer n => { s.pub with answers := s.pub.answers.filter fun a => decide (a.number ≠ n) }
            | _ => s.pub))
    ∧ (¬ (ok = true ∧ chars[sent]? = some (h, b)) →
      ∃ u, exec (.characterReceived h b ok) s = .next u.choose ∧ SameBut [.clock, .lnc, .sp, .tb, .latches, .pub, .vw] s u
        ∧ u.lnc.slot = .empty ∧ u.lnc.driver = false ∧ u.lnc.aborted = satSucc s.lnc.aborted
        ∧ (x ≠ .custody → u.lnc.custodyList = s.lnc.custodyList) ∧ (x ≠ .ask → u.vw = s.vw)
        ∧ (match x with
          | .custody => u.pub = s.pub ∧ u.lnc.txDropped = s.lnc.txDropped
              ∧ ∀ e es, s.lnc.custodyList = e :: es →
                u.lnc.custodyList = { e with attempts := min 6 (e.attempts + 1) } :: es
          | .station => ∀ n, s.pub.stationInFlight = some n →
              TriedOrDropped s u n (u.pub = { s.pub with stationInFlight := none, stationWaiting := some (n + 1) })
                (u.pub = { s.pub with stationInFlight := none })
          | .line => ∀ e es, s.pub.lineQueue = e :: es →
              TriedOrDropped s u e.attempts
                (SameButCredit { s.pub with lineQueue := { e with attempts := e.attempts + 1 } :: es } u.pub)
                (SameButCredit { s.pub with lineQueue := es } u.pub)
          | .define => ∀ e es, s.pub.defines = e :: es →
              TriedOrDropped s u e.attempts (u.pub = { s.pub with defines := { e with attempts := e.attempts + 1 } :: es })
                (u.pub = { s.pub with defines := es })
          | .answer n => ∀ e, s.pub.answers.find? (fun y => decide (y.number = n)) = some e →
              TriedOrDropped s u e.attempts
                (SameButCredit { s.pub with answers := s.pub.answers.map fun y =>
                  if y.number = n then { y with attempts := e.attempts + 1 } else y } u.pub)
                (SameButCredit { s.pub with answers := s.pub.answers.filter fun y => decide (y.number ≠ n) } u.pub)
          | .ask => u.pub = s.pub ∧ ∀ e es, s.vw.asks = e :: es →
              TriedOrDropped s u e.attempts (u.vw = { s.vw with asks := { e with attempts := e.attempts + 1 } :: es })
                (u.vw = { s.vw with asks := es })
          | .tail => ∀ e, s.pub.tailInFlight = some e →
              ((s.pub.tailWaiting ≠ none ∨ s.tailsAllowed = false) →
                SameButCredit { s.pub with tailInFlight := none } u.pub ∧ u.lnc.txDropped = s.lnc.txDropped)
              ∧ (s.pub.tailWaiting = none → s.tailsAllowed = true → TriedOrDropped s u e.attempts
                  (SameButCredit { s.pub with tailInFlight := none, tailWaiting := some { e with attempts := e.attempts + 1 } } u.pub)
                  (SameButCredit { s.pub with tailInFlight := none } u.pub)))
        ∧ (x.metered = true → ∀ upd back,
            upd = creditAfter s.pub.credit s.pub.remainder s.pub.share (u.clock.chars - s.pub.creditMark) →
            back = chars.length + 2 - (sent + 1) →
            u.pub.creditMark = u.clock.chars
            ∧ (u.pub.credit, u.pub.remainder) = if 800 < upd.1 + back then (800, 0) else (upd.1 + back, upd.2))
        ∧ (∀ a, s.lnc.assembly = some a → (h = false ∨ ok = false) →
            u.lnc.assembly = some ({ a with own := false }.join b (!ok)) ∧ u.lnc.queue = s.lnc.queue ∧ u.lnc.errors = s.lnc.errors)
        ∧ (∀ a a', s.lnc.assembly = some a → h = true → ok = true → a' = { a with own := false } →
            u.lnc.assembly = some { bytes := [b], count := 1, damaged := false, own := false }
            ∧ (∀ y, a'.verdict = .bad y → u.lnc.queue = s.lnc.queue ∧ u.lnc.errors = s.lnc.errors.raise y)
            ∧ (∀ f, a'.verdict = .good f → s.cfg.accepts f = true → s.lnc.queue.length < 8 →
                u.lnc.queue = s.lnc.queue ++ [f])))

/-- START_BIT_SEEN (R105, R114) and TURNAROUND_GUARD_EXPIRY (R113): the start level makes a quiet line busy; its end without a character,
or after a damaged one (log 18), makes it quiet from silence 0, but never while the node's driver is on. At the guard's expiry the quiet
point is reached at the silence of that moment, not below 3; where the expiry lies in the past, the row acts at the present time (log
3). -/
def Obligations.StartBitsAndGuardsMoveTheQuietPoint : Prop :=
  (∀ s : State, ∃ t, exec (.startBitSeen true) s = .next t ∧ SameBut [.lnc] s t
      ∧ t.lnc = { s.lnc with busySince := some (s.lnc.busySince.getD s.clock.chars) })
  ∧ (∀ s : State, ∃ t, exec (.startBitSeen false) s = .next t ∧ SameBut [.lnc] s t
      ∧ t.lnc = (if s.lnc.busySince = none ∨ s.lnc.driver = true then s.lnc
                 else { s.lnc with busySince := none, held := false, silence := 0, quiet := none }))
  ∧ ∀ (s : State) (g : Nat), s.lnc.guardAt = some g →
      ∃ t, exec .turnaroundGuardExpiry s = .next t ∧ SameBut [.clock, .lnc, .sp] s t
        ∧ t.clock.chars = max s.clock.chars g
        ∧ t.lnc = { s.lnc with guardAt := none, silence := t.lnc.silence, quiet := t.lnc.quiet }
        ∧ t.lnc.silence = (if s.lnc.busySince = none then s.lnc.silence + (g - s.clock.chars) else s.lnc.silence)
        ∧ t.lnc.quiet = (if s.lnc.busySince = none ∧ 3 ≤ t.lnc.silence then some (max 3 (t.lnc.silence - (s.clock.chars - g))) else none)

/-- FRAME_END_BY_SILENCE (R106, R108 to R110, R112, R113): at silence 2 the frame ends and the guard runs to silence 4; a good frame
reports its record line to the horizon whoever it is for, and joins the receive queue where it is accepted, or is lost as an overrun;
a bad one raises its count, LINE_ERRORS at every 64th; the node's own frame raises none. The clock comes to silence 2, or stays where that
is past (the model's choice, log 3). The line reported (R109): a RECORD TAIL's or a STATION's committed line, a LINE's number, and of a
RELEASE the greater of its last number and the line before its next (next 0 counts as no line before it, the model's choice, log 29); the
four other kinds report none. -/
def Obligations.AnEndedFrameIsFinished : Prop :=
  (∀ (s : State) (a : Assembly), s.lnc.assembly = some a → s.lnc.busySince = none →
    ∃ t, exec .frameEndBySilence s = .next t ∧ SameBut [.clock, .lnc, .sp, .tb, .latches] s t
      ∧ t.clock.chars = s.clock.chars + (2 - s.lnc.silence)
      ∧ t.lnc.assembly = none ∧ t.lnc.quiet = none ∧ t.lnc.silence = max 2 s.lnc.silence
      ∧ t.lnc.guardAt = some (t.clock.chars + (4 - max 2 s.lnc.silence))
      ∧ (∀ f, a.verdict = .good f →
          t.tb = (match f.report with
            | some n => { s.tb with horizon := max s.tb.horizon n }
            | none => s.tb)
          ∧ (s.cfg.accepts f = true → s.lnc.queue.length < 8 →
              t.lnc.queue = s.lnc.queue ++ [f] ∧ t.lnc.errors = s.lnc.errors ∧ t.lcp = s.lcp)
          ∧ (s.cfg.accepts f = true → 8 ≤ s.lnc.queue.length →
              t.lnc.queue = s.lnc.queue ∧ t.lnc.errors = s.lnc.errors.raise .overrun)
          ∧ (s.cfg.accepts f = false → t.lnc.queue = s.lnc.queue ∧ t.lnc.errors = s.lnc.errors ∧ t.lcp = s.lcp))
      ∧ (∀ x, a.verdict = .bad x →
          t.tb = s.tb ∧ t.lnc.queue = s.lnc.queue ∧ t.lnc.errors = s.lnc.errors.raise x
          ∧ (t.lnc.errors.total % 64 = 0 → Latched s t 16 (.lineErrors t.lnc.errors.total))
          ∧ (t.lnc.errors.total % 64 ≠ 0 → t.lcp = s.lcp))
      ∧ (a.verdict = .own → t.tb = s.tb ∧ t.lnc.queue = s.lnc.queue ∧ t.lnc.errors = s.lnc.errors ∧ t.lcp = s.lcp))
  ∧ ∀ f : Frame,
    (f.kind = .tail → f.report = if fieldAt f.body 1 1 = 1 then some (fieldAt f.body 3 3) else none)
    ∧ (f.kind = .line → f.report = some (fieldAt f.body 1 3))
    ∧ (f.kind = .station → f.report = some (fieldAt f.body 7 3))
    ∧ (f.kind = .release → f.report = some (max (fieldAt f.body 2 3) (fieldAt f.body 5 3 - 1)))
    ∧ ((f.kind = .claim ∨ f.kind = .refuse ∨ f.kind = .define ∨ f.kind = .ask) → f.report = none)

/-- TRANSMIT_START (R114, R117, R125, R140): on a line clear to send, the frame of the slot starts at the silence of its quiet point,
its class base and its station's backoff; its characters are driven from the first; a STATION or TAIL leaves its waiting place; a
metered frame pays its cost from the credit brought up to date. The frame of the slot (R115) is chosen anew while nothing is driven: a
custody frame, a STATION, the first LINE, a DEFINE, the first answer, an ASK, a TAIL, in this order, a LINE, answer or TAIL only where the
credit covers its cost (R140), the first LINE or answer holding back those of its queue behind it; under CONFLICT a STATION alone (R121).
Where the choice asks for the credit, it is brought up to date (R139). While a frame is driven the slot stays, and a choice that comes to
a TAIL or LINE updates the credit all the same: what it comes to are the frames that wait beside the one in flight (the model's choice,
log 41). The start has changed the slot, so the choice is made again after it. In START nothing is chosen. -/
def Obligations.ATransmitStartDrivesTheFrame : Prop :=
  (∀ (s : State) (x : Source) (f : Frame), s.lnc.slot = .waiting x → s.lnc.clearToSend = true → s.frameOf x = some f →
    ∃ t, exec .transmitStart s = .next t.choose ∧ SameBut [.clock, .lnc, .sp, .pub] s t
      ∧ t.lnc.silence = max s.lnc.silence (s.lnc.quiet.getD 3 + x.backoffBase + s.own * (s.attemptsOf x + 1))
      ∧ t.clock.chars + s.lnc.silence = s.clock.chars + t.lnc.silence
      ∧ t.lnc.slot = .driving x f.chars 0 ∧ t.lnc.busySince = some t.clock.chars ∧ t.lnc.driver = true
      ∧ t.lnc.queue = s.lnc.queue ∧ t.lnc.custodyList = s.lnc.custodyList
      ∧ t.pub.lineQueue = s.pub.lineQueue ∧ t.pub.answers = s.pub.answers ∧ t.pub.defines = s.pub.defines
      ∧ t.pub.stationWaiting = (if x = .station then none else s.pub.stationWaiting)
      ∧ t.pub.stationInFlight = (if x = .station then s.pub.stationWaiting else s.pub.stationInFlight)
      ∧ t.pub.tailWaiting = (if x = .tail then none else s.pub.tailWaiting)
      ∧ t.pub.tailInFlight = (if x = .tail then s.pub.tailWaiting else s.pub.tailInFlight)
      ∧ (x.metered = false → t.pub.credit = s.pub.credit)
      ∧ (x.metered = true → t.pub.creditMark = t.clock.chars
          ∧ t.pub.credit = (creditAfter s.pub.credit s.pub.remainder s.pub.share (t.clock.chars - s.pub.creditMark)).1 - f.cost))
  ∧ (∀ s : State, s.online = false → s.choose = s)
  ∧ (∀ (s : State) (x : Source) (chars : List (Bool × Byte)) (sent : Nat) (upd : Nat × Nat), s.online = true →
      s.lnc.slot = .driving x chars sent →
      upd = creditAfter s.pub.credit s.pub.remainder s.pub.share (s.clock.chars - s.pub.creditMark) →
      s.choose =
        if s.cu.conflict = false ∧ s.lnc.custodyList.drop (if x = .custody then 1 else 0) = [] ∧ s.pub.stationWaiting = none
            ∧ (s.pub.lineQueue.drop (if x = .line then 1 else 0) ≠ []
              ∨ (s.pub.defines.drop (if x = .define then 1 else 0) = []
                ∧ (s.pub.answers.filter (fun a => decide (x ≠ .answer a.number)) ≠ []
                  ∨ (s.vw.asks.drop (if x = .ask then 1 else 0) = [] ∧ s.pub.tailWaiting ≠ none)))) then
          s.setPub { s.pub with credit := upd.1, remainder := upd.2, creditMark := s.clock.chars }
        else s)
  ∧ ∀ (s : State) (upd : Nat × Nat), s.online = true → s.lnc.slot.isDriving = false →
      upd = creditAfter s.pub.credit s.pub.remainder s.pub.share (s.clock.chars - s.pub.creditMark) →
      SameBut [.lnc, .pub] s s.choose
      ∧ s.choose.lnc = { s.lnc with slot :=
          if s.cu.conflict = true then (if s.pub.stationWaiting = none then .empty else .waiting .station)
          else if s.lnc.custodyList ≠ [] then .waiting .custody
          else if s.pub.stationWaiting ≠ none then .waiting .station
          else if (s.pub.lineQueue.head?.any fun e => decide ((e.frame s.cfg).body.length + 5 ≤ upd.1)) = true then .waiting .line
          else if s.pub.defines ≠ [] then .waiting .define
          else if (s.pub.answers.head?.any fun a => decide ((a.frame s.cfg).body.length + 5 ≤ upd.1)) = true then
            (.waiting (.answer ((s.pub.answers.head?.map Answer.number).getD 0)))
          else if s.vw.asks ≠ [] then .waiting .ask
          else if (s.pub.tailWaiting.any fun x => decide ((tailFrame s.cfg x).body.length + 5 ≤ upd.1)) = true then .waiting .tail
          else .empty }
      ∧ s.choose.pub =
          (if s.cu.conflict = false ∧ s.lnc.custodyList = [] ∧ s.pub.stationWaiting = none
              ∧ (s.pub.lineQueue ≠ []
                ∨ (s.pub.defines = [] ∧ (s.pub.answers ≠ [] ∨ (s.vw.asks = [] ∧ s.pub.tailWaiting ≠ none)))) then
             { s.pub with credit := upd.1, remainder := upd.2, creditMark := s.clock.chars }
           else s.pub)

/-! ## The Publisher -/

/-- CREDIT_REACH (R139): the clock comes to the first character time at which the credit covers the least waiting cost it was short of (at
every earlier one it does not), an update is made, the credit then covers that cost, and the slot chooses again. At share 0, with no cost
held, or for a cost above 800, there is no such moment and nothing changes (log 4). The costs held are those above the credit of the TAIL,
LINE and answer frames that wait, at the head of their source or behind it, the one in flight not among them; an update on the way changes
no later one. BEACON_TIMER_EXPIRY (R124): at the expiry a STATION is ready and the timer runs 500 ms again.
REFRESH_TIMER_EXPIRY (R129): at the expiry, where TAILs are allowed, a new image of the open region waits and the timer runs 2 s again;
otherwise it stops. Where the moment is past, each acts at the present time (the model's choice, log 3). -/
def Obligations.ThePublishersTimersActInTime : Prop :=
  ((∀ (s : State) (cost : Nat), s.heldCosts.min? = some cost → s.pub.share ≠ 0 → cost ≤ 800 →
    ∃ u, exec .creditReach s = .next u.choose ∧ SameBut [.clock, .lnc, .sp, .pub] s u ∧ SameButCredit s.pub u.pub
      ∧ u.clock = (s.reachChars (s.reachAt cost)).clock
      ∧ (∀ d, s.pub.creditMark + d < s.reachAt cost → (creditAfter s.pub.credit s.pub.remainder s.pub.share d).1 < cost)
      ∧ cost ≤ u.pub.credit ∧ u.pub.creditMark = u.clock.chars
      ∧ u.pub.credit = (creditAfter s.pub.credit s.pub.remainder s.pub.share (u.clock.chars - s.pub.creditMark)).1
      ∧ u.pub.remainder = (creditAfter s.pub.credit s.pub.remainder s.pub.share (u.clock.chars - s.pub.creditMark)).2)
  ∧ (∀ s : State, (s.pub.share = 0 ∨ s.heldCosts = []) → exec .creditReach s = .next s)
  ∧ (∀ (s : State) (cost : Nat), s.heldCosts.min? = some cost → 800 < cost → exec .creditReach s = .next s)
  ∧ (∀ (s : State) (cost : Nat), cost ∈ s.heldCosts ↔ s.pub.credit < cost
      ∧ ((∃ e ∈ s.pub.lineQueue.drop (if s.lnc.slot.inFlight = some .line then 1 else 0), (e.frame s.cfg).body.length + 5 = cost)
        ∨ (∃ a ∈ s.pub.answers, s.lnc.slot.inFlight ≠ some (.answer a.number) ∧ (a.frame s.cfg).body.length + 5 = cost)
        ∨ ∃ x, s.pub.tailWaiting = some x ∧ (tailFrame s.cfg x).body.length + 5 = cost))
  ∧ ∀ c f share a b : Nat,
    creditAfter (creditAfter c f share a).1 (creditAfter c f share a).2 share b = creditAfter c f share (a + b))
  ∧ ((∀ (s : State) (e : Ms), s.pub.beaconAt = some e →
    ∃ t, exec .beaconTimerExpiry s = .next t ∧ SameBut [.clock, .lnc, .sp, .pub] s t ∧ t.clock = (s.reachMs e).clock
      ∧ SameButCredit { s.pub with stationWaiting := some 0, beaconAt := some (t.clock.ms + 500) } t.pub)
  ∧ ∀ (s : State) (e : Ms), s.pub.refreshAt = some e →
    ∃ t, exec .refreshTimerExpiry s = .next t ∧ SameBut [.clock, .lnc, .sp, .pub] s t ∧ t.clock = (s.reachMs e).clock
      ∧ SameButCredit
          (if 0 < s.pub.ownWeight ∧ s.pub.muted = false ∧ s.cu.conflict = false then
             { s.pub with
               refreshAt := some (t.clock.ms + 2000),
               tailWaiting := some { series := s.tb.series, custody := s.cu.state, committed := s.tb.committedThrough,
                                     firstOpen := s.tb.firstOpen, lines := s.tb.region.lines, attempts := 0 } }
           else { s.pub with refreshAt := none }) t.pub)

/-- DELIVER_ASK (R132): a sound ASK for 1 to 8 lines adds to the answer set, while it has room for 32, each number of the range that is a
record line and not in it yet, with the line of the committed ring or GONE; each that finds no room is counted as dropped; what was in the
set stays, nothing else enters it, and its order by number is kept. Under CONFLICT, with another count, or of another form, nothing is
added. -/
def Obligations.AnAskFillsTheAnswerSet : Prop :=
  ∀ (s : State) (f : Frame) (rest : List Frame), s.lnc.queue = f :: rest → f.kind = .ask →
    ∃ u, exec .deliverAsk s = .next u.choose ∧ SameBut [.lnc, .pub] s u ∧ u.lnc = { s.lnc with queue := rest }
      ∧ u.pub = { s.pub with answers := u.pub.answers, answersDropped := u.pub.answersDropped }
      ∧ (AskBody.parse f.body = none → u.pub = s.pub)
      ∧ (∀ a, AskBody.parse f.body = some a → (s.cu.conflict = true ∨ a.count = 0 ∨ 8 < a.count ∨ a.first = 0) → u.pub = s.pub)
      ∧ ∀ a, AskBody.parse f.body = some a → s.cu.conflict = false → 1 ≤ a.count → a.count ≤ 8 → 1 ≤ a.first →
        ∀ new room, new = (List.range' a.first a.count).filter
              (fun n => decide (n ≤ maxLine) && decide (∀ y ∈ s.pub.answers, y.number ≠ n)) →
          room = 32 - s.pub.answers.length →
          (∀ x, x ∈ u.pub.answers ↔ x ∈ s.pub.answers ∨ ∃ n ∈ new.take room, x.number = n ∧ x.attempts = 0 ∧ x.form =
              match s.tb.ring.find? fun l => decide (l.series = .record) && decide (l.number = n) with
              | some l => .held l.brk l.text
              | none => .gone)
          ∧ u.pub.answers.length = s.pub.answers.length + (new.take room).length
          ∧ (s.pub.answers.Pairwise (fun x y => x.number < y.number) → u.pub.answers.Pairwise fun x y => x.number < y.number)
          ∧ u.pub.answersDropped = satSucc^[new.length - room] s.pub.answersDropped

/-! ## The roster and custody -/

/-- DELIVER_STATION of another station (R143 to R145): it finds its slot or enters the lowest free one; the slot takes the announced
fields and the signature, restarts the lapse timer, and its state follows the signatures: two equal ones admit or exclude, a changed one
or a lapsed slot starts anew as HEARD, then without its lapsed-at time (the model's choice, log 35). With sixteen other stations held,
the one lapsed longest makes place; with none lapsed it is refused. At the Custody Unit: a holder yields to a better one it admits (R164):
the open lines are committed, the series is DRAFT, the state SHADOW, the claims and the hand-over are gone, CUSTODY_CHANGED tells the
cause YIELDED. Otherwise a claimer that announces another state than CLAIMING, or is not ADMITTED, leaves the claim list in GATHERING,
and the node is ON_RECORD again when the list is empty (R158). An admitted ON_RECORD clears the record-closed flag (R163). -/
def Obligations.AStationIsTakenIntoItsSlot : Prop :=
  ∀ (s : State) (f : Frame) (rest : List Frame) (b : StationBody), s.lnc.queue = f :: rest → f.kind = .station →
    StationBody.parse f.body = some b → b.station ≠ s.own → 1 ≤ b.station → b.station ≤ 30 →
    (∀ i q, s.roster.indexOf b.station = some i → s.roster.slot i = some q →
      ∃ t q', exec .deliverStation s = .next t ∧ SameBut [.lnc, .roster, .tb, .cu, .pub, .vw, .latches, .sp] s t
        ∧ t.lnc.queue = rest ∧ t.roster.slot i = some q' ∧ (∀ j, j ≠ i → t.roster.slot j = s.roster.slot j)
        ∧ t.roster.refused = s.roster.refused
        ∧ q' = { q with newer := some b.sig, older := q'.older, roles := b.roles, custody := b.custody, rank := b.rank,
                        flags := b.flags, horizon := b.horizon, share := b.share, refreshedAt := s.clock.ms,
                        lapseAt := some (s.clock.ms + BitVec.ofNat 32 (1000 * s.cfg.lapseTime)),
                        state := q'.state, freeAt := q'.freeAt, lapsedAt := q'.lapsedAt }
        ∧ q'.state = (if q.state = .lapsed then .heard
                      else if q.newer = some b.sig then
                        (if q.state = .heard then (if b.sig = s.pub.signature then .admitted else .excluded) else q.state)
                      else .heard)
        ∧ (q.state = .lapsed → q'.older = none ∧ q'.freeAt = none ∧ q'.lapsedAt = none)
        ∧ (q.state ≠ .lapsed → q'.older = q.newer ∧ q'.freeAt = q.freeAt ∧ q'.lapsedAt = q.lapsedAt)
        ∧ (q'.state = .admitted → q.state ≠ .admitted → Latched s t 15 (.rosterChanged q.station .admitted))
        ∧ (q'.state = .excluded → q.state ≠ .excluded → Latched s t 15 (.rosterChanged q.station .excluded))
        ∧ (Coherent s → ∀ closed better', closed = (if q'.state = .admitted ∧ b.custody = .onRecord then false else s.cu.recordClosed) →
            better' = (decide (q'.state = .admitted) && b.custody.holds && s.cu.state.holds
              && better b.rank b.station s.cfg.rank s.own) →
            (better' = true →
              t.cu = { s.cu with state := .shadow, handOver := .none, claims := [], settleAt := none, recordClosed := closed }
              ∧ t.tb.series = .draft ∧ t.tb.nextRecord = none ∧ (∃ f, t.tb.region = Region.empty f) ∧ t.pub.stationWaiting = some 0
              ∧ Latched s t 4 (.custodyChanged .yielded b.station 0))
            ∧ (better' = false → t.tb = s.tb
              ∧ ((s.cu.handOver ≠ .gathering ∨ (∀ x ∈ s.cu.claims, x.station ≠ b.station)
                  ∨ (b.custody = .claiming ∧ q'.state = .admitted)) → t.cu = { s.cu with recordClosed := closed })
              ∧ (s.cu.handOver = .gathering → (∃ x ∈ s.cu.claims, x.station = b.station) →
                  (b.custody ≠ .claiming ∨ q'.state ≠ .admitted) → ∀ left,
                  left = s.cu.claims.filter (fun x => decide (x.station ≠ b.station)) →
                  (left ≠ [] → t.cu = { s.cu with recordClosed := closed, claims := left })
                  ∧ (left = [] → t.pub.stationWaiting = some 0
                      ∧ t.cu = { s.cu with recordClosed := closed, claims := [], settleAt := none, handOver := .none,
                                           state := .onRecord })))))
    ∧ (∀ i, s.roster.indexOf b.station = none → s.roster.freeSlot = some i →
      ∃ t, exec .deliverStation s = .next t ∧ SameBut [.lnc, .roster, .tb, .cu, .pub, .vw, .latches, .sp] s t
        ∧ t.lnc.queue = rest ∧ (∀ j, j ≠ i → t.roster.slot j = s.roster.slot j)
        ∧ t.roster.slot i =
            some { station := b.station, state := .heard, newer := some b.sig, older := none, roles := b.roles,
                   custody := b.custody, rank := b.rank, flags := b.flags, horizon := b.horizon, share := b.share,
                   lapseAt := some (s.clock.ms + BitVec.ofNat 32 (1000 * s.cfg.lapseTime)), freeAt := none, lapsedAt := none,
                   refreshedAt := s.clock.ms, lastDefine := none })
    ∧ (∀ i q, s.roster.indexOf b.station = none → s.roster.freeSlot = none → s.roster.oldestLapsed s.clock.ms = some i →
      s.roster.slot i = some q →
      ∃ t, exec .deliverStation s = .next t ∧ SameBut [.lnc, .roster, .tb, .cu, .pub, .vw, .latches, .sp] s t
        ∧ t.lnc.queue = rest ∧ (∀ j, j ≠ i → t.roster.slot j = s.roster.slot j)
        ∧ (∃ q', t.roster.slot i = some q' ∧ q'.station = b.station ∧ q'.state = .heard ∧ q'.newer = some b.sig ∧ q'.older = none)
        ∧ t.vw.tail i = none ∧ Latched s t 15 (.rosterChanged q.station .removed))
    ∧ (s.roster.indexOf b.station = none → s.roster.freeSlot = none → s.roster.oldestLapsed s.clock.ms = none →
      ∃ u, exec .deliverStation s = .next u.offered ∧ SameBut [.lnc, .roster] s u ∧ u.lnc = { s.lnc with queue := rest }
        ∧ u.roster = { s.roster with refused := satSucc s.roster.refused })

/-- DELIVER_STATION with the node's own number (R121, R135, R148, R149): STATION_CONFLICT is latched; at the first, CONFLICT is set, the
node goes IDLE and out of RECORD, and every list of frames to send but the STATION is emptied. A frame being driven, unless it is a STATION,
is cut off (R121): its transmission ends at the end of the character, the driver staying on until then, it leaves its source and is counted,
and of a metered one the cost of the characters not sent is handed back, to 800 at most; what was read of it is a frame of another node's
from then on. A STATION then waits in the slot (R115). -/
def Obligations.AStationWithTheOwnNumberIsAConflict : Prop :=
  ∀ (s : State) (f : Frame) (rest : List Frame) (b : StationBody), s.lnc.queue = f :: rest → f.kind = .station →
    StationBody.parse f.body = some b → b.station = s.own →
    (s.cu.conflict = false →
      ∃ t, exec .deliverStation s = .next t ∧ SameBut [.lnc, .tb, .cu, .pub, .vw, .latches, .sp] s t
        ∧ t.lnc.queue = rest ∧ t.lnc.custodyList = [] ∧ Latched s t 1 (.stationConflict s.own)
        ∧ t.cu = { s.cu with conflict := true, state := .idle, claims := [], settleAt := none, claimAt := none, prior := none,
                             handOver := .none }
        ∧ t.pub.lineQueue = [] ∧ t.pub.answers = [] ∧ t.pub.defines = [] ∧ t.pub.tailWaiting = none ∧ t.pub.stationWaiting = some 0
        ∧ t.vw.asks = []
        ∧ (s.cu.state.holds = true → t.tb.series = .draft ∧ Latched s t 4 (.custodyChanged .conflict s.own 0))
        ∧ t.lnc.driver = s.lnc.driver ∧ t.lnc.busySince = s.lnc.busySince
        ∧ (s.lnc.slot.isDriving = false → t.lnc.slot = (if s.online = true then .waiting .station else .empty)
            ∧ t.lnc.cutOff = s.lnc.cutOff ∧ t.lnc.assembly = s.lnc.assembly)
        ∧ (∀ chars sent, s.lnc.slot = .driving .station chars sent →
            t.lnc.slot = s.lnc.slot ∧ t.lnc.cutOff = s.lnc.cutOff ∧ t.lnc.assembly = s.lnc.assembly)
        ∧ ∀ x chars sent, s.lnc.slot = .driving x chars sent → x ≠ .station →
            t.lnc.slot = (if s.online = true then .waiting .station else .empty) ∧ t.lnc.cutOff = satSucc s.lnc.cutOff
            ∧ t.lnc.assembly = (s.lnc.assembly.map fun a => { a with own := false })
            ∧ (x = .tail → t.pub.tailInFlight = none)
            ∧ (x.metered = true → ∀ upd, upd = creditAfter s.pub.credit s.pub.remainder s.pub.share (s.clock.chars - s.pub.creditMark) →
                t.pub.credit = min 800 (upd.1 + (chars.length + 2 - (sent + 1)))))
    ∧ (s.cu.conflict = true →
      ∃ u, exec .deliverStation s = .next u.offered ∧ SameBut [.lnc, .latches] s u ∧ u.lnc = { s.lnc with queue := rest }
        ∧ u.lcp = s.lcp.latched (.stationConflict s.own))

/-- LAPSE_TIMER_EXPIRY and FREE_TIMER_EXPIRY of a slot (R146): the slot is LAPSED, to be freed 30 s later; then it is freed, its mark and
tail image with it. ROSTER_CHANGED tells each. At either the readers are told (R147): a listed claimer leaves the claim list in GATHERING,
and the node is ON_RECORD again when the list is empty (R158); the weight sum, the share and MUTED are those of the roster as it now is
(R138); the followed holder is chosen anew, a change being told (R169). The clock comes to the expiry, or stays where that is past (log
3). -/
def Obligations.SlotsLapseAndAreFreed : Prop :=
  (∀ (s : State) (i : Nat) (q : RosterSlot) (e : Ms), slotOk i = true → s.roster.slot i = some q → q.lapseAt = some e →
    ∃ t, exec (.lapseTimerExpiry i) s = .next t ∧ SameBut [.clock, .lnc, .sp, .roster, .vw, .pub, .cu, .latches] s t
      ∧ t.clock = (s.reachMs e).clock
      ∧ t.roster.slot i = some { q with state := .lapsed, lapseAt := none, lapsedAt := some t.clock.ms,
                                        freeAt := some (t.clock.ms + 30000) }
      ∧ (∀ j, j ≠ i → t.roster.slot j = s.roster.slot j) ∧ t.vw.mark i = .none
      ∧ Latched s t 15 (.rosterChanged q.station .lapsed) ∧ ToldLeft s t q.station)
  ∧ ∀ (s : State) (i : Nat) (q : RosterSlot) (e : Ms), slotOk i = true → s.roster.slot i = some q → q.freeAt = some e →
    ∃ t, exec (.freeTimerExpiry i) s = .next t ∧ SameBut [.clock, .lnc, .sp, .roster, .vw, .pub, .cu, .latches] s t
      ∧ t.clock = (s.reachMs e).clock
      ∧ t.roster.slot i = none ∧ (∀ j, j ≠ i → t.roster.slot j = s.roster.slot j) ∧ t.vw.mark i = .none ∧ t.vw.tail i = none
      ∧ Latched s t 15 (.rosterChanged q.station .removed) ∧ ToldLeft s t q.station

/-- DELIVER_CLAIM (R155, R157): a holder with hold set, or that does not admit the claimer, refuses it; otherwise it takes the claim into
its list, the first one beginning the gathering with the settle timer; a claimer yields to a better claim. A CLAIM of a station outside 1
to 30 is refused like any other (the model's choice, log 38). -/
def Obligations.AClaimIsJudged : Prop :=
  ∀ (s : State) (f : Frame) (rest : List Frame) (c : Claim), s.lnc.queue = f :: rest → f.kind = .claim →
    Claim.parse f.body = some c → s.cfg.writer = true → s.cu.conflict = false →
    ∃ t, exec .deliverClaim s = .next t ∧ SameBut [.lnc, .roster, .cu, .pub, .vw, .latches, .sp] s t ∧ t.lnc.queue = rest
      ∧ ((s.cu.state = .onRecord ∨ (s.cu.state = .releasing ∧ s.cu.handOver = .gathering)) →
          (s.cu.hold = true → t.cu = s.cu ∧ t.lnc.custodyList.getLast? =
            some { kind := .refuse c.station, frame := refuseFrame s.cfg c.station .hold, attempts := 0 })
          ∧ (s.cu.hold = false → s.roster.admits c.station = false → t.cu = s.cu ∧ t.lnc.custodyList.getLast? =
            some { kind := .refuse c.station, frame := refuseFrame s.cfg c.station .notAdmitted, attempts := 0 })
          ∧ (s.cu.hold = false → s.roster.admits c.station = true → (∀ x ∈ s.cu.claims, x.station ≠ c.station) →
              s.cu.claims.length < 4 →
              t.cu = { s.cu with claims := s.cu.claims ++ [c], state := .releasing, handOver := .gathering,
                                 settleAt := if s.cu.state = .onRecord then
                                               some (s.clock.ms + BitVec.ofNat 32 s.cfg.settleWait)
                                             else s.cu.settleAt })
          ∧ (s.cu.hold = false → s.roster.admits c.station = true → (∀ x ∈ s.cu.claims, x.station ≠ c.station) →
              4 ≤ s.cu.claims.length → t.cu = s.cu)
          ∧ (s.cu.hold = false → s.roster.admits c.station = true → (∃ x ∈ s.cu.claims, x.station = c.station) →
              t.cu = { s.cu with claims := s.cu.claims.map fun x => if x.station = c.station then c else x }))
      ∧ (s.cu.state = .claiming →
          (s.roster.admits c.station = true → better c.rank c.station s.cfg.rank s.own = true →
            t.cu = { s.cu with state := s.cu.prior.getD .idle, claimAt := none, prior := none }
            ∧ Latched s t 5 (.claimOutcome .withdrawn c.station 0))
          ∧ ((s.roster.admits c.station = false ∨ better c.rank c.station s.cfg.rank s.own = false) →
            t.cu = s.cu ∧ t.lnc.custodyList = s.lnc.custodyList))
      ∧ ((s.cu.state = .idle ∨ s.cu.state = .shadow ∨ (s.cu.state = .releasing ∧ s.cu.handOver ≠ .gathering)) →
          t.cu = s.cu ∧ t.lnc.custodyList = s.lnc.custodyList)

/-- DELIVER_RELEASE (R154, R155, R162, R163): a RELEASE naming a node that is no holder makes it the holder, in RECORD from the line
named, or above the horizon after a BREAK line; one naming another ends a claim; one naming none closes the record. At a viewer (R169 to
R171) the new holder follows itself, its reach being its own committed-through. At a holder a RELEASE comes too late, and at a viewer-only
node or under CONFLICT it is ignored (R162): nothing is taken, and only the record-closed flag follows it (R163). A starting number of
16,777,216 stands in the event whole; its three detail bytes are the model's choice (log 33). -/
def Obligations.AReleaseHandsTheRecordOver : Prop :=
  (∀ (s : State) (f : Frame) (rest : List Frame) (r : ReleaseBody), s.lnc.queue = f :: rest → f.kind = .release →
    ReleaseBody.parse f.body = some r → s.cfg.writer = true → s.cu.conflict = false → s.cu.state.holds = false → s.own ≠ 0 →
    s.tb.series = .draft →
    ∃ t, exec .deliverRelease s = .next t ∧ SameBut [.lnc, .roster, .tb, .cu, .pub, .vw, .latches, .sp] s t ∧ t.lnc.queue = rest
      ∧ (r.target = s.own →
          t.cu = { s.cu with state := .onRecord, prior := none, claimAt := none, recordClosed := false } ∧ t.tb.series = .record
          ∧ (r.next = 0 → t.tb.nextRecord = some 16777216 ∧ Latched s t 4 (.custodyChanged .taken r.station 16777216))
          ∧ (s.tb.horizon < r.next → t.tb.nextRecord = some r.next ∧ Latched s t 4 (.custodyChanged .taken r.station r.next))
          ∧ (r.next ≠ 0 → r.next ≤ s.tb.horizon → s.tb.horizon < 16777215 →
              t.tb.nextRecord = some (s.tb.horizon + 2) ∧ t.tb.horizon = s.tb.horizon + 1
              ∧ Latched s t 2 (.recordBreak (s.tb.horizon + 1))
              ∧ Latched s t 4 (.custodyChanged .taken r.station (s.tb.horizon + 1)))
          ∧ (s.online = true → s.cfg.viewer = true → s.vw.followed ≠ some .self →
              t.vw.followed = some .self ∧ t.vw.reach = some (t.tb.committedThrough, s.own)
              ∧ Latched s t 12 (.followChanged s.own)))
      ∧ (r.target ≠ s.own → t.tb = s.tb
          ∧ (r.target = 0 → t.cu = { s.cu with recordClosed := true })
          ∧ (r.target ≠ 0 → s.cu.state ≠ .claiming → t.cu = { s.cu with recordClosed := false })
          ∧ (r.target ≠ 0 → s.cu.state = .claiming →
              t.cu = { s.cu with recordClosed := false, state := s.cu.prior.getD .idle, claimAt := none, prior := none }
              ∧ Latched s t 5 (.claimOutcome .passed r.target 0))))
  ∧ ∀ (s : State) (f : Frame) (rest : List Frame) (r : ReleaseBody), s.lnc.queue = f :: rest → f.kind = .release →
    ReleaseBody.parse f.body = some r →
    (s.cfg.writer = false ∨ s.cu.conflict = true ∨ s.cu.state.holds = true) →
    ∃ u, exec .deliverRelease s = .next u.offered ∧ SameBut [.lnc, .roster, .cu, .vw, .latches] s u
      ∧ u.lnc = { s.lnc with queue := rest }
      ∧ u.cu = { s.cu with recordClosed := if r.target ≠ 0 then false
                                           else if s.cu.state.holds = true then s.cu.recordClosed else true }
      ∧ ∀ p, 1 ≤ p → p ≠ 12 → u.lcp.latch p = s.lcp.latch p

/-- DELIVER_REFUSE to a claimer (R155) and CLAIM_TIMER_EXPIRY (R156): a refusal, or a holder that stays silent, returns the node to its
state before the claim; with no holder admitted at the expiry the node takes the record over above the horizon, with a break, told by
RECORD_BREAK, where the horizon is above 0 and the record not closed; a number of 16,777,216 stands in the event whole (the model's
choice, log 33). A holder is an ADMITTED slot that announces ON_RECORD or RELEASING, and the better one of several is told. The clock
comes to the expiry, or stays where that is past (log 3). -/
def Obligations.AClaimEndsByRefusalOrTime : Prop :=
  (∀ (s : State) (f : Frame) (rest : List Frame) (x : RefuseBody), s.lnc.queue = f :: rest → f.kind = .refuse →
    RefuseBody.parse f.body = some x →
    ∃ t, exec .deliverRefuse s = .next t ∧ SameBut [.lnc, .cu, .pub, .vw, .latches, .sp] s t ∧ t.lnc.queue = rest
      ∧ (s.cfg.writer = true → s.cu.conflict = false → s.cu.state = .claiming → x.addressee = s.own →
          t.cu = { s.cu with state := s.cu.prior.getD .idle, claimAt := none, prior := none }
          ∧ Latched s t 5 (.claimOutcome .refused x.station x.reason))
      ∧ ((s.cu.state ≠ .claiming ∨ x.addressee ≠ s.own) → t.cu = s.cu))
  ∧ (∀ (s : State) (e : Ms), s.cu.claimAt = some e → s.tb.series = .draft →
    ∃ t, exec .claimTimerExpiry s = .next t ∧ SameBut [.clock, .lnc, .sp, .tb, .cu, .pub, .vw, .latches] s t
      ∧ t.clock = (s.reachMs e).clock
      ∧ (∀ q, s.roster.holder = some q →
          t.cu = { s.cu with state := s.cu.prior.getD .idle, claimAt := none, prior := none } ∧ t.tb = s.tb
          ∧ Latched s t 5 (.claimOutcome .noAnswer q.station 0))
      ∧ (s.roster.holder = none →
          t.cu = { s.cu with state := .onRecord, prior := none, claimAt := none, recordClosed := false } ∧ t.tb.series = .record
          ∧ Latched s t 4 (.custodyChanged .takenOver 0 (s.tb.horizon + 1))
          ∧ (s.tb.horizon < 16777215 → t.tb.nextRecord =
              some (if 0 < s.tb.horizon ∧ s.cu.recordClosed = false then s.tb.horizon + 2 else s.tb.horizon + 1))
          ∧ ((0 < s.tb.horizon ∧ s.cu.recordClosed = false) → Latched s t 2 (.recordBreak (s.tb.horizon + 1)))
          ∧ (¬ (0 < s.tb.horizon ∧ s.cu.recordClosed = false) → t.lcp.latch 2 = s.lcp.latch 2)))
  ∧ (∀ c : CustodyState, c.holds = true ↔ c = .onRecord ∨ c = .releasing)
  ∧ (∀ r : Roster, r.holder = none ↔ ∀ i q, r.slot i = some q → ¬ (q.state = .admitted ∧ q.custody.holds = true))
  ∧ ∀ (r : Roster) (n : Nat), (∃ q, r.holder = some q ∧ q.station = n) ↔
    ∃ i q, r.slot i = some q ∧ q.station = n ∧ q.state = .admitted ∧ q.custody.holds = true
      ∧ ∀ j q', r.slot j = some q' → q'.state = .admitted → q'.custody.holds = true →
        better q'.rank q'.station q.rank q.station = false

/-- SETTLE_TIMER_EXPIRY (R159): the best claim becomes the hand-over's target and a flush is asked of the TE, at the timer's reading or,
where the row comes late, at the present one (log 3). COMMIT_ALL (R94, R160): the open lines are committed, a hand-over in progress, be it
a later one than the request's (log 25), sends its RELEASE, the record is left, and the node takes its release-to state. With no
commit-all due nothing changes (log 4). The open lines are committed oldest first while the first of them holds something, and the region is
then empty (R94). Each line committed, here, over four lines (R89) or past 96 units (R90), is one commit (R93): its
anchored units leave the open units and their strokes alone are counted on it (R77); a carried mark goes (R99). In DRAFT it takes the next
number, after 16,777,215 the number 1, and touches neither horizon nor LINE queue (R96); in RECORD above the horizon it takes the next
number, raises the horizon and joins the LINE queue, whose oldest entry not in flight goes past 8 (R97, R131); at or below the horizon a
BREAK line goes before it (R98); past 16,777,215 it is discarded and counted, a BREAK line not written latching RECORD_END alone (R101, and
the model's choice, log 33). It enters the ring of 256 lines; a leaving line not exported is told (R95). A new TAIL image waits where the
open lines or the committed line changed and TAILs are allowed (R127, R128). At a viewer a RECORD line so committed, a BREAK line too,
enters the record store as a line heard does, and its number is the reach while the holder followed is SELF (R168, R171). -/
def Obligations.AHandOverFlushesCommitsAndReleases : Prop :=
  (∀ (s : State) (e : Ms) (c : Claim), s.cu.settleAt = some e → s.cu.claims.foldl betterClaim none = some c →
    ∃ u, exec .settleTimerExpiry s = .next u.settled ∧ SameBut [.te, .cu] (s.reachMs e) u
      ∧ u.cu = { s.cu with handOver := .handingOver c.station, claims := [], settleAt := none,
                           commitAllDue := s.cu.commitAllDue || decide (s.te.phase = .idle) }
      ∧ u.te = (if s.te.phase = .idle then s.te
                else { s.te with flushOwed := true, demand := .all,
                                 resolveAt := if s.te.phase = .hold then none else s.te.resolveAt }))
  ∧ (∀ (s : State) (n : Nat), s.cu.commitAllDue = true → s.cu.handOver = .handingOver n →
    ∃ t u, exec .commitAll s = .next t ∧ SameBut [.lnc, .tb, .cu, .pub, .vw, .latches, .sp] s t
      ∧ u = ((s.setCu { s.cu with commitAllDue := false }).commitAllLines)
      ∧ t.cu = { s.cu with commitAllDue := false, handOver := .none, recordClosed := decide (n = 0) || s.cu.recordClosed,
                           state := if s.cfg.releaseToIdle then .idle else .shadow }
      ∧ t.lnc.custodyList.getLast? =
          some { kind := .release, frame := releaseFrame s.cfg n u.tb.committedThrough u.tb.region.format, attempts := 0 }
      ∧ t.tb.region = Region.empty u.tb.region.format
      ∧ t.tb = (if u.tb.series = .record then { u.tb with series := .draft, nextRecord := none, carried := 0 } else u.tb)
      ∧ t.pub.lineQueue = u.pub.lineQueue
      ∧ Latched s t 4 (.custodyChanged (if n = 0 then .closed else .released) n u.tb.committedThrough))
  ∧ (∀ s : State, s.cu.commitAllDue = false → exec .commitAll s = .next s)
  ∧ (∀ (r : Region) (w i : Nat), strokeCount r.units = strokeCount r.locking + strokeCount (r.dropFirst w i).units)
  ∧ (∀ s : State, ∃ n w, w = State.commitOldest^[n] s ∧ n ≤ s.tb.region.lines.length
    ∧ (∀ j, j < n → (State.commitOldest^[j] s).tb.region.firstHolds = true) ∧ (Rendered s → w.tb.region.firstHolds = false)
    ∧ SameBut [.tb, .pub] w s.commitAllLines
    ∧ s.commitAllLines.tb = { w.tb with region := Region.empty w.tb.region.format, carried := min w.tb.carried 1 }
    ∧ s.commitAllLines.pub =
        (if 0 < w.pub.ownWeight ∧ w.pub.muted = false ∧ w.cu.conflict = false ∧ w.tb.region.lines ≠ [[]] then
           { w.pub with
             tailWaiting := some { series := w.tb.series, custody := w.cu.state, committed := w.tb.committedThrough,
                                   firstOpen := w.tb.firstOpen, lines := [[]], attempts := 0 },
             refreshAt := some (w.clock.ms + 2000) }
         else w.pub))
  ∧ (∀ r : Region, r.firstHolds = true ↔ r.lines.headD [] ≠ [] ∨ ∃ x, r.units.head? = some x ∧ x.anchor = 0)
  ∧ (∀ s : State, ∃ n, s.commitOver = State.commitOldest^[n] s
    ∧ (∀ j, j < n → 4 < (State.commitOldest^[j] s).tb.region.lines.length)
    ∧ (Rendered s → s.commitOver.tb.region.lines.length ≤ 4))
  ∧ (∀ s : State, s.cu.commitAllDue = true → (∀ n, s.cu.handOver ≠ .handingOver n) →
    exec .commitAll s = .next ((s.setCu { s.cu with commitAllDue := false }).commitAllLines).offered)
  ∧ (∀ (v w : Viewer) (own n : Nat) (brk : Bool) (text : List Byte), w = v.withOwnLine own n brk text →
    w = { v with store := w.store, reach := w.reach, base := w.base }
    ∧ (w.reach, w.base) =
        (if v.followed = some .self then (some (n, own), some (v.base.getD (max 1 (n - 31)))) else (v.reach, v.base))
    ∧ ((v.stateOf n = some .lost ∨ (∃ a b c, v.stateOf n = some (.waiting a b c)) ∨ (v.stateOf n = none ∧ v.takes n = true)) →
        w.stateOf n = some (.held brk text) ∧ ∀ m, m % 512 ≠ n % 512 → w.stateOf m = v.stateOf m)
    ∧ (((∃ b x, v.stateOf n = some (.held b x)) ∨ (v.stateOf n = none ∧ v.takes n = false)) → w.store = v.store))
  ∧ ∀ (s t : State) (g : Region) (text : List Byte) (n o o' h count carried : Nat) (line brkLine : Nat → Nat → CommittedLine)
    (queued : List LineEntry × Nat → Nat → Bool → List Byte → List LineEntry × Nat) (viewed : Viewer → Nat → Bool → List Byte → Viewer),
    t = s.commitOldest → g = s.tb.region.dropFirst s.cfg.width s.cfg.indent → text = s.tb.region.lines.headD [] →
    n = s.tb.nextRecord.getD 1 → o = s.tb.nextOrdinal → o' = (if o < 4294967295 then o + 1 else 1) → h = s.tb.horizon →
    count = strokeCount s.tb.region.locking → carried = min (s.tb.carried - 1) g.lines.length →
    line = (fun num ord => { series := s.tb.series, number := num, ordinal := ord, station := s.own, brk := false,
                             carried := decide (0 < s.tb.carried), text := text, strokes := count }) →
    brkLine = (fun num ord => { series := .record, number := num, ordinal := ord, station := s.own, brk := true, carried := false,
                                text := bytesOf "[RECORD BREAK]", strokes := 0 }) →
    queued = (fun p num brk txt =>
      if s.cu.conflict = true then p
      else lineQueued (decide (s.lnc.slot.inFlight = some .line)) p { number := num, brk := brk, text := txt, attempts := 0 }) →
    viewed = (fun v num brk txt => if s.viewing = true then v.withOwnLine s.own num brk txt else v) →
    SameBut [.tb, .pub, .vw, .latches] s t
    ∧ (s.viewing = false → t.vw = s.vw)
    ∧ t.pub = { s.pub with lineQueue := t.pub.lineQueue, lineOverflow := t.pub.lineOverflow, tailWaiting := t.pub.tailWaiting,
                           refreshAt := t.pub.refreshAt }
    ∧ (t.pub.tailWaiting, t.pub.refreshAt) =
        (if 0 < s.pub.ownWeight ∧ s.pub.muted = false ∧ s.cu.conflict = false
            ∧ (s.tb.region.lines ≠ t.tb.region.lines ∨ s.tb.committedThrough ≠ t.tb.committedThrough) then
           (some { series := t.tb.series, custody := s.cu.state, committed := t.tb.committedThrough, firstOpen := t.tb.firstOpen,
                   lines := t.tb.region.lines, attempts := 0 }, some (s.clock.ms + 2000))
         else (s.pub.tailWaiting, s.pub.refreshAt))
    ∧ (s.tb.series = .draft →
        t.tb = { s.tb with region := g, carried := carried, ring := ringWith s.tb.ring (line s.tb.nextDraft o), nextOrdinal := o',
                           nextDraft := if s.tb.nextDraft < 16777215 then s.tb.nextDraft + 1 else 1 }
        ∧ (t.pub.lineQueue, t.pub.lineOverflow) = (s.pub.lineQueue, s.pub.lineOverflow) ∧ t.vw = s.vw
        ∧ t.lcp = afterRing s.lcp s.tb.ring o')
    ∧ (s.tb.series = .record → h < n → n ≤ 16777215 →
        t.tb = { s.tb with region := g, carried := carried, ring := ringWith s.tb.ring (line n o), nextOrdinal := o',
                           nextRecord := some (n + 1), horizon := n }
        ∧ (t.pub.lineQueue, t.pub.lineOverflow) = queued (s.pub.lineQueue, s.pub.lineOverflow) n false text
        ∧ t.vw = viewed s.vw n false text ∧ t.lcp = afterRing s.lcp s.tb.ring o')
    ∧ (s.tb.series = .record → n ≤ h → h + 2 ≤ 16777215 → ∀ r o'', r = ringWith s.tb.ring (brkLine (h + 1) o) →
        o'' = (if o' < 4294967295 then o' + 1 else 1) →
        t.tb = { s.tb with region := g, carried := carried, ring := ringWith r (line (h + 2) o'), nextOrdinal := o'',
                           nextRecord := some (h + 3), horizon := h + 2 }
        ∧ (t.pub.lineQueue, t.pub.lineOverflow) =
            queued (queued (s.pub.lineQueue, s.pub.lineOverflow) (h + 1) true (bytesOf "[RECORD BREAK]")) (h + 2) false text
        ∧ t.vw = viewed (viewed s.vw (h + 1) true (bytesOf "[RECORD BREAK]")) (h + 2) false text
        ∧ t.lcp = afterRing ((afterRing s.lcp s.tb.ring o').latched (.recordBreak (h + 1))) r o'')
    ∧ (s.tb.series = .record → n ≤ h → h = 16777214 →
        t.tb = { s.tb with region := g, carried := carried, ring := ringWith s.tb.ring (brkLine 16777215 o), nextOrdinal := o',
                           nextRecord := some 16777216, horizon := 16777215, discardedLines := satSucc s.tb.discardedLines,
                           discardedStrokes := s.tb.discardedStrokes + count }
        ∧ (t.pub.lineQueue, t.pub.lineOverflow) =
            queued (s.pub.lineQueue, s.pub.lineOverflow) 16777215 true (bytesOf "[RECORD BREAK]")
        ∧ t.vw = viewed s.vw 16777215 true (bytesOf "[RECORD BREAK]")
        ∧ t.lcp = ((afterRing s.lcp s.tb.ring o').latched (.recordBreak 16777215)).latched
            (.recordEnd (satSucc s.tb.discardedLines)))
    ∧ (s.tb.series = .record → n ≤ h → 16777215 ≤ h →
        t.tb = { s.tb with region := g, carried := carried, nextRecord := some (h + 1),
                           discardedLines := satSucc s.tb.discardedLines, discardedStrokes := s.tb.discardedStrokes + count }
        ∧ (t.pub.lineQueue, t.pub.lineOverflow) = (s.pub.lineQueue, s.pub.lineOverflow)
        ∧ t.vw = s.vw ∧ t.lcp = (s.lcp.latched (.recordEnd s.tb.discardedLines)).latched (.recordEnd (satSucc s.tb.discardedLines)))
    ∧ (s.tb.series = .record → h < n → 16777215 < n →
        t.tb = { s.tb with region := g, carried := carried, discardedLines := satSucc s.tb.discardedLines,
                           discardedStrokes := s.tb.discardedStrokes + count }
        ∧ (t.pub.lineQueue, t.pub.lineOverflow) = (s.pub.lineQueue, s.pub.lineOverflow)
        ∧ t.vw = s.vw ∧ t.lcp = s.lcp.latched (.recordEnd (satSucc s.tb.discardedLines)))

/-! ## Viewing -/

/-- DELIVER_TAIL and DELIVER_LINE (R168, R171, R172, R175): a RECORD image is kept in its station's slot, a DRAFT one only where a pane
pins the station; one of the followed station sets the reach, and gaps are opened up to it; a line of an admitted station fills the record
store slot that is empty, tagged lower, waiting or lost for its number, and one that is GONE leaves it LOST; a line held stays.
DELIVER_RELEASE at a viewer (R170 to R172): the releasing station's slot is marked RELEASED, that of an admitted station named NAMED; a
last line above 0 is the reach, gaps being opened up to it; the followed holder is chosen anew, a change being told, and where it becomes
SELF the reach is the node's own. The choice (R169): SELF at a writer that holds the record, else the best admitted slot that is NAMED, or
unmarked and announcing a holder's state. -/
def Obligations.TailsAndLinesReachTheViewer : Prop :=
  (∀ (s : State) (f : Frame) (rest : List Frame) (x : TailBody) (i : Nat), s.lnc.queue = f :: rest → f.kind = .tail →
    TailBody.parse f.body = some x → s.roster.indexOf x.station = some i →
    ∃ t, exec .deliverTail s = .next t ∧ SameBut [.lnc, .roster, .vw, .sp] s t ∧ t.lnc = { s.lnc with queue := rest }
      ∧ t.vw.tail i = (if x.image.series = .record ∨ s.vw.pinned x.station = true then some x.image else none)
      ∧ (∀ j, j ≠ i → t.vw.tail j = s.vw.tail j)
      ∧ (x.image.series = .record → s.vw.followed = some (.station x.station) →
          t.vw.reach = some (x.image.committed, x.station)
          ∧ t.vw.base = some (s.vw.base.getD (max 1 (x.image.committed - 31)))
          ∧ (x.station ≠ s.own → GapsOpened s t x.station (s.vw.base.getD (max 1 (x.image.committed - 31))) x.image.committed)
          ∧ (x.station = s.own → t.vw.store = s.vw.store))
      ∧ ((x.image.series = .draft ∨ s.vw.followed ≠ some (.station x.station)) →
          t.vw.reach = s.vw.reach ∧ t.vw.store = s.vw.store))
  ∧ (∀ (s : State) (f : Frame) (rest : List Frame) (r : ReleaseBody), s.lnc.queue = f :: rest → f.kind = .release →
    ReleaseBody.parse f.body = some r → s.online = true → s.cfg.viewer = true →
    ∃ t, exec .deliverRelease s = .next t ∧ SameBut [.lnc, .roster, .tb, .cu, .pub, .vw, .latches, .sp] s t
      ∧ t.vw.followed = t.followChoice
      ∧ (∀ i, i < 16 → t.vw.mark i =
          if r.target ≠ 0 ∧ s.roster.admits r.target = true ∧ s.roster.indexOf r.target = some i then .named
          else if s.roster.indexOf r.station = some i then .released
          else s.vw.mark i)
      ∧ (t.vw.followed ≠ some .self →
          t.vw.reach = (if 0 < r.last then some (r.last, r.station) else s.vw.reach)
          ∧ (0 < r.last → r.station ≠ s.own → GapsOpened s t r.station (s.vw.base.getD (max 1 (r.last - 31))) r.last))
      ∧ (Coherent s → t.vw.followed = some .self → s.vw.followed ≠ some .self → t.vw.reach = some (t.tb.committedThrough, s.own))
      ∧ (s.cu.state ≠ .claiming → t.vw.followed ≠ s.vw.followed → Latched s t 12 (.followChanged (t.followStation t.vw.followed))))
  ∧ (∀ s : State, (s.followChoice = some .self ↔ s.cfg.writer = true ∧ s.cu.state.holds = true)
    ∧ (¬ (s.cfg.writer = true ∧ s.cu.state.holds = true) → ∀ n, (s.followChoice = some (.station n) ↔
        ∃ i q, s.roster.slot i = some q ∧ q.station = n ∧ effectiveHolder (s.vw.mark i) q = true
          ∧ ∀ j q', s.roster.slot j = some q' → effectiveHolder (s.vw.mark j) q' = true →
            better q'.rank q'.station q.rank q.station = false)))
  ∧ (∀ (m : SlotMark) (q : RosterSlot), effectiveHolder m q = true ↔
      q.state = .admitted ∧ (m = .named ∨ (m = .none ∧ q.custody.holds = true)))
  ∧ ∀ (s : State) (f : Frame) (rest : List Frame) (l : LineBody), s.lnc.queue = f :: rest → f.kind = .line →
    LineBody.parse f.body = some l →
    ∃ t, exec .deliverLine s = .next t ∧ SameBut [.lnc, .roster, .vw, .latches, .sp] s t ∧ t.lnc = { s.lnc with queue := rest }
      ∧ (s.roster.admits l.station = false → t.vw = s.vw ∧ t.lcp = s.lcp)
      ∧ (s.roster.admits l.station = true → l.gone = false →
          (s.vw.stateOf l.number = some .lost ∨ (∃ a b c, s.vw.stateOf l.number = some (.waiting a b c))
            ∨ (s.vw.stateOf l.number = none ∧ s.vw.takes l.number = true)) →
          t.vw.stateOf l.number = some (.held l.brk l.text) ∧ t.vw.linesLost = s.vw.linesLost ∧ t.lcp = s.lcp)
      ∧ (s.roster.admits l.station = true → l.gone = true →
          ((∃ a b c, s.vw.stateOf l.number = some (.waiting a b c))
            ∨ (s.vw.stateOf l.number = none ∧ s.vw.takes l.number = true)) →
          t.vw.stateOf l.number = some .lost ∧ t.vw.linesLost = satSucc s.vw.linesLost ∧ Latched s t 13 (.lineLost l.number))
      ∧ (s.roster.admits l.station = true → l.gone = true → s.vw.stateOf l.number = some .lost → t.vw = s.vw ∧ t.lcp = s.lcp)
      ∧ (s.roster.admits l.station = true → (∃ b x, s.vw.stateOf l.number = some (.held b x)) → t.vw = s.vw ∧ t.lcp = s.lcp)

/-- GAP_TIMER_EXPIRY of a waiting line (R173, R174): below three asks its run is formed, the lines from it on that wait, of one asked-of
station and below three asks, up to 8; the ask count of every line of the run rises, its timer running 2 s, and no other line changes; an
ASK for the run joins the ASK list, where there is room and no CONFLICT. After the third ask the line is LOST. The row acts at the
timer's reading, or at the present one where it comes late (the model's choice, log 3). -/
def Obligations.AGapIsAskedForOrLost : Prop :=
  ∀ (s : State) (n : Nat) (asks : Nat) (e : Ms) (st : Nat), lineOk n = true → s.vw.stateOf n = some (.waiting asks e st) →
    (asks < 3 → ∀ k, k = (s.vw.runFrom st 8 n).length →
      ∃ t, exec (.gapTimerExpiry n) s = .next t ∧ SameBut [.clock, .lnc, .sp, .vw, .pub] s t ∧ t.clock = (s.reachMs e).clock
        ∧ 1 ≤ k ∧ k ≤ 8
        ∧ (∀ j, j < k → ∃ a d, a < 3 ∧ s.vw.stateOf (n + j) = some (.waiting a d st)
            ∧ t.vw.stateOf (n + j) = some (.waiting (a + 1) (t.clock.ms + 2000) st))
        ∧ (k < 8 → ¬ ∃ a d, a < 3 ∧ s.vw.stateOf (n + k) = some (.waiting a d st))
        ∧ (∀ m, (m < n ∨ n + k ≤ m) → t.vw.stateOf m = s.vw.stateOf m)
        ∧ t.vw = { s.vw with store := t.vw.store, asks := t.vw.asks, asksLost := t.vw.asksLost }
        ∧ (s.cu.conflict = false → s.vw.asks.length < 4 →
            t.vw.asks = s.vw.asks ++ [{ target := st, first := n, count := k, attempts := 0 }] ∧ t.vw.asksLost = s.vw.asksLost)
        ∧ ((s.cu.conflict = true ∨ 4 ≤ s.vw.asks.length) →
            t.vw.asks = s.vw.asks ∧ t.vw.asksLost = satSucc s.vw.asksLost))
    ∧ (3 ≤ asks →
      ∃ t, exec (.gapTimerExpiry n) s = .next t ∧ SameBut [.clock, .lnc, .sp, .vw, .latches] s t ∧ t.clock = (s.reachMs e).clock
        ∧ t.vw.stateOf n = some .lost ∧ t.vw.linesLost = satSucc s.vw.linesLost ∧ t.vw.asks = s.vw.asks
        ∧ Latched s t 13 (.lineLost n))

/-- ROW_SEND_START, BUSY_CHANGE and ROW_SEND_COMPLETE (R182): with BUSY low and nothing being sent, the lowest dirty row leaves the dirty
set and its record is sent; the dirty set stands in rising order, which every step keeps (R181), so that its first row is below every
other; BUSY high lets the byte in progress out and pauses the send (log 17); the send ends when its last byte has been
given, and with BUSY low the bytes left are taken as given (log 17). A row without its occasion changes nothing (log 4). -/
def Obligations.RowsAreSentOneAtATime : Prop :=
  (∀ (s : State) (r : Nat) (rest : List Nat), s.sp.send = none → s.sp.dirty = r :: rest → s.sp.busyPin = false →
    ∃ t, exec .rowSendStart s = .next t ∧ SameBut [.sp] s t ∧ (DirtyRising s → ∀ r' ∈ rest, r < r')
      ∧ t.sp = { s.sp with dirty := rest,
                           send := some { row := r, given := 0,
                                          record := BitVec.ofNat 8 r :: BitVec.ofNat 8 (s.sp.rows.getD r []).length
                                            :: s.sp.rows.getD r [] } })
  ∧ (∀ s : State, (s.sp.send ≠ none ∨ s.sp.dirty = [] ∨ s.sp.busyPin = true) → exec .rowSendStart s = .next s)
  ∧ (∀ (s : State) (high : Bool),
    ∃ t, exec (.busyChange high) s = .next t ∧ SameBut [.sp] s t ∧ t.sp.busyPin = high
      ∧ t.sp.rows = s.sp.rows ∧ t.sp.dirty = s.sp.dirty
      ∧ (s.sp.send = none → t.sp.send = none)
      ∧ (∀ w, s.sp.send = some w → t.sp.send =
          some (if high = true ∧ s.sp.busyPin = false then { w with given := min w.record.length (w.given + 1) } else w)))
  ∧ (∀ (s : State) (w : RowSend), s.sp.send = some w → (s.sp.busyPin = false ∨ w.record.length ≤ w.given) →
    ∃ t, exec .rowSendComplete s = .next t ∧ SameBut [.sp] s t ∧ t.sp = { s.sp with send := none })
  ∧ (∀ s : State, (s.sp.send = none ∨ ∃ w, s.sp.send = some w ∧ s.sp.busyPin = true ∧ w.given < w.record.length) →
    exec .rowSendComplete s = .next s)
  ∧ ∀ s t : State, DirtyRising s → step s = .next t → DirtyRising t

/-! ## The host port -/

/-- A command transaction while a command is in flight, COMMAND_TAKE_BUSY among them, and a transaction deselected short, whatever its
length field says (the model's choice above 264, log 42), leave everything as it was (R184): only what the port gave is new. RESPONSE_READ
(R185): the port gives its status and a READY response; the command is in flight no longer once all of it is clocked out, and the same
response is given again after a shorter transaction; with none READY the status alone is given. -/
def Obligations.TransactionsGiveWhatThePortHolds : Prop :=
  ((∀ (c : Instr) (x : Byte × List Byte) (s : State), c.hostCommand = some x → s.lcp.inFlight.isSome = true →
    ∃ t, exec c s = .next t ∧ t = s.give [s.lcp.status, 2])
  ∧ (∀ (code : Byte) (ps : List Byte) (s : State), s.lcp.inFlight.isSome = true →
    ∃ t, exec (.commandTakeBusy code ps) s = .next t ∧ t = s.give [s.lcp.status, 2])
  ∧ (∀ (sent : List Byte) (s : State), isShort sent = true →
    ∃ t, exec (.shortCommandTransaction sent) s = .next t ∧ SameBut [.lcp] s t
      ∧ t.lcp = { s.lcp with given := ([s.lcp.status, if s.lcp.inFlight.isSome then 2 else 1] : List Byte).take sent.length }))
  ∧ (∀ (n : Nat) (s : State), 1 ≤ n →
    (s.lcp.response = none →
      ∃ t, exec (.responseRead n) s = .next t ∧ SameBut [.lcp] s t ∧ t.lcp = { s.lcp with given := [s.lcp.status] })
    ∧ ∀ r all, s.lcp.response = some r → all = s.lcp.status :: r.code :: (leBytes 2 r.data.length ++ r.data) →
      (n < all.length →
        ∃ t, exec (.responseRead n) s = .next t ∧ SameBut [.lcp] s t ∧ t.lcp = { s.lcp with given := all.take n })
      ∧ (all.length ≤ n →
        ∃ t, exec (.responseRead n) s = .next t ∧ SameBut [.lcp] s t
          ∧ t.lcp = { s.lcp with given := all, inFlight := none, response := none }))

/-- A command taken with more than 264 parameter bytes is answered FULL, one taken in the wrong node state BAD_STATE, and one that names no
command RANGE (R184, R186); none has any other effect. -/
def Obligations.RefusedCommandsOnlyAnswer : Prop :=
  (∀ (c : Instr) (code : Byte) (ps : List Byte) (s : State), c.hostCommand = some (code, ps) → s.lcp.inFlight = none →
    264 < ps.length → ∃ t, exec c s = .next t ∧ OnlyAnswers s t code ps .full)
  ∧ (∀ (c : Instr) (code : Byte) (ps : List Byte) (s : State), c.hostCommand = some (code, ps) → s.lcp.inFlight = none →
    ps.length ≤ 264 →
    ((s.online = true ∧ (code = 1 ∨ code = 2 ∨ code = 4))
      ∨ (s.online = false ∧ (code = 6 ∨ code = 7 ∨ code = 8 ∨ code = 9 ∨ code = 10))) →
    ∃ t, exec c s = .next t ∧ OnlyAnswers s t code ps .badState)
  ∧ (∀ (code : Byte) (ps : List Byte) (s : State), s.lcp.inFlight = none → ps.length ≤ 264 → unnamed code ps = true →
    (s.online = true ∨ (code ≠ 8 ∧ code ≠ 9)) →
    ∃ t, exec (.unknownCommand code ps) s = .next t ∧ OnlyAnswers s t code ps .range)

/-- CONFIGURE in START (R15, R188): a record with every field in range is held, its mask becomes the event mask, the Key Capture Unit
adopts its times and key map, and the answer is OK; any other is answered RANGE and changes nothing. -/
def Obligations.ConfigureHoldsTheRecord : Prop :=
  ∀ (ps : List Byte) (s : State), s.lcp.inFlight = none → s.online = false → ps.length ≤ 264 →
    (∀ g, Settings.parse ps = some g →
      ∃ t, exec (.configure ps) s = .next t ∧ SameBut [.lcp, .kcu] s t ∧ InFlight t 1 ps ∧ Answers t .ok []
        ∧ t.lcp.config = some g ∧ t.lcp.mask = g.mask ∧ t.lcp.latches = s.lcp.latches
        ∧ t.kcu = { s.kcu with contacts := t.kcu.contacts, keyMap := g.keyMap, debounce := g.debounce, graze := g.graze,
                               stuckLimit := g.stuckLimit }
        ∧ ∀ i : Fin 28, t.kcu.contacts[i] =
            (if s.kcu.keyMap[i] = g.keyMap[i] then s.kcu.contacts[i]
             else if g.keyMap[i] ≠ 0 ∧ s.kcu.contacts[i].acceptedDown = true then
               { s.kcu.contacts[i] with mark := .heldOver,
                                        stuckAt := some (s.clock.ms + BitVec.ofNat 32 (1000 * g.stuckLimit)) }
             else { s.kcu.contacts[i] with mark := .none, stuckAt := none }))
    ∧ (Settings.parse ps = none → ∃ t, exec (.configure ps) s = .next t ∧ OnlyAnswers s t 1 ps .range)

/-- LOAD and READ_DICT (R56, R189): a range inside the memory is written or read by EXPORT operations of up to 16 bytes, the first requested
at the take; any other parameters are answered RANGE without an operation. EXPORT_OPERATION_END (R52, R56): a write stands in memory,
and no other byte changes; a read gives its bytes; then the next 16 bytes are requested, after the next grant (log 26), or the command
completes, READ_DICT with all it read. With no EXPORT operation in service nothing changes (log 4). -/
def Obligations.LoadAndReadRunByExportOperations : Prop :=
  ((∀ (ps : List Byte) (s : State), s.lcp.inFlight = none → s.online = false → ps.length ≤ 264 →
    (∀ a bs, loadParams ps = some (a, bs) →
      1 ≤ bs.length ∧ bs.length ≤ 256 ∧ a + bs.length ≤ memSize
      ∧ ∃ t, exec (.load ps) s = .next t ∧ SameBut [.lcp, .arb] s t ∧ InFlight t 2 ps ∧ t.lcp.response = s.lcp.response
        ∧ t.lcp.job = some (.load a bs) ∧ t.arb = s.arb.request { cls := .host, op := .write a (bs.take 16) })
    ∧ (loadParams ps = none → ∃ t, exec (.load ps) s = .next t ∧ OnlyAnswers s t 2 ps .range))
  ∧ ∀ (ps : List Byte) (s : State), s.lcp.inFlight = none → ps.length ≤ 264 →
    (∀ a n, readDictParams ps = some (a, n) →
      1 ≤ n ∧ n ≤ 256 ∧ a + n ≤ memSize
      ∧ ∃ t, exec (.readDict ps) s = .next t ∧ SameBut [.lcp, .arb] s t ∧ InFlight t 3 ps ∧ t.lcp.response = s.lcp.response
        ∧ t.lcp.job = some (.read a n []) ∧ t.arb = s.arb.request { cls := .host, op := .read a (min 16 n) })
    ∧ (readDictParams ps = none → ∃ t, exec (.readDict ps) s = .next t ∧ OnlyAnswers s t 3 ps .range))
  ∧ ((∀ (s : State) (a : Nat) (left : List Byte), s.mem.wf = true → s.lcp.job = some (.load a left) →
    s.arb.inService = some { cls := .host, op := .write a (left.take 16) } → a + left.length ≤ memSize →
    ∃ t, exec .exportOperationEnd s = .next t ∧ SameBut [.mem, .arb, .lcp] s t
      ∧ (∀ b, Memory.byteAt t.mem b =
          if a ≤ b ∧ b < a + (left.take 16).length then left.getD (b - a) 0 else Memory.byteAt s.mem b)
      ∧ (16 < left.length → t.lcp = { s.lcp with job := some (.load (a + 16) (left.drop 16)) }
          ∧ t.arb = s.arb.next.request { cls := .host, op := .write (a + 16) ((left.drop 16).take 16) })
      ∧ (left.length ≤ 16 → t.lcp.job = none ∧ Answers t .ok [] ∧ t.arb = s.arb.next))
  ∧ (∀ (s : State) (a left : Nat) (got : List Byte), s.lcp.job = some (.read a left got) →
    s.arb.inService = some { cls := .host, op := .read a (min 16 left) } →
    ∃ t, exec .exportOperationEnd s = .next t ∧ SameBut [.arb, .lcp] s t
      ∧ (16 < left → t.lcp = { s.lcp with job := some (.read (a + 16) (left - 16) (got ++ s.mem.bytesAt a 16)) }
          ∧ t.arb = s.arb.next.request { cls := .host, op := .read (a + 16) (min 16 (left - 16)) })
      ∧ (left ≤ 16 → t.lcp.job = none ∧ Answers t .ok (got ++ s.mem.bytesAt a left) ∧ t.arb = s.arb.next))
  ∧ ∀ s : State, s.serving .host = none → exec .exportOperationEnd s = .next s)

/-- GO in START (R190, R191): refused with reason 1 without a record, 2 with a station not 1 to 30, 3 without a role; parameters are RANGE;
otherwise the first directory read is requested and the command stays in flight. DEF_OPERATION_END in the directory reads of GO (R20,
R190): four reads of 16 bytes, then the checks, all of them after the fourth read (the model's choice, log 11); a directory that fails
them, or whose CASE bounds fail, is answered REFUSED with reason 4 or 5, and no directory copy is kept; one that passes is kept, and the
CASE scan begins with the header of the root (R40). Each next directory read, and the scan's first, is requested in the row of the read
before it, after the next grant (the model's choice, log 26). -/
def Obligations.GoChecksTheRecordAndTheDirectory : Prop :=
  (∀ s : State, s.lcp.inFlight = none → s.online = false →
    (s.lcp.config = none → ∃ t, exec (.go []) s = .next t ∧ SameBut [.lcp] s t ∧ InFlight t 4 [] ∧ Answers t .refused [1])
    ∧ (∀ g, s.lcp.config = some g → (g.station = 0 ∨ 30 < g.station) →
      ∃ t, exec (.go []) s = .next t ∧ SameBut [.lcp] s t ∧ InFlight t 4 [] ∧ Answers t .refused [2])
    ∧ (∀ g, s.lcp.config = some g → 1 ≤ g.station → g.station ≤ 30 → g.writer = false → g.viewer = false →
      ∃ t, exec (.go []) s = .next t ∧ SameBut [.lcp] s t ∧ InFlight t 4 [] ∧ Answers t .refused [3])
    ∧ (∀ g, s.lcp.config = some g → 1 ≤ g.station → g.station ≤ 30 → (g.writer = true ∨ g.viewer = true) →
      ∃ t, exec (.go []) s = .next t ∧ SameBut [.lcp, .du, .arb] s t ∧ InFlight t 4 [] ∧ t.lcp.response = s.lcp.response
        ∧ t.du = { s.du with work := .goDirectory [] } ∧ t.arb = s.arb.request { cls := .defn, op := .read 0 16 })
    ∧ (∀ ps, ps ≠ [] → ps.length ≤ 264 → ∃ t, exec (.go ps) s = .next t ∧ OnlyAnswers s t 4 ps .range))
  ∧ (∀ (s : State) (got : List Byte) (n : Nat), s.du.work = .goDirectory got →
    s.arb.inService = some { cls := .defn, op := .read got.length n } →
    (got.length + n < 64 →
      ∃ t, exec .defOperationEnd s = .next t ∧ SameBut [.du, .arb] s t
        ∧ t.du = { s.du with work := .goDirectory (got ++ s.mem.bytesAt got.length n) }
        ∧ t.arb = s.arb.next.request { cls := .defn, op := .read (got.length + n) 16 })
    ∧ (64 ≤ got.length + n → directoryOk (got ++ s.mem.bytesAt got.length n) = false →
      ∃ t, exec .defOperationEnd s = .next t ∧ SameBut [.du, .arb, .lcp] s t ∧ t.du = { s.du with work := .idle, dir := none }
        ∧ t.arb = s.arb.next ∧ Answers t .refused [4])
    ∧ (64 ≤ got.length + n → directoryOk (got ++ s.mem.bytesAt got.length n) = true →
      caseBoundsOk (Directory.ofBytes (got ++ s.mem.bytesAt got.length n)) = false →
      ∃ t, exec .defOperationEnd s = .next t ∧ SameBut [.du, .arb, .lcp] s t ∧ t.du = { s.du with work := .idle, dir := none }
        ∧ t.arb = s.arb.next ∧ Answers t .refused [5])
    ∧ (∀ d, 64 ≤ got.length + n → directoryOk (got ++ s.mem.bytesAt got.length n) = true →
      d = Directory.ofBytes (got ++ s.mem.bytesAt got.length n) → caseBoundsOk d = true →
      ∃ t, exec .defOperationEnd s = .next t ∧ SameBut [.du, .arb] s t
        ∧ t.du = { s.du with dir := some d,
                             work := .goScan { tables := [], want := .header d.caseRoot, reached := [], textTop := none, fixes := [] } }
        ∧ t.arb = s.arb.next.request { cls := .defn, op := .read d.caseRoot 8 }))

/-- RESTART (R17, R42, R58, R122, R142, R166, R183, R192): the node is in START, the blocks are at their RESTART values, the configuration,
the event latches and mask, the notes and the loss counts are kept, an input at the start level that the node's own driver does not hold
still makes the line busy (log 18), the memory operation in service is served, and the answer is OK. -/
def Obligations.RestartReturnsToStart : Prop :=
  ∀ s : State, s.lcp.inFlight = none → s.mem.wf = true →
    ∃ t, exec (.restart []) s = .next t
      ∧ SameBut [.lcp, .kcu, .sq, .mem, .du, .cache, .arb, .te, .tb, .lnc, .pub, .roster, .cu, .vw, .sp] s t
      ∧ t.online = false ∧ InFlight t 5 [] ∧ Answers t .ok [] ∧ t.lcp.config = s.lcp.config ∧ t.lcp.mask = s.lcp.mask
      ∧ t.lcp.job = none ∧ t.lcp.lineCursor = 1
      ∧ t.kcu = { s.kcu with chord := none } ∧ t.sq = { s.sq with records := [], dropPending := false }
      ∧ t.du = { Du.reset with receivedLost := s.du.receivedLost } ∧ t.cache = Cache.reset ∧ t.arb = Arbiter.reset
      ∧ t.te = Te.reset ∧ t.tb = Tb.reset ∧ t.cu = Cu.reset
      ∧ t.lnc = { Lnc.reset with busySince := if s.lnc.driver = true then none else s.lnc.busySince,
                                 held := s.lnc.held && !s.lnc.driver, errors := s.lnc.errors, aborted := s.lnc.aborted,
                                 txDropped := s.lnc.txDropped, cutOff := s.lnc.cutOff }
      ∧ t.pub = { Pub.reset with nextDefine := s.pub.nextDefine, lineOverflow := s.pub.lineOverflow,
                                 answersDropped := s.pub.answersDropped, defineSendLost := s.pub.defineSendLost }
      ∧ t.roster = { Roster.reset with refused := s.roster.refused }
      ∧ t.vw = { Viewer.reset with asksLost := s.vw.asksLost, linesLost := s.vw.linesLost }
      ∧ t.sp = { Screen.reset with busyPin := s.sp.busyPin }
      ∧ (∀ r, s.arb.inService = some r → ∀ a bs, r.op = .write a bs → a + bs.length ≤ memSize →
          ∀ b, Memory.byteAt t.mem b = if a ≤ b ∧ b < a + bs.length then bs.getD (b - a) 0 else Memory.byteAt s.mem b)
      ∧ (s.arb.inService = none → t.mem = s.mem)
      ∧ ∀ ps, ps ≠ [] → ps.length ≤ 264 → ∃ v, exec (.restart ps) s = .next v ∧ OnlyAnswers s v 5 ps .range

/-- DEFINE and FORGET ONLINE (R29, R37, R193): sound parameters become an entry at the end of the definition queue, answered ACCEPTED; with
eight entries waiting the answer is BUSY, and for unsound parameters RANGE, with no other effect. -/
def Obligations.DefineAndForgetJoinTheQueue : Prop :=
  (∀ (ps : List Byte) (s : State), s.lcp.inFlight = none → s.online = true → ps.length ≤ 264 →
    (∀ vs text share, defineParams ps = some (vs, text, share) →
      (s.du.queue.length < 8 →
        ∃ t, exec (.define ps) s = .next t ∧ SameBut [.lcp, .du] s t ∧ InFlight t 6 ps ∧ Answers t .accepted []
          ∧ t.du = { s.du with queue := s.du.queue ++ [{ kind := .define, source := 0, rank := s.cfg.rank, defNumber := none,
                                                         strokes := vs, text := text, share := share }] })
      ∧ (8 ≤ s.du.queue.length → ∃ t, exec (.define ps) s = .next t ∧ OnlyAnswers s t 6 ps .busy))
    ∧ (defineParams ps = none → ∃ t, exec (.define ps) s = .next t ∧ OnlyAnswers s t 6 ps .range))
  ∧ ∀ (ps : List Byte) (s : State), s.lcp.inFlight = none → s.online = true → ps.length ≤ 264 →
    (∀ vs, forgetParams ps = some vs →
      (s.du.queue.length < 8 →
        ∃ t, exec (.forget ps) s = .next t ∧ SameBut [.lcp, .du] s t ∧ InFlight t 7 ps ∧ Answers t .accepted []
          ∧ t.du = { s.du with queue := s.du.queue ++ [{ kind := .forget, source := 0, rank := s.cfg.rank, defNumber := none,
                                                         strokes := vs, text := [], share := false }] })
      ∧ (8 ≤ s.du.queue.length → ∃ t, exec (.forget ps) s = .next t ∧ OnlyAnswers s t 7 ps .busy))
    ∧ (forgetParams ps = none → ∃ t, exec (.forget ps) s = .next t ∧ OnlyAnswers s t 7 ps .range)

/-- FLUSH_CACHE in its four scopes ONLINE (R47, R48): a valid fence is applied, the generation rises by one and the answer is OK; a stroke
value of 0 in a stroke scope is void; a layer above 2 or a stroke bit above key 23, where the scope uses it, is RANGE, and so is another
length of the parameters (R186). At a raise the TE's requests in flight are marked and a re-walk of the pending buffer falls due (R49, R72).
-/
def Obligations.AHostFlushFencesTheCache : Prop :=
  (∀ (l b0 b1 b2 : Byte) (v : Stroke) (s : State), s.lcp.inFlight = none → s.online = true →
    v = BitVec.ofNat 23 (b0.toNat + 256 * b1.toNat + 65536 * b2.toNat) →
    Fences s (.flushCacheAll [l, b0, b1, b2]) .all
    ∧ (l.toNat ≤ 2 → Fences s (.flushCacheLayer [l, b0, b1, b2]) (.layer l.toNat))
    ∧ (2 < l.toNat → ∃ t, exec (.flushCacheLayer [l, b0, b1, b2]) s = .next t ∧ OnlyAnswers s t 8 [1, l, b0, b1, b2] .range)
    ∧ (b2.toNat < 128 → v ≠ 0 → Fences s (.flushCacheStroke [l, b0, b1, b2]) (.stroke v))
    ∧ (b2.toNat < 128 → v = 0 →
        ∃ t, exec (.flushCacheStroke [l, b0, b1, b2]) s = .next t ∧ OnlyAnswers s t 8 [2, l, b0, b1, b2] .ok)
    ∧ (128 ≤ b2.toNat →
        ∃ t, exec (.flushCacheStroke [l, b0, b1, b2]) s = .next t ∧ OnlyAnswers s t 8 [2, l, b0, b1, b2] .range)
    ∧ (l.toNat ≤ 2 → b2.toNat < 128 → v ≠ 0 → Fences s (.flushCacheStrokeLayer [l, b0, b1, b2]) (.strokeLayer v l.toNat))
    ∧ (l.toNat ≤ 2 → b2.toNat < 128 → v = 0 →
        ∃ t, exec (.flushCacheStrokeLayer [l, b0, b1, b2]) s = .next t ∧ OnlyAnswers s t 8 [3, l, b0, b1, b2] .ok)
    ∧ ((2 < l.toNat ∨ 128 ≤ b2.toNat) →
        ∃ t, exec (.flushCacheStrokeLayer [l, b0, b1, b2]) s = .next t ∧ OnlyAnswers s t 8 [3, l, b0, b1, b2] .range))
  ∧ ∀ (rest : List Byte) (s : State) (sel : Byte) (c : Instr), s.lcp.inFlight = none → s.online = true → rest.length ≠ 4 →
    rest.length ≤ 263 →
    (sel, c) ∈ [((0 : Byte), Instr.flushCacheAll rest), (1, .flushCacheLayer rest), (2, .flushCacheStroke rest),
      (3, .flushCacheStrokeLayer rest)] →
    ∃ t, exec c s = .next t ∧ OnlyAnswers s t 8 (sel :: rest) .range

/-- CUSTODY CLAIM, ENTER_SHADOW, LEAVE_SHADOW, HOLD and UNHOLD ONLINE (R124, R151 to R153): at a writer without CONFLICT, in a state the
request applies in, it acts and is answered ACCEPTED or OK; otherwise BAD_STATE and nothing more; any of the six with further bytes RANGE
and nothing more. HOLD in GATHERING hands a REFUSE with reason HOLD for every claim gathered to the custody list (R152), in the order of
the claim list, an order that is the model's choice (log 39). CUSTODY RELEASE ONLINE (R151, R159, R161): ON_RECORD the record is to be
closed; in GATHERING the best claim gets it at once; either way the TE is asked for a flush, and the answer is ACCEPTED; in any other
state BAD_STATE. -/
def Obligations.CustodyRequestsActWhereTheyApply : Prop :=
  (∀ s : State, s.lcp.inFlight = none → s.online = true →
    (s.cfg.writer = true → s.cu.conflict = false →
      ((s.cu.state = .idle ∨ s.cu.state = .shadow) →
        ∃ t, exec (.custodyClaim []) s = .next t ∧ SameBut [.lcp, .latches, .cu, .lnc, .pub, .vw, .sp] s t
          ∧ InFlight t 9 [0] ∧ Answers t .accepted []
          ∧ t.cu = { s.cu with state := .claiming, prior := some s.cu.state,
                               claimAt := some (s.clock.ms + BitVec.ofNat 32 (1000 * s.cfg.claimWait)) }
          ∧ t.lnc.custodyList.getLast? = some { kind := .claim, frame := claimFrame s.cfg s.tb.horizon, attempts := 0 }
          ∧ t.pub.stationWaiting = some 0)
      ∧ (s.cu.state = .idle →
        ∃ t, exec (.custodyEnterShadow []) s = .next t ∧ SameBut [.lcp, .latches, .cu, .lnc, .pub, .vw, .sp] s t
          ∧ InFlight t 9 [2] ∧ Answers t .ok [] ∧ t.cu = { s.cu with state := .shadow } ∧ t.pub.stationWaiting = some 0
          ∧ t.pub.ownWeight = 2)
      ∧ (s.cu.state = .shadow →
        ∃ t, exec (.custodyLeaveShadow []) s = .next t ∧ SameBut [.lcp, .latches, .cu, .lnc, .pub, .vw, .sp] s t
          ∧ InFlight t 9 [3] ∧ Answers t .ok [] ∧ t.cu = { s.cu with state := .idle } ∧ t.pub.stationWaiting = some 0
          ∧ t.pub.ownWeight = 0)
      ∧ (¬ (s.cu.state = .releasing ∧ s.cu.handOver = .gathering) →
        ∃ t, exec (.custodyHold []) s = .next t ∧ SameBut [.lcp, .cu, .lnc, .pub, .sp] s t ∧ InFlight t 9 [4] ∧ Answers t .ok []
          ∧ t.cu = { s.cu with hold := true } ∧ (s.cu.hold = false → t.pub.stationWaiting = some 0))
      ∧ ((s.cu.state = .releasing ∧ s.cu.handOver = .gathering) →
        ∃ t, exec (.custodyHold []) s = .next t ∧ SameBut [.lcp, .latches, .cu, .lnc, .pub, .vw, .sp] s t ∧ InFlight t 9 [4]
          ∧ Answers t .ok []
          ∧ t.cu = { s.cu with hold := true, state := .onRecord, handOver := .none, claims := [], settleAt := none }
          ∧ t.lnc.custodyList = s.cu.claims.foldl
              (fun l c => dropWaiting (.refuse c.station) (decide (s.lnc.slot.inFlight = some .custody)) l
                ++ [{ kind := .refuse c.station, frame := refuseFrame s.cfg c.station .hold, attempts := 0 }]) s.lnc.custodyList
          ∧ ∀ c ∈ s.cu.claims,
              { kind := .refuse c.station, frame := refuseFrame s.cfg c.station .hold, attempts := 0 } ∈ t.lnc.custodyList)
      ∧ ∃ t, exec (.custodyUnhold []) s = .next t ∧ SameBut [.lcp, .cu, .lnc, .pub, .sp] s t ∧ InFlight t 9 [5] ∧ Answers t .ok []
          ∧ t.cu = { s.cu with hold := false } ∧ (s.cu.hold = true → t.pub.stationWaiting = some 0))
    ∧ ((s.cfg.writer = false ∨ s.cu.conflict = true ∨ (s.cu.state ≠ .idle ∧ s.cu.state ≠ .shadow)) →
      ∃ t, exec (.custodyClaim []) s = .next t ∧ OnlyAnswers s t 9 [0] .badState)
    ∧ ((s.cfg.writer = false ∨ s.cu.conflict = true ∨ s.cu.state ≠ .idle) →
      ∃ t, exec (.custodyEnterShadow []) s = .next t ∧ OnlyAnswers s t 9 [2] .badState)
    ∧ ((s.cfg.writer = false ∨ s.cu.conflict = true ∨ s.cu.state ≠ .shadow) →
      ∃ t, exec (.custodyLeaveShadow []) s = .next t ∧ OnlyAnswers s t 9 [3] .badState)
    ∧ ((s.cfg.writer = false ∨ s.cu.conflict = true) →
      (∃ t, exec (.custodyHold []) s = .next t ∧ OnlyAnswers s t 9 [4] .badState)
      ∧ ∃ t, exec (.custodyUnhold []) s = .next t ∧ OnlyAnswers s t 9 [5] .badState))
  ∧ (∀ s : State, s.lcp.inFlight = none → s.online = true →
    (s.cfg.writer = true → s.cu.conflict = false →
      (s.cu.state = .onRecord →
        ∃ u, exec (.custodyRelease []) s = .next (u.teRun.reply .accepted []).offered
          ∧ SameBut [.lcp, .latches, .te, .cu, .pub, .vw] s u ∧ InFlight u 9 [1]
          ∧ u.cu = { s.cu with state := .releasing, handOver := .handingOver 0,
                               commitAllDue := s.cu.commitAllDue || decide (s.te.phase = .idle) }
          ∧ (s.te.phase = .idle → u.te = s.te) ∧ (s.te.phase ≠ .idle → u.te.flushOwed = true ∧ u.te.demand = .all))
      ∧ (∀ c, s.cu.state = .releasing → s.cu.handOver = .gathering → s.cu.claims.foldl betterClaim none = some c →
        ∃ u, exec (.custodyRelease []) s = .next (u.teRun.reply .accepted []).offered ∧ SameBut [.lcp, .te, .cu] s u
          ∧ InFlight u 9 [1]
          ∧ u.cu = { s.cu with handOver := .handingOver c.station, claims := [], settleAt := none,
                               commitAllDue := s.cu.commitAllDue || decide (s.te.phase = .idle) }
          ∧ (s.te.phase = .idle → u.te = s.te) ∧ (s.te.phase ≠ .idle → u.te.flushOwed = true ∧ u.te.demand = .all)))
    ∧ ((s.cfg.writer = false ∨ s.cu.conflict = true
        ∨ (s.cu.state ≠ .onRecord ∧ ¬ (s.cu.state = .releasing ∧ s.cu.handOver = .gathering))) →
      ∃ t, exec (.custodyRelease []) s = .next t ∧ OnlyAnswers s t 9 [1] .badState))
  ∧ ∀ (rs : List Byte) (s : State), s.lcp.inFlight = none → s.online = true → rs ≠ [] → rs.length ≤ 263 →
    (∃ t, exec (.custodyClaim rs) s = .next t ∧ OnlyAnswers s t 9 (0 :: rs) .range)
    ∧ (∃ t, exec (.custodyRelease rs) s = .next t ∧ OnlyAnswers s t 9 (1 :: rs) .range)
    ∧ (∃ t, exec (.custodyEnterShadow rs) s = .next t ∧ OnlyAnswers s t 9 (2 :: rs) .range)
    ∧ (∃ t, exec (.custodyLeaveShadow rs) s = .next t ∧ OnlyAnswers s t 9 (3 :: rs) .range)
    ∧ (∃ t, exec (.custodyHold rs) s = .next t ∧ OnlyAnswers s t 9 (4 :: rs) .range)
    ∧ ∃ t, exec (.custodyUnhold rs) s = .next t ∧ OnlyAnswers s t 9 (5 :: rs) .range

/-- PANE ONLINE (R194): the pane named takes the source, offset and prefix and keeps its rows; the other pane stays; the answer is OK, or
RANGE where a value is outside its range. At a node without the viewer role the panes hold no settings, and OK changes nothing (the
model's choice, log 27). A DRAFT image of a station that no pane names any more is discarded, every other image stays (R175). At a viewer
the panes are composed anew (R177), and every row whose image is replaced joins the dirty set (R181). The rows of a pane: AUTO following a
holder at offset 0 shows its open lines, the last where rows are fewer, under store lines down from the reach, or store lines alone where
it has no RECORD image (R178); at an offset store lines alone; with no holder a status over store lines (R179); STATION the lines of its
image, the last where rows are fewer (the model's choice, log 36), under blank rows, or a status; SELF at a writer the open lines, the
last where rows are fewer (log 36), under ring lines (R180), at another node one row of length 0 under blank rows (R176). A row's image is
its prefix and its text (R177). The numbers of open lines rise past 16,777,215 too (the model's choice, log 43). -/
def Obligations.APaneTakesItsThreeSettings : Prop :=
  (∀ (ps : List Byte) (s : State), s.lcp.inFlight = none → s.online = true → ps.length ≤ 264 →
    (∀ isB src off pfx, paneParams ps = some (isB, src, off, pfx) →
      ∃ t, exec (.pane ps) s = .next t ∧ SameBut [.lcp, .vw, .sp] s t ∧ InFlight t 10 ps ∧ Answers t .ok []
        ∧ t.vw = { s.vw with paneA := t.vw.paneA, paneB := t.vw.paneB, tails := t.vw.tails }
        ∧ t.vw.paneA = (if isB = true then s.vw.paneA
                        else s.vw.paneA.map fun q => { q with source := src, offset := off, pfx := pfx })
        ∧ t.vw.paneB = (if isB = true then s.vw.paneB.map fun q => { q with source := src, offset := off, pfx := pfx }
                        else s.vw.paneB)
        ∧ (∀ i, i < 16 →
            (∀ x q, s.vw.tail i = some x → s.roster.slot i = some q → t.vw.tail i =
              if x.series = .draft ∧ t.vw.pinned q.station = false then none
              else some x)
            ∧ ((s.vw.tail i = none ∨ s.roster.slot i = none) → t.vw.tail i = s.vw.tail i))
        ∧ (∀ n, t.vw.pinned n = true ↔ ∃ p, (t.vw.paneA = some p ∨ t.vw.paneB = some p) ∧ p.source = .station n)
        ∧ t.sp.send = s.sp.send ∧ t.sp.busyPin = s.sp.busyPin
        ∧ (s.cfg.viewer = false → t.sp = s.sp)
        ∧ (s.cfg.viewer = true → t.sp.rows = t.paneImages t.vw.paneA ++ t.paneImages t.vw.paneB
            ∧ ∀ r, r ∈ t.sp.dirty ↔ r ∈ s.sp.dirty ∨ (r < t.sp.rows.length ∧ t.sp.rows[r]? ≠ s.sp.rows[r]?)))
    ∧ (paneParams ps = none → ∃ t, exec (.pane ps) s = .next t ∧ OnlyAnswers s t 10 ps .range))
  ∧ (∀ (s : State) (p : Pane), s.paneImages none = [] ∧ s.paneImages (some p) = (s.paneRows p).map (RowShows.image p.pfx)
    ∧ (s.paneRows p).length = p.rows
    ∧ (p.source = .auto → s.vw.followed = none → 0 < p.rows →
        s.paneRows p = .status (bytesOf (if s.cu.recordClosed = true then "OFF RECORD" else "NO RECORD"))
          :: s.vw.storeRows (p.rows - 1) (s.vw.reachLine.map fun n => n - p.offset))
    ∧ (p.source = .auto → s.vw.followed ≠ none → 0 < p.offset →
        s.paneRows p = s.vw.storeRows p.rows (s.vw.reachLine.map fun n => n - p.offset))
    ∧ (p.source = .auto → s.vw.followed = some .self → p.offset = 0 → ∀ ls, ls = openRows s.tb.series s.tb.firstOpen s.tb.region.lines →
        s.paneRows p = s.vw.storeRows (p.rows - ls.length) s.vw.reachLine ++ ls.drop (ls.length - p.rows))
    ∧ (∀ n, p.source = .auto → s.vw.followed = some (.station n) → p.offset = 0 →
        (∀ t ls, s.tailOf n = some t → t.series = .record → ls = openRows .record t.firstOpen t.lines →
          s.paneRows p = s.vw.storeRows (p.rows - ls.length) s.vw.reachLine ++ ls.drop (ls.length - p.rows))
        ∧ ((∀ t, s.tailOf n = some t → t.series = .draft) → s.paneRows p = s.vw.storeRows p.rows s.vw.reachLine))
    ∧ (∀ n, p.source = .station n → n ≠ s.own →
        (∀ t ls, s.tailOf n = some t → ls = openRows t.series t.firstOpen t.lines →
          s.paneRows p = List.replicate (p.rows - ls.length) .blank ++ ls.drop (ls.length - p.rows))
        ∧ (s.tailOf n = none → 0 < p.rows →
          s.paneRows p = .status (bytesOf "STATION " ++ decimal n ++ bytesOf " NO TAIL") :: List.replicate (p.rows - 1) .blank))
    ∧ ((p.source = .self ∨ p.source = .station s.own) →
        (s.cfg.writer = false → (s.paneRows p).map (RowShows.image p.pfx) = List.replicate p.rows [])
        ∧ (s.cfg.writer = true → p.offset = 0 → ∀ ls, ls = openRows s.tb.series s.tb.firstOpen s.tb.region.lines →
          s.paneRows p = s.tb.ringRows (p.rows - ls.length) 0 ++ ls.drop (ls.length - p.rows))
        ∧ (s.cfg.writer = true → 0 < p.offset → s.paneRows p = s.tb.ringRows p.rows p.offset)))
  ∧ (∀ (v : Viewer) (k i : Nat), i < k →
      (v.storeRows k none)[i]? = some .blank
      ∧ ∀ b, (v.storeRows k (some b))[i]? = some (
          if b ≤ k - 1 - i then .blank
          else match v.stateOf (b - (k - 1 - i)) with
            | some (.held _ text) => .held (b - (k - 1 - i)) text
            | some (.waiting _ _ _) => .waiting (b - (k - 1 - i))
            | some .lost => .lost (b - (k - 1 - i))
            | none => .blank))
  ∧ (∀ (series : Series) (first i : Nat) (lines : List (List Byte)) (text : List Byte), lines[i]? = some text →
      (openRows series first lines)[i]? = some (
        if first = 0 then .openEnd text
        else match series with
          | .record => .openRecord (first + i) text
          | .draft => .draft (first + i) true text))
  ∧ (∀ (b : Tb) (k skip i : Nat), i < k → (b.ringRows k skip)[i]? = some (
      if b.ring.length ≤ skip + (k - 1 - i) then .blank
      else match b.ring[b.ring.length - 1 - skip - (k - 1 - i)]? with
        | some l => (match l.series with | .record => .held l.number l.text | .draft => .draft l.number false l.text)
        | none => .blank))
  ∧ ∀ (n : Nat) (isOpen : Bool) (text page d : List Byte), page = pageLine n → d = decimal (n % 1000000) →
    RowShows.image true .blank = [] ∧ RowShows.image true (.status text) = text ∧ RowShows.image false (.status text) = text
    ∧ RowShows.image true (.held n text) = rightAlign 7 page ++ [32] ++ text ∧ RowShows.image false (.held n text) = text
    ∧ RowShows.image true (.waiting n) = rightAlign 7 page ++ [32] ++ bytesOf "[missing]"
    ∧ RowShows.image false (.waiting n) = bytesOf "[missing]" ++ [32] ++ page
    ∧ RowShows.image true (.lost n) = rightAlign 7 page ++ [32] ++ bytesOf "[lost]"
    ∧ RowShows.image false (.lost n) = bytesOf "[lost]" ++ [32] ++ page
    ∧ RowShows.image true (.openRecord n text) = rightAlign 7 page ++ [62] ++ text
    ∧ RowShows.image false (.openRecord n text) = text
    ∧ RowShows.image true (.draft n isOpen text) = [68] ++ rightAlign 6 d ++ [if isOpen = true then 62 else 32] ++ text
    ∧ RowShows.image false (.draft n isOpen text) = text
    ∧ RowShows.image true (.openEnd text) = List.replicate 8 32 ++ text ∧ RowShows.image false (.openEnd text) = text

/-- READ_LINES in both modes (R195): up to four lines from the cursor on, after the count of ordinals jumped over; a cursor the ring has
left behind goes to its oldest line; only the auto mode moves it past the lines given. READ_NOTES in both modes (R14, R196): up to
sixteen unexported records, oldest first, with the unexported and lost counts after the take; only the auto mode moves the export
cursor. Another count, and another length of the parameters, are RANGE and nothing more (R186). -/
def Obligations.LinesAndNotesAreExported : Prop :=
  (∀ (n : Byte) (s : State) (steps : Nat) (given : List CommittedLine), s.lcp.inFlight = none → 1 ≤ n.toNat → n.toNat ≤ 4 →
    steps = ordinalSteps s.lcp.lineCursor s.tb.nextOrdinal →
    (steps ≤ s.tb.ring.length → given = (s.tb.ring.drop (s.tb.ring.length - steps)).take n.toNat →
      (∃ t, exec (.readLinesAuto [n]) s = .next t ∧ SameBut [.lcp] s t ∧ InFlight t 11 [0, n]
        ∧ Answers t .ok (leBytes 4 0 ++ leBytes 1 given.length ++ given.flatMap CommittedLine.bytes)
        ∧ t.lcp.lineCursor = (match given.getLast? with | some l => nextOrdinalOf l.ordinal | none => s.lcp.lineCursor))
      ∧ ∃ t, exec (.readLinesPeek [n]) s = .next t ∧ SameBut [.lcp] s t ∧ InFlight t 11 [1, n]
        ∧ Answers t .ok (leBytes 4 0 ++ leBytes 1 given.length ++ given.flatMap CommittedLine.bytes)
        ∧ t.lcp.lineCursor = s.lcp.lineCursor)
    ∧ (∀ l ls, s.tb.ring.length < steps → s.tb.ring = l :: ls → given = s.tb.ring.take n.toNat →
      (∃ t, exec (.readLinesAuto [n]) s = .next t ∧ SameBut [.lcp] s t ∧ InFlight t 11 [0, n]
        ∧ Answers t .ok (leBytes 4 (steps - s.tb.ring.length) ++ leBytes 1 given.length ++ given.flatMap CommittedLine.bytes)
        ∧ t.lcp.lineCursor = nextOrdinalOf ((given.getLast?.map CommittedLine.ordinal).getD 0))
      ∧ ∃ t, exec (.readLinesPeek [n]) s = .next t ∧ SameBut [.lcp] s t ∧ InFlight t 11 [1, n]
        ∧ Answers t .ok (leBytes 4 (steps - s.tb.ring.length) ++ leBytes 1 given.length ++ given.flatMap CommittedLine.bytes)
        ∧ t.lcp.lineCursor = l.ordinal))
  ∧ (∀ (n : Byte) (s : State) (given : List StrokeRecord), s.lcp.inFlight = none → 1 ≤ n.toNat → n.toNat ≤ 16 →
    given = (s.notes.entries.drop (s.notes.entries.length - s.notes.unexported)).take n.toNat →
    (∃ t, exec (.readNotesAuto [n]) s = .next t ∧ SameBut [.lcp, .notes] s t ∧ InFlight t 12 [0, n]
      ∧ t.notes = { s.notes with unexported := s.notes.unexported - given.length }
      ∧ Answers t .ok (leBytes 1 given.length ++ given.flatMap StrokeRecord.bytes
          ++ leBytes 2 (s.notes.unexported - given.length) ++ leBytes 4 s.notes.lost))
    ∧ ∃ t, exec (.readNotesPeek [n]) s = .next t ∧ SameBut [.lcp] s t ∧ InFlight t 12 [1, n]
      ∧ Answers t .ok (leBytes 1 given.length ++ given.flatMap StrokeRecord.bytes ++ leBytes 2 s.notes.unexported
          ++ leBytes 4 s.notes.lost))
  ∧ ∀ (rest : List Byte) (s : State) (code mode : Byte) (most : Nat) (c : Instr), s.lcp.inFlight = none → rest.length ≤ 263 →
    (code, mode, most, c) ∈ [((11 : Byte), (0 : Byte), 4, Instr.readLinesAuto rest), (11, 1, 4, .readLinesPeek rest),
      (12, 0, 16, .readNotesAuto rest), (12, 1, 16, .readNotesPeek rest)] →
    (∀ n : Byte, rest = [n] → n.toNat = 0 ∨ most < n.toNat) →
    ∃ t, exec c s = .next t ∧ OnlyAnswers s t code (mode :: rest) .range

/-- READ_STATUS and READ_ROSTER (R139, R197): the status data after a credit update, 208 bytes in the model's layout (its choice, log 19);
one 20-byte record for each slot that holds a station, slots numbered from 0 (log 20), after their count. READ_EVENT and SET_MASK (R198,
R199): the pending event of highest priority among the enabled ones is given with its count and detail, and its latch alone is cleared;
with none, eight zeros are given and nothing is cleared. SET_MASK changes the mask and no latch. Other parameters of the four commands are
RANGE and nothing more (R186). -/
def Obligations.StatusRosterAndEventsAreRead : Prop :=
  ((∀ s : State, s.lcp.inFlight = none →
    ∃ t data, exec (.readStatus []) s = .next t ∧ SameBut [.lcp, .pub, .lnc] s t ∧ InFlight t 13 [] ∧ Answers t .ok data
      ∧ SameButCredit s.pub t.pub ∧ SameButSlot s.lnc t.lnc
      ∧ data = (s.taking 13 []).updateCredit.statusData ∧ data.length = 208
      ∧ data.take 6 = [boolByte s.online, boolByte s.lcp.config.isSome] ++ leBytes 4 s.kcu.nextStroke)
  ∧ ∀ s : State, s.lcp.inFlight = none →
    ∃ t recs, exec (.readRoster []) s = .next t ∧ SameBut [.lcp] s t ∧ InFlight t 14 []
      ∧ Answers t .ok (leBytes 1 recs.length ++ recs.flatMap id)
      ∧ recs = (List.range 16).filterMap (fun i => (s.roster.slot i).map fun q => q.bytes i s.clock.ms)
      ∧ ∀ r ∈ recs, r.length = 20)
  ∧ ((∀ (s : State) (p : Nat) (x : Latch), s.lcp.inFlight = none → 1 ≤ p → p ≤ 16 → s.lcp.latch p = some x →
    s.lcp.mask.getLsbD (p - 1) = true →
    (∀ k, 1 ≤ k → k < p → s.lcp.latch k = none ∨ s.lcp.mask.getLsbD (k - 1) = false) →
    ∃ t, exec (.readEvent []) s = .next t ∧ SameBut [.lcp, .latches] s t ∧ InFlight t 15 []
      ∧ Answers t .ok (leBytes 1 p ++ leBytes 1 x.count ++ x.event.detail)
      ∧ t.lcp.latch p = none ∧ (∀ k, 1 ≤ k → k ≤ 16 → k ≠ p → t.lcp.latch k = s.lcp.latch k) ∧ t.lcp.mask = s.lcp.mask)
  ∧ (∀ s : State, s.lcp.inFlight = none → s.attn = false →
    ∃ t, exec (.readEvent []) s = .next t ∧ SameBut [.lcp] s t ∧ InFlight t 15 [] ∧ Answers t .ok [0, 0, 0, 0, 0, 0, 0, 0]
      ∧ t.lcp.mask = s.lcp.mask)
  ∧ ∀ (ps : List Byte) (s : State), s.lcp.inFlight = none → ps.length ≤ 264 →
    (∀ lo hi, ps = [lo, hi] →
      ∃ t, exec (.setMask ps) s = .next t ∧ SameBut [.lcp] s t ∧ InFlight t 16 ps ∧ Answers t .ok []
        ∧ t.lcp.mask = BitVec.ofNat 16 (lo.toNat + 256 * hi.toNat))
    ∧ (ps.length ≠ 2 → ∃ t, exec (.setMask ps) s = .next t ∧ OnlyAnswers s t 16 ps .range))
  ∧ ∀ (ps : List Byte) (s : State) (code : Byte) (c : Instr), s.lcp.inFlight = none → ps ≠ [] → ps.length ≤ 264 →
    (code, c) ∈ [((13 : Byte), Instr.readStatus ps), (14, .readRoster ps), (15, .readEvent ps)] →
    ∃ t, exec c s = .next t ∧ OnlyAnswers s t code ps .range
end

