-- ==== Sys2Proof/Laws/State.lean ====
section
/-! SUPPORT. One lemma per field for each update of the state. -/

namespace Sys2Proof.Machine

@[simp] theorem State.setClock_clock (s : State) (x : Clock) : (s.setClock x).clock = x := rfl
@[simp] theorem State.setClock_kcu (s : State) (x : Clock) : (s.setClock x).kcu = s.kcu := rfl
@[simp] theorem State.setClock_sq (s : State) (x : Clock) : (s.setClock x).sq = s.sq := rfl
@[simp] theorem State.setClock_notes (s : State) (x : Clock) : (s.setClock x).notes = s.notes := rfl
@[simp] theorem State.setClock_mem (s : State) (x : Clock) : (s.setClock x).mem = s.mem := rfl
@[simp] theorem State.setClock_du (s : State) (x : Clock) : (s.setClock x).du = s.du := rfl
@[simp] theorem State.setClock_cache (s : State) (x : Clock) : (s.setClock x).cache = s.cache := rfl
@[simp] theorem State.setClock_arb (s : State) (x : Clock) : (s.setClock x).arb = s.arb := rfl
@[simp] theorem State.setClock_te (s : State) (x : Clock) : (s.setClock x).te = s.te := rfl
@[simp] theorem State.setClock_tb (s : State) (x : Clock) : (s.setClock x).tb = s.tb := rfl
@[simp] theorem State.setClock_lnc (s : State) (x : Clock) : (s.setClock x).lnc = s.lnc := rfl
@[simp] theorem State.setClock_pub (s : State) (x : Clock) : (s.setClock x).pub = s.pub := rfl
@[simp] theorem State.setClock_roster (s : State) (x : Clock) : (s.setClock x).roster = s.roster := rfl
@[simp] theorem State.setClock_cu (s : State) (x : Clock) : (s.setClock x).cu = s.cu := rfl
@[simp] theorem State.setClock_vw (s : State) (x : Clock) : (s.setClock x).vw = s.vw := rfl
@[simp] theorem State.setClock_sp (s : State) (x : Clock) : (s.setClock x).sp = s.sp := rfl
@[simp] theorem State.setClock_lcp (s : State) (x : Clock) : (s.setClock x).lcp = s.lcp := rfl
@[simp] theorem State.setClock_pending (s : State) (x : Clock) : (s.setClock x).pending = s.pending := rfl

@[simp] theorem State.setKcu_clock (s : State) (x : Kcu) : (s.setKcu x).clock = s.clock := rfl
@[simp] theorem State.setKcu_kcu (s : State) (x : Kcu) : (s.setKcu x).kcu = x := rfl
@[simp] theorem State.setKcu_sq (s : State) (x : Kcu) : (s.setKcu x).sq = s.sq := rfl
@[simp] theorem State.setKcu_notes (s : State) (x : Kcu) : (s.setKcu x).notes = s.notes := rfl
@[simp] theorem State.setKcu_mem (s : State) (x : Kcu) : (s.setKcu x).mem = s.mem := rfl
@[simp] theorem State.setKcu_du (s : State) (x : Kcu) : (s.setKcu x).du = s.du := rfl
@[simp] theorem State.setKcu_cache (s : State) (x : Kcu) : (s.setKcu x).cache = s.cache := rfl
@[simp] theorem State.setKcu_arb (s : State) (x : Kcu) : (s.setKcu x).arb = s.arb := rfl
@[simp] theorem State.setKcu_te (s : State) (x : Kcu) : (s.setKcu x).te = s.te := rfl
@[simp] theorem State.setKcu_tb (s : State) (x : Kcu) : (s.setKcu x).tb = s.tb := rfl
@[simp] theorem State.setKcu_lnc (s : State) (x : Kcu) : (s.setKcu x).lnc = s.lnc := rfl
@[simp] theorem State.setKcu_pub (s : State) (x : Kcu) : (s.setKcu x).pub = s.pub := rfl
@[simp] theorem State.setKcu_roster (s : State) (x : Kcu) : (s.setKcu x).roster = s.roster := rfl
@[simp] theorem State.setKcu_cu (s : State) (x : Kcu) : (s.setKcu x).cu = s.cu := rfl
@[simp] theorem State.setKcu_vw (s : State) (x : Kcu) : (s.setKcu x).vw = s.vw := rfl
@[simp] theorem State.setKcu_sp (s : State) (x : Kcu) : (s.setKcu x).sp = s.sp := rfl
@[simp] theorem State.setKcu_lcp (s : State) (x : Kcu) : (s.setKcu x).lcp = s.lcp := rfl
@[simp] theorem State.setKcu_pending (s : State) (x : Kcu) : (s.setKcu x).pending = s.pending := rfl

@[simp] theorem State.setSq_clock (s : State) (x : StrokeQueue) : (s.setSq x).clock = s.clock := rfl
@[simp] theorem State.setSq_kcu (s : State) (x : StrokeQueue) : (s.setSq x).kcu = s.kcu := rfl
@[simp] theorem State.setSq_sq (s : State) (x : StrokeQueue) : (s.setSq x).sq = x := rfl
@[simp] theorem State.setSq_notes (s : State) (x : StrokeQueue) : (s.setSq x).notes = s.notes := rfl
@[simp] theorem State.setSq_mem (s : State) (x : StrokeQueue) : (s.setSq x).mem = s.mem := rfl
@[simp] theorem State.setSq_du (s : State) (x : StrokeQueue) : (s.setSq x).du = s.du := rfl
@[simp] theorem State.setSq_cache (s : State) (x : StrokeQueue) : (s.setSq x).cache = s.cache := rfl
@[simp] theorem State.setSq_arb (s : State) (x : StrokeQueue) : (s.setSq x).arb = s.arb := rfl
@[simp] theorem State.setSq_te (s : State) (x : StrokeQueue) : (s.setSq x).te = s.te := rfl
@[simp] theorem State.setSq_tb (s : State) (x : StrokeQueue) : (s.setSq x).tb = s.tb := rfl
@[simp] theorem State.setSq_lnc (s : State) (x : StrokeQueue) : (s.setSq x).lnc = s.lnc := rfl
@[simp] theorem State.setSq_pub (s : State) (x : StrokeQueue) : (s.setSq x).pub = s.pub := rfl
@[simp] theorem State.setSq_roster (s : State) (x : StrokeQueue) : (s.setSq x).roster = s.roster := rfl
@[simp] theorem State.setSq_cu (s : State) (x : StrokeQueue) : (s.setSq x).cu = s.cu := rfl
@[simp] theorem State.setSq_vw (s : State) (x : StrokeQueue) : (s.setSq x).vw = s.vw := rfl
@[simp] theorem State.setSq_sp (s : State) (x : StrokeQueue) : (s.setSq x).sp = s.sp := rfl
@[simp] theorem State.setSq_lcp (s : State) (x : StrokeQueue) : (s.setSq x).lcp = s.lcp := rfl
@[simp] theorem State.setSq_pending (s : State) (x : StrokeQueue) : (s.setSq x).pending = s.pending := rfl

@[simp] theorem State.setNotes_clock (s : State) (x : NotesLog) : (s.setNotes x).clock = s.clock := rfl
@[simp] theorem State.setNotes_kcu (s : State) (x : NotesLog) : (s.setNotes x).kcu = s.kcu := rfl
@[simp] theorem State.setNotes_sq (s : State) (x : NotesLog) : (s.setNotes x).sq = s.sq := rfl
@[simp] theorem State.setNotes_notes (s : State) (x : NotesLog) : (s.setNotes x).notes = x := rfl
@[simp] theorem State.setNotes_mem (s : State) (x : NotesLog) : (s.setNotes x).mem = s.mem := rfl
@[simp] theorem State.setNotes_du (s : State) (x : NotesLog) : (s.setNotes x).du = s.du := rfl
@[simp] theorem State.setNotes_cache (s : State) (x : NotesLog) : (s.setNotes x).cache = s.cache := rfl
@[simp] theorem State.setNotes_arb (s : State) (x : NotesLog) : (s.setNotes x).arb = s.arb := rfl
@[simp] theorem State.setNotes_te (s : State) (x : NotesLog) : (s.setNotes x).te = s.te := rfl
@[simp] theorem State.setNotes_tb (s : State) (x : NotesLog) : (s.setNotes x).tb = s.tb := rfl
@[simp] theorem State.setNotes_lnc (s : State) (x : NotesLog) : (s.setNotes x).lnc = s.lnc := rfl
@[simp] theorem State.setNotes_pub (s : State) (x : NotesLog) : (s.setNotes x).pub = s.pub := rfl
@[simp] theorem State.setNotes_roster (s : State) (x : NotesLog) : (s.setNotes x).roster = s.roster := rfl
@[simp] theorem State.setNotes_cu (s : State) (x : NotesLog) : (s.setNotes x).cu = s.cu := rfl
@[simp] theorem State.setNotes_vw (s : State) (x : NotesLog) : (s.setNotes x).vw = s.vw := rfl
@[simp] theorem State.setNotes_sp (s : State) (x : NotesLog) : (s.setNotes x).sp = s.sp := rfl
@[simp] theorem State.setNotes_lcp (s : State) (x : NotesLog) : (s.setNotes x).lcp = s.lcp := rfl
@[simp] theorem State.setNotes_pending (s : State) (x : NotesLog) : (s.setNotes x).pending = s.pending := rfl

@[simp] theorem State.setMem_clock (s : State) (x : Memory) : (s.setMem x).clock = s.clock := rfl
@[simp] theorem State.setMem_kcu (s : State) (x : Memory) : (s.setMem x).kcu = s.kcu := rfl
@[simp] theorem State.setMem_sq (s : State) (x : Memory) : (s.setMem x).sq = s.sq := rfl
@[simp] theorem State.setMem_notes (s : State) (x : Memory) : (s.setMem x).notes = s.notes := rfl
@[simp] theorem State.setMem_mem (s : State) (x : Memory) : (s.setMem x).mem = x := rfl
@[simp] theorem State.setMem_du (s : State) (x : Memory) : (s.setMem x).du = s.du := rfl
@[simp] theorem State.setMem_cache (s : State) (x : Memory) : (s.setMem x).cache = s.cache := rfl
@[simp] theorem State.setMem_arb (s : State) (x : Memory) : (s.setMem x).arb = s.arb := rfl
@[simp] theorem State.setMem_te (s : State) (x : Memory) : (s.setMem x).te = s.te := rfl
@[simp] theorem State.setMem_tb (s : State) (x : Memory) : (s.setMem x).tb = s.tb := rfl
@[simp] theorem State.setMem_lnc (s : State) (x : Memory) : (s.setMem x).lnc = s.lnc := rfl
@[simp] theorem State.setMem_pub (s : State) (x : Memory) : (s.setMem x).pub = s.pub := rfl
@[simp] theorem State.setMem_roster (s : State) (x : Memory) : (s.setMem x).roster = s.roster := rfl
@[simp] theorem State.setMem_cu (s : State) (x : Memory) : (s.setMem x).cu = s.cu := rfl
@[simp] theorem State.setMem_vw (s : State) (x : Memory) : (s.setMem x).vw = s.vw := rfl
@[simp] theorem State.setMem_sp (s : State) (x : Memory) : (s.setMem x).sp = s.sp := rfl
@[simp] theorem State.setMem_lcp (s : State) (x : Memory) : (s.setMem x).lcp = s.lcp := rfl
@[simp] theorem State.setMem_pending (s : State) (x : Memory) : (s.setMem x).pending = s.pending := rfl

@[simp] theorem State.setDu_clock (s : State) (x : Du) : (s.setDu x).clock = s.clock := rfl
@[simp] theorem State.setDu_kcu (s : State) (x : Du) : (s.setDu x).kcu = s.kcu := rfl
@[simp] theorem State.setDu_sq (s : State) (x : Du) : (s.setDu x).sq = s.sq := rfl
@[simp] theorem State.setDu_notes (s : State) (x : Du) : (s.setDu x).notes = s.notes := rfl
@[simp] theorem State.setDu_mem (s : State) (x : Du) : (s.setDu x).mem = s.mem := rfl
@[simp] theorem State.setDu_du (s : State) (x : Du) : (s.setDu x).du = x := rfl
@[simp] theorem State.setDu_cache (s : State) (x : Du) : (s.setDu x).cache = s.cache := rfl
@[simp] theorem State.setDu_arb (s : State) (x : Du) : (s.setDu x).arb = s.arb := rfl
@[simp] theorem State.setDu_te (s : State) (x : Du) : (s.setDu x).te = s.te := rfl
@[simp] theorem State.setDu_tb (s : State) (x : Du) : (s.setDu x).tb = s.tb := rfl
@[simp] theorem State.setDu_lnc (s : State) (x : Du) : (s.setDu x).lnc = s.lnc := rfl
@[simp] theorem State.setDu_pub (s : State) (x : Du) : (s.setDu x).pub = s.pub := rfl
@[simp] theorem State.setDu_roster (s : State) (x : Du) : (s.setDu x).roster = s.roster := rfl
@[simp] theorem State.setDu_cu (s : State) (x : Du) : (s.setDu x).cu = s.cu := rfl
@[simp] theorem State.setDu_vw (s : State) (x : Du) : (s.setDu x).vw = s.vw := rfl
@[simp] theorem State.setDu_sp (s : State) (x : Du) : (s.setDu x).sp = s.sp := rfl
@[simp] theorem State.setDu_lcp (s : State) (x : Du) : (s.setDu x).lcp = s.lcp := rfl
@[simp] theorem State.setDu_pending (s : State) (x : Du) : (s.setDu x).pending = s.pending := rfl

@[simp] theorem State.setCache_clock (s : State) (x : Cache) : (s.setCache x).clock = s.clock := rfl
@[simp] theorem State.setCache_kcu (s : State) (x : Cache) : (s.setCache x).kcu = s.kcu := rfl
@[simp] theorem State.setCache_sq (s : State) (x : Cache) : (s.setCache x).sq = s.sq := rfl
@[simp] theorem State.setCache_notes (s : State) (x : Cache) : (s.setCache x).notes = s.notes := rfl
@[simp] theorem State.setCache_mem (s : State) (x : Cache) : (s.setCache x).mem = s.mem := rfl
@[simp] theorem State.setCache_du (s : State) (x : Cache) : (s.setCache x).du = s.du := rfl
@[simp] theorem State.setCache_cache (s : State) (x : Cache) : (s.setCache x).cache = x := rfl
@[simp] theorem State.setCache_arb (s : State) (x : Cache) : (s.setCache x).arb = s.arb := rfl
@[simp] theorem State.setCache_te (s : State) (x : Cache) : (s.setCache x).te = s.te := rfl
@[simp] theorem State.setCache_tb (s : State) (x : Cache) : (s.setCache x).tb = s.tb := rfl
@[simp] theorem State.setCache_lnc (s : State) (x : Cache) : (s.setCache x).lnc = s.lnc := rfl
@[simp] theorem State.setCache_pub (s : State) (x : Cache) : (s.setCache x).pub = s.pub := rfl
@[simp] theorem State.setCache_roster (s : State) (x : Cache) : (s.setCache x).roster = s.roster := rfl
@[simp] theorem State.setCache_cu (s : State) (x : Cache) : (s.setCache x).cu = s.cu := rfl
@[simp] theorem State.setCache_vw (s : State) (x : Cache) : (s.setCache x).vw = s.vw := rfl
@[simp] theorem State.setCache_sp (s : State) (x : Cache) : (s.setCache x).sp = s.sp := rfl
@[simp] theorem State.setCache_lcp (s : State) (x : Cache) : (s.setCache x).lcp = s.lcp := rfl
@[simp] theorem State.setCache_pending (s : State) (x : Cache) : (s.setCache x).pending = s.pending := rfl

@[simp] theorem State.setArb_clock (s : State) (x : Arbiter) : (s.setArb x).clock = s.clock := rfl
@[simp] theorem State.setArb_kcu (s : State) (x : Arbiter) : (s.setArb x).kcu = s.kcu := rfl
@[simp] theorem State.setArb_sq (s : State) (x : Arbiter) : (s.setArb x).sq = s.sq := rfl
@[simp] theorem State.setArb_notes (s : State) (x : Arbiter) : (s.setArb x).notes = s.notes := rfl
@[simp] theorem State.setArb_mem (s : State) (x : Arbiter) : (s.setArb x).mem = s.mem := rfl
@[simp] theorem State.setArb_du (s : State) (x : Arbiter) : (s.setArb x).du = s.du := rfl
@[simp] theorem State.setArb_cache (s : State) (x : Arbiter) : (s.setArb x).cache = s.cache := rfl
@[simp] theorem State.setArb_arb (s : State) (x : Arbiter) : (s.setArb x).arb = x := rfl
@[simp] theorem State.setArb_te (s : State) (x : Arbiter) : (s.setArb x).te = s.te := rfl
@[simp] theorem State.setArb_tb (s : State) (x : Arbiter) : (s.setArb x).tb = s.tb := rfl
@[simp] theorem State.setArb_lnc (s : State) (x : Arbiter) : (s.setArb x).lnc = s.lnc := rfl
@[simp] theorem State.setArb_pub (s : State) (x : Arbiter) : (s.setArb x).pub = s.pub := rfl
@[simp] theorem State.setArb_roster (s : State) (x : Arbiter) : (s.setArb x).roster = s.roster := rfl
@[simp] theorem State.setArb_cu (s : State) (x : Arbiter) : (s.setArb x).cu = s.cu := rfl
@[simp] theorem State.setArb_vw (s : State) (x : Arbiter) : (s.setArb x).vw = s.vw := rfl
@[simp] theorem State.setArb_sp (s : State) (x : Arbiter) : (s.setArb x).sp = s.sp := rfl
@[simp] theorem State.setArb_lcp (s : State) (x : Arbiter) : (s.setArb x).lcp = s.lcp := rfl
@[simp] theorem State.setArb_pending (s : State) (x : Arbiter) : (s.setArb x).pending = s.pending := rfl

@[simp] theorem State.setTe_clock (s : State) (x : Te) : (s.setTe x).clock = s.clock := rfl
@[simp] theorem State.setTe_kcu (s : State) (x : Te) : (s.setTe x).kcu = s.kcu := rfl
@[simp] theorem State.setTe_sq (s : State) (x : Te) : (s.setTe x).sq = s.sq := rfl
@[simp] theorem State.setTe_notes (s : State) (x : Te) : (s.setTe x).notes = s.notes := rfl
@[simp] theorem State.setTe_mem (s : State) (x : Te) : (s.setTe x).mem = s.mem := rfl
@[simp] theorem State.setTe_du (s : State) (x : Te) : (s.setTe x).du = s.du := rfl
@[simp] theorem State.setTe_cache (s : State) (x : Te) : (s.setTe x).cache = s.cache := rfl
@[simp] theorem State.setTe_arb (s : State) (x : Te) : (s.setTe x).arb = s.arb := rfl
@[simp] theorem State.setTe_te (s : State) (x : Te) : (s.setTe x).te = x := rfl
@[simp] theorem State.setTe_tb (s : State) (x : Te) : (s.setTe x).tb = s.tb := rfl
@[simp] theorem State.setTe_lnc (s : State) (x : Te) : (s.setTe x).lnc = s.lnc := rfl
@[simp] theorem State.setTe_pub (s : State) (x : Te) : (s.setTe x).pub = s.pub := rfl
@[simp] theorem State.setTe_roster (s : State) (x : Te) : (s.setTe x).roster = s.roster := rfl
@[simp] theorem State.setTe_cu (s : State) (x : Te) : (s.setTe x).cu = s.cu := rfl
@[simp] theorem State.setTe_vw (s : State) (x : Te) : (s.setTe x).vw = s.vw := rfl
@[simp] theorem State.setTe_sp (s : State) (x : Te) : (s.setTe x).sp = s.sp := rfl
@[simp] theorem State.setTe_lcp (s : State) (x : Te) : (s.setTe x).lcp = s.lcp := rfl
@[simp] theorem State.setTe_pending (s : State) (x : Te) : (s.setTe x).pending = s.pending := rfl

@[simp] theorem State.setTb_clock (s : State) (x : Tb) : (s.setTb x).clock = s.clock := rfl
@[simp] theorem State.setTb_kcu (s : State) (x : Tb) : (s.setTb x).kcu = s.kcu := rfl
@[simp] theorem State.setTb_sq (s : State) (x : Tb) : (s.setTb x).sq = s.sq := rfl
@[simp] theorem State.setTb_notes (s : State) (x : Tb) : (s.setTb x).notes = s.notes := rfl
@[simp] theorem State.setTb_mem (s : State) (x : Tb) : (s.setTb x).mem = s.mem := rfl
@[simp] theorem State.setTb_du (s : State) (x : Tb) : (s.setTb x).du = s.du := rfl
@[simp] theorem State.setTb_cache (s : State) (x : Tb) : (s.setTb x).cache = s.cache := rfl
@[simp] theorem State.setTb_arb (s : State) (x : Tb) : (s.setTb x).arb = s.arb := rfl
@[simp] theorem State.setTb_te (s : State) (x : Tb) : (s.setTb x).te = s.te := rfl
@[simp] theorem State.setTb_tb (s : State) (x : Tb) : (s.setTb x).tb = x := rfl
@[simp] theorem State.setTb_lnc (s : State) (x : Tb) : (s.setTb x).lnc = s.lnc := rfl
@[simp] theorem State.setTb_pub (s : State) (x : Tb) : (s.setTb x).pub = s.pub := rfl
@[simp] theorem State.setTb_roster (s : State) (x : Tb) : (s.setTb x).roster = s.roster := rfl
@[simp] theorem State.setTb_cu (s : State) (x : Tb) : (s.setTb x).cu = s.cu := rfl
@[simp] theorem State.setTb_vw (s : State) (x : Tb) : (s.setTb x).vw = s.vw := rfl
@[simp] theorem State.setTb_sp (s : State) (x : Tb) : (s.setTb x).sp = s.sp := rfl
@[simp] theorem State.setTb_lcp (s : State) (x : Tb) : (s.setTb x).lcp = s.lcp := rfl
@[simp] theorem State.setTb_pending (s : State) (x : Tb) : (s.setTb x).pending = s.pending := rfl

@[simp] theorem State.setLnc_clock (s : State) (x : Lnc) : (s.setLnc x).clock = s.clock := rfl
@[simp] theorem State.setLnc_kcu (s : State) (x : Lnc) : (s.setLnc x).kcu = s.kcu := rfl
@[simp] theorem State.setLnc_sq (s : State) (x : Lnc) : (s.setLnc x).sq = s.sq := rfl
@[simp] theorem State.setLnc_notes (s : State) (x : Lnc) : (s.setLnc x).notes = s.notes := rfl
@[simp] theorem State.setLnc_mem (s : State) (x : Lnc) : (s.setLnc x).mem = s.mem := rfl
@[simp] theorem State.setLnc_du (s : State) (x : Lnc) : (s.setLnc x).du = s.du := rfl
@[simp] theorem State.setLnc_cache (s : State) (x : Lnc) : (s.setLnc x).cache = s.cache := rfl
@[simp] theorem State.setLnc_arb (s : State) (x : Lnc) : (s.setLnc x).arb = s.arb := rfl
@[simp] theorem State.setLnc_te (s : State) (x : Lnc) : (s.setLnc x).te = s.te := rfl
@[simp] theorem State.setLnc_tb (s : State) (x : Lnc) : (s.setLnc x).tb = s.tb := rfl
@[simp] theorem State.setLnc_lnc (s : State) (x : Lnc) : (s.setLnc x).lnc = x := rfl
@[simp] theorem State.setLnc_pub (s : State) (x : Lnc) : (s.setLnc x).pub = s.pub := rfl
@[simp] theorem State.setLnc_roster (s : State) (x : Lnc) : (s.setLnc x).roster = s.roster := rfl
@[simp] theorem State.setLnc_cu (s : State) (x : Lnc) : (s.setLnc x).cu = s.cu := rfl
@[simp] theorem State.setLnc_vw (s : State) (x : Lnc) : (s.setLnc x).vw = s.vw := rfl
@[simp] theorem State.setLnc_sp (s : State) (x : Lnc) : (s.setLnc x).sp = s.sp := rfl
@[simp] theorem State.setLnc_lcp (s : State) (x : Lnc) : (s.setLnc x).lcp = s.lcp := rfl
@[simp] theorem State.setLnc_pending (s : State) (x : Lnc) : (s.setLnc x).pending = s.pending := rfl

@[simp] theorem State.setPub_clock (s : State) (x : Pub) : (s.setPub x).clock = s.clock := rfl
@[simp] theorem State.setPub_kcu (s : State) (x : Pub) : (s.setPub x).kcu = s.kcu := rfl
@[simp] theorem State.setPub_sq (s : State) (x : Pub) : (s.setPub x).sq = s.sq := rfl
@[simp] theorem State.setPub_notes (s : State) (x : Pub) : (s.setPub x).notes = s.notes := rfl
@[simp] theorem State.setPub_mem (s : State) (x : Pub) : (s.setPub x).mem = s.mem := rfl
@[simp] theorem State.setPub_du (s : State) (x : Pub) : (s.setPub x).du = s.du := rfl
@[simp] theorem State.setPub_cache (s : State) (x : Pub) : (s.setPub x).cache = s.cache := rfl
@[simp] theorem State.setPub_arb (s : State) (x : Pub) : (s.setPub x).arb = s.arb := rfl
@[simp] theorem State.setPub_te (s : State) (x : Pub) : (s.setPub x).te = s.te := rfl
@[simp] theorem State.setPub_tb (s : State) (x : Pub) : (s.setPub x).tb = s.tb := rfl
@[simp] theorem State.setPub_lnc (s : State) (x : Pub) : (s.setPub x).lnc = s.lnc := rfl
@[simp] theorem State.setPub_pub (s : State) (x : Pub) : (s.setPub x).pub = x := rfl
@[simp] theorem State.setPub_roster (s : State) (x : Pub) : (s.setPub x).roster = s.roster := rfl
@[simp] theorem State.setPub_cu (s : State) (x : Pub) : (s.setPub x).cu = s.cu := rfl
@[simp] theorem State.setPub_vw (s : State) (x : Pub) : (s.setPub x).vw = s.vw := rfl
@[simp] theorem State.setPub_sp (s : State) (x : Pub) : (s.setPub x).sp = s.sp := rfl
@[simp] theorem State.setPub_lcp (s : State) (x : Pub) : (s.setPub x).lcp = s.lcp := rfl
@[simp] theorem State.setPub_pending (s : State) (x : Pub) : (s.setPub x).pending = s.pending := rfl

@[simp] theorem State.setRoster_clock (s : State) (x : Roster) : (s.setRoster x).clock = s.clock := rfl
@[simp] theorem State.setRoster_kcu (s : State) (x : Roster) : (s.setRoster x).kcu = s.kcu := rfl
@[simp] theorem State.setRoster_sq (s : State) (x : Roster) : (s.setRoster x).sq = s.sq := rfl
@[simp] theorem State.setRoster_notes (s : State) (x : Roster) : (s.setRoster x).notes = s.notes := rfl
@[simp] theorem State.setRoster_mem (s : State) (x : Roster) : (s.setRoster x).mem = s.mem := rfl
@[simp] theorem State.setRoster_du (s : State) (x : Roster) : (s.setRoster x).du = s.du := rfl
@[simp] theorem State.setRoster_cache (s : State) (x : Roster) : (s.setRoster x).cache = s.cache := rfl
@[simp] theorem State.setRoster_arb (s : State) (x : Roster) : (s.setRoster x).arb = s.arb := rfl
@[simp] theorem State.setRoster_te (s : State) (x : Roster) : (s.setRoster x).te = s.te := rfl
@[simp] theorem State.setRoster_tb (s : State) (x : Roster) : (s.setRoster x).tb = s.tb := rfl
@[simp] theorem State.setRoster_lnc (s : State) (x : Roster) : (s.setRoster x).lnc = s.lnc := rfl
@[simp] theorem State.setRoster_pub (s : State) (x : Roster) : (s.setRoster x).pub = s.pub := rfl
@[simp] theorem State.setRoster_roster (s : State) (x : Roster) : (s.setRoster x).roster = x := rfl
@[simp] theorem State.setRoster_cu (s : State) (x : Roster) : (s.setRoster x).cu = s.cu := rfl
@[simp] theorem State.setRoster_vw (s : State) (x : Roster) : (s.setRoster x).vw = s.vw := rfl
@[simp] theorem State.setRoster_sp (s : State) (x : Roster) : (s.setRoster x).sp = s.sp := rfl
@[simp] theorem State.setRoster_lcp (s : State) (x : Roster) : (s.setRoster x).lcp = s.lcp := rfl
@[simp] theorem State.setRoster_pending (s : State) (x : Roster) : (s.setRoster x).pending = s.pending := rfl

@[simp] theorem State.setCu_clock (s : State) (x : Cu) : (s.setCu x).clock = s.clock := rfl
@[simp] theorem State.setCu_kcu (s : State) (x : Cu) : (s.setCu x).kcu = s.kcu := rfl
@[simp] theorem State.setCu_sq (s : State) (x : Cu) : (s.setCu x).sq = s.sq := rfl
@[simp] theorem State.setCu_notes (s : State) (x : Cu) : (s.setCu x).notes = s.notes := rfl
@[simp] theorem State.setCu_mem (s : State) (x : Cu) : (s.setCu x).mem = s.mem := rfl
@[simp] theorem State.setCu_du (s : State) (x : Cu) : (s.setCu x).du = s.du := rfl
@[simp] theorem State.setCu_cache (s : State) (x : Cu) : (s.setCu x).cache = s.cache := rfl
@[simp] theorem State.setCu_arb (s : State) (x : Cu) : (s.setCu x).arb = s.arb := rfl
@[simp] theorem State.setCu_te (s : State) (x : Cu) : (s.setCu x).te = s.te := rfl
@[simp] theorem State.setCu_tb (s : State) (x : Cu) : (s.setCu x).tb = s.tb := rfl
@[simp] theorem State.setCu_lnc (s : State) (x : Cu) : (s.setCu x).lnc = s.lnc := rfl
@[simp] theorem State.setCu_pub (s : State) (x : Cu) : (s.setCu x).pub = s.pub := rfl
@[simp] theorem State.setCu_roster (s : State) (x : Cu) : (s.setCu x).roster = s.roster := rfl
@[simp] theorem State.setCu_cu (s : State) (x : Cu) : (s.setCu x).cu = x := rfl
@[simp] theorem State.setCu_vw (s : State) (x : Cu) : (s.setCu x).vw = s.vw := rfl
@[simp] theorem State.setCu_sp (s : State) (x : Cu) : (s.setCu x).sp = s.sp := rfl
@[simp] theorem State.setCu_lcp (s : State) (x : Cu) : (s.setCu x).lcp = s.lcp := rfl
@[simp] theorem State.setCu_pending (s : State) (x : Cu) : (s.setCu x).pending = s.pending := rfl

@[simp] theorem State.setVw_clock (s : State) (x : Viewer) : (s.setVw x).clock = s.clock := rfl
@[simp] theorem State.setVw_kcu (s : State) (x : Viewer) : (s.setVw x).kcu = s.kcu := rfl
@[simp] theorem State.setVw_sq (s : State) (x : Viewer) : (s.setVw x).sq = s.sq := rfl
@[simp] theorem State.setVw_notes (s : State) (x : Viewer) : (s.setVw x).notes = s.notes := rfl
@[simp] theorem State.setVw_mem (s : State) (x : Viewer) : (s.setVw x).mem = s.mem := rfl
@[simp] theorem State.setVw_du (s : State) (x : Viewer) : (s.setVw x).du = s.du := rfl
@[simp] theorem State.setVw_cache (s : State) (x : Viewer) : (s.setVw x).cache = s.cache := rfl
@[simp] theorem State.setVw_arb (s : State) (x : Viewer) : (s.setVw x).arb = s.arb := rfl
@[simp] theorem State.setVw_te (s : State) (x : Viewer) : (s.setVw x).te = s.te := rfl
@[simp] theorem State.setVw_tb (s : State) (x : Viewer) : (s.setVw x).tb = s.tb := rfl
@[simp] theorem State.setVw_lnc (s : State) (x : Viewer) : (s.setVw x).lnc = s.lnc := rfl
@[simp] theorem State.setVw_pub (s : State) (x : Viewer) : (s.setVw x).pub = s.pub := rfl
@[simp] theorem State.setVw_roster (s : State) (x : Viewer) : (s.setVw x).roster = s.roster := rfl
@[simp] theorem State.setVw_cu (s : State) (x : Viewer) : (s.setVw x).cu = s.cu := rfl
@[simp] theorem State.setVw_vw (s : State) (x : Viewer) : (s.setVw x).vw = x := rfl
@[simp] theorem State.setVw_sp (s : State) (x : Viewer) : (s.setVw x).sp = s.sp := rfl
@[simp] theorem State.setVw_lcp (s : State) (x : Viewer) : (s.setVw x).lcp = s.lcp := rfl
@[simp] theorem State.setVw_pending (s : State) (x : Viewer) : (s.setVw x).pending = s.pending := rfl

@[simp] theorem State.setSp_clock (s : State) (x : Screen) : (s.setSp x).clock = s.clock := rfl
@[simp] theorem State.setSp_kcu (s : State) (x : Screen) : (s.setSp x).kcu = s.kcu := rfl
@[simp] theorem State.setSp_sq (s : State) (x : Screen) : (s.setSp x).sq = s.sq := rfl
@[simp] theorem State.setSp_notes (s : State) (x : Screen) : (s.setSp x).notes = s.notes := rfl
@[simp] theorem State.setSp_mem (s : State) (x : Screen) : (s.setSp x).mem = s.mem := rfl
@[simp] theorem State.setSp_du (s : State) (x : Screen) : (s.setSp x).du = s.du := rfl
@[simp] theorem State.setSp_cache (s : State) (x : Screen) : (s.setSp x).cache = s.cache := rfl
@[simp] theorem State.setSp_arb (s : State) (x : Screen) : (s.setSp x).arb = s.arb := rfl
@[simp] theorem State.setSp_te (s : State) (x : Screen) : (s.setSp x).te = s.te := rfl
@[simp] theorem State.setSp_tb (s : State) (x : Screen) : (s.setSp x).tb = s.tb := rfl
@[simp] theorem State.setSp_lnc (s : State) (x : Screen) : (s.setSp x).lnc = s.lnc := rfl
@[simp] theorem State.setSp_pub (s : State) (x : Screen) : (s.setSp x).pub = s.pub := rfl
@[simp] theorem State.setSp_roster (s : State) (x : Screen) : (s.setSp x).roster = s.roster := rfl
@[simp] theorem State.setSp_cu (s : State) (x : Screen) : (s.setSp x).cu = s.cu := rfl
@[simp] theorem State.setSp_vw (s : State) (x : Screen) : (s.setSp x).vw = s.vw := rfl
@[simp] theorem State.setSp_sp (s : State) (x : Screen) : (s.setSp x).sp = x := rfl
@[simp] theorem State.setSp_lcp (s : State) (x : Screen) : (s.setSp x).lcp = s.lcp := rfl
@[simp] theorem State.setSp_pending (s : State) (x : Screen) : (s.setSp x).pending = s.pending := rfl

@[simp] theorem State.setLcp_clock (s : State) (x : Lcp) : (s.setLcp x).clock = s.clock := rfl
@[simp] theorem State.setLcp_kcu (s : State) (x : Lcp) : (s.setLcp x).kcu = s.kcu := rfl
@[simp] theorem State.setLcp_sq (s : State) (x : Lcp) : (s.setLcp x).sq = s.sq := rfl
@[simp] theorem State.setLcp_notes (s : State) (x : Lcp) : (s.setLcp x).notes = s.notes := rfl
@[simp] theorem State.setLcp_mem (s : State) (x : Lcp) : (s.setLcp x).mem = s.mem := rfl
@[simp] theorem State.setLcp_du (s : State) (x : Lcp) : (s.setLcp x).du = s.du := rfl
@[simp] theorem State.setLcp_cache (s : State) (x : Lcp) : (s.setLcp x).cache = s.cache := rfl
@[simp] theorem State.setLcp_arb (s : State) (x : Lcp) : (s.setLcp x).arb = s.arb := rfl
@[simp] theorem State.setLcp_te (s : State) (x : Lcp) : (s.setLcp x).te = s.te := rfl
@[simp] theorem State.setLcp_tb (s : State) (x : Lcp) : (s.setLcp x).tb = s.tb := rfl
@[simp] theorem State.setLcp_lnc (s : State) (x : Lcp) : (s.setLcp x).lnc = s.lnc := rfl
@[simp] theorem State.setLcp_pub (s : State) (x : Lcp) : (s.setLcp x).pub = s.pub := rfl
@[simp] theorem State.setLcp_roster (s : State) (x : Lcp) : (s.setLcp x).roster = s.roster := rfl
@[simp] theorem State.setLcp_cu (s : State) (x : Lcp) : (s.setLcp x).cu = s.cu := rfl
@[simp] theorem State.setLcp_vw (s : State) (x : Lcp) : (s.setLcp x).vw = s.vw := rfl
@[simp] theorem State.setLcp_sp (s : State) (x : Lcp) : (s.setLcp x).sp = s.sp := rfl
@[simp] theorem State.setLcp_lcp (s : State) (x : Lcp) : (s.setLcp x).lcp = x := rfl
@[simp] theorem State.setLcp_pending (s : State) (x : Lcp) : (s.setLcp x).pending = s.pending := rfl

@[simp] theorem State.setPending_clock (s : State) (x : List Instr) : (s.setPending x).clock = s.clock := rfl
@[simp] theorem State.setPending_kcu (s : State) (x : List Instr) : (s.setPending x).kcu = s.kcu := rfl
@[simp] theorem State.setPending_sq (s : State) (x : List Instr) : (s.setPending x).sq = s.sq := rfl
@[simp] theorem State.setPending_notes (s : State) (x : List Instr) : (s.setPending x).notes = s.notes := rfl
@[simp] theorem State.setPending_mem (s : State) (x : List Instr) : (s.setPending x).mem = s.mem := rfl
@[simp] theorem State.setPending_du (s : State) (x : List Instr) : (s.setPending x).du = s.du := rfl
@[simp] theorem State.setPending_cache (s : State) (x : List Instr) : (s.setPending x).cache = s.cache := rfl
@[simp] theorem State.setPending_arb (s : State) (x : List Instr) : (s.setPending x).arb = s.arb := rfl
@[simp] theorem State.setPending_te (s : State) (x : List Instr) : (s.setPending x).te = s.te := rfl
@[simp] theorem State.setPending_tb (s : State) (x : List Instr) : (s.setPending x).tb = s.tb := rfl
@[simp] theorem State.setPending_lnc (s : State) (x : List Instr) : (s.setPending x).lnc = s.lnc := rfl
@[simp] theorem State.setPending_pub (s : State) (x : List Instr) : (s.setPending x).pub = s.pub := rfl
@[simp] theorem State.setPending_roster (s : State) (x : List Instr) : (s.setPending x).roster = s.roster := rfl
@[simp] theorem State.setPending_cu (s : State) (x : List Instr) : (s.setPending x).cu = s.cu := rfl
@[simp] theorem State.setPending_vw (s : State) (x : List Instr) : (s.setPending x).vw = s.vw := rfl
@[simp] theorem State.setPending_sp (s : State) (x : List Instr) : (s.setPending x).sp = s.sp := rfl
@[simp] theorem State.setPending_lcp (s : State) (x : List Instr) : (s.setPending x).lcp = s.lcp := rfl
@[simp] theorem State.setPending_pending (s : State) (x : List Instr) : (s.setPending x).pending = x := rfl

end Sys2Proof.Machine
end

