-- ==== Sys2Proof/Laws/Frame.lean ====
section
/-! SUPPORT. Frames: how they compose, and the frame of every shared operation of the blocks. -/

namespace Sys2Proof.Machine

variable {s t u : State} {xs ys zs : List Part}

/-! ## Composing frames -/

theorem SameBut.refl (xs : List Part) (s : State) : SameBut xs s s := by simp [SameBut]

theorem SameBut.of_eq (h : t = s) : SameBut xs s t := h ▸ SameBut.refl xs s

theorem SameBut.mono (h : SameBut xs s t) (hx : ∀ p ∈ xs, p ∈ ys) : SameBut ys s t := by
  obtain ⟨h1, h2, h3, h4, h5, h6, h7, h8, h9, h10, h11, h12, h13, h14, h15, h16, h17, h18, h19⟩ := h
  exact ⟨fun n => h1 fun m => n (hx _ m), fun n => h2 fun m => n (hx _ m), fun n => h3 fun m => n (hx _ m),
    fun n => h4 fun m => n (hx _ m), fun n => h5 fun m => n (hx _ m), fun n => h6 fun m => n (hx _ m),
    fun n => h7 fun m => n (hx _ m), fun n => h8 fun m => n (hx _ m), fun n => h9 fun m => n (hx _ m),
    fun n => h10 fun m => n (hx _ m), fun n => h11 fun m => n (hx _ m), fun n => h12 fun m => n (hx _ m),
    fun n => h13 fun m => n (hx _ m), fun n => h14 fun m => n (hx _ m), fun n => h15 fun m => n (hx _ m),
    fun n => h16 fun m => n (hx _ m), fun n => h17 fun m => n (hx _ m), fun n => h18 fun m => n (hx _ m), h19⟩

theorem lcp_trans {a b c : Lcp} (h : { b with latches := a.latches } = a) (k : { c with latches := b.latches } = b) :
    { c with latches := a.latches } = a := by
  rw [← h, ← k]

theorem SameBut.trans (h : SameBut xs s t) (k : SameBut xs t u) : SameBut xs s u := by
  obtain ⟨h1, h2, h3, h4, h5, h6, h7, h8, h9, h10, h11, h12, h13, h14, h15, h16, h17, h18, h19⟩ := h
  obtain ⟨k1, k2, k3, k4, k5, k6, k7, k8, k9, k10, k11, k12, k13, k14, k15, k16, k17, k18, k19⟩ := k
  exact ⟨fun n => (k1 n).trans (h1 n), fun n => (k2 n).trans (h2 n), fun n => (k3 n).trans (h3 n),
    fun n => (k4 n).trans (h4 n), fun n a => (k5 n a).trans (h5 n a), fun n => (k6 n).trans (h6 n),
    fun n => (k7 n).trans (h7 n), fun n => (k8 n).trans (h8 n), fun n => (k9 n).trans (h9 n),
    fun n => (k10 n).trans (h10 n), fun n => (k11 n).trans (h11 n), fun n => (k12 n).trans (h12 n),
    fun n => (k13 n).trans (h13 n), fun n => (k14 n).trans (h14 n), fun n => (k15 n).trans (h15 n),
    fun n => (k16 n).trans (h16 n), fun n => lcp_trans (h17 n) (k17 n), fun n => (k18 n).trans (h18 n), k19.trans h19⟩

/-- One frame after another, inside a list of parts that names those of both. -/
theorem SameBut.chain (h : SameBut xs s t) (k : SameBut ys t u) (hx : ∀ p ∈ xs, p ∈ zs) (hy : ∀ p ∈ ys, p ∈ zs) :
    SameBut zs s u := (h.mono hx).trans (k.mono hy)

theorem SameBut.foldl {α : Type} (f : State → α → State) (h : ∀ s a, SameBut xs s (f s a)) (l : List α) (s : State) :
    SameBut xs s (l.foldl f s) := by
  induction l generalizing s with
  | nil => exact SameBut.refl _ _
  | cons a l ih => exact (h s a).trans (ih _)

theorem frame_ite {c : Prop} [Decidable c] (h : SameBut xs s t) (k : SameBut xs s u) : SameBut xs s (if c then t else u) := by
  split
  · exact h
  · exact k

/-! ## One block set -/

theorem frame_setClock (s : State) (x : Clock) : SameBut [.clock] s (s.setClock x) := by simp [SameBut]
theorem frame_setKcu (s : State) (x : Kcu) : SameBut [.kcu] s (s.setKcu x) := by simp [SameBut]
theorem frame_setSq (s : State) (x : StrokeQueue) : SameBut [.sq] s (s.setSq x) := by simp [SameBut]
theorem frame_setNotes (s : State) (x : NotesLog) : SameBut [.notes] s (s.setNotes x) := by simp [SameBut]
theorem frame_setMem (s : State) (x : Memory) : SameBut [.mem] s (s.setMem x) := by simp [SameBut]
theorem frame_setDu (s : State) (x : Du) : SameBut [.du] s (s.setDu x) := by simp [SameBut]
theorem frame_setCache (s : State) (x : Cache) : SameBut [.cache] s (s.setCache x) := by simp [SameBut]
theorem frame_setArb (s : State) (x : Arbiter) : SameBut [.arb] s (s.setArb x) := by simp [SameBut]
theorem frame_setTe (s : State) (x : Te) : SameBut [.te] s (s.setTe x) := by simp [SameBut]
theorem frame_setTb (s : State) (x : Tb) : SameBut [.tb] s (s.setTb x) := by simp [SameBut]
theorem frame_setLnc (s : State) (x : Lnc) : SameBut [.lnc] s (s.setLnc x) := by simp [SameBut]
theorem frame_setPub (s : State) (x : Pub) : SameBut [.pub] s (s.setPub x) := by simp [SameBut]
theorem frame_setRoster (s : State) (x : Roster) : SameBut [.roster] s (s.setRoster x) := by simp [SameBut]
theorem frame_setCu (s : State) (x : Cu) : SameBut [.cu] s (s.setCu x) := by simp [SameBut]
theorem frame_setVw (s : State) (x : Viewer) : SameBut [.vw] s (s.setVw x) := by simp [SameBut]
theorem frame_setSp (s : State) (x : Screen) : SameBut [.sp] s (s.setSp x) := by simp [SameBut]
theorem frame_setLcp (s : State) (x : Lcp) : SameBut [.lcp, .latches] s (s.setLcp x) := by simp [SameBut]

/-! ## Clocks, latches, requests -/

theorem frame_advance (s : State) (n : Nat) : SameBut [.clock, .lnc, .sp] s (s.advance n) := by simp [SameBut, State.advance]

theorem frame_reachMs (s : State) (t : Ms) : SameBut [.clock, .lnc, .sp] s (s.reachMs t) := by
  unfold State.reachMs
  split
  · exact SameBut.refl _ _
  · exact frame_advance _ _

theorem frame_reachChars (s : State) (n : Nat) : SameBut [.clock, .lnc, .sp] s (s.reachChars n) := frame_advance _ _

theorem frame_latch (s : State) (e : Event) : SameBut [.latches] s (s.latch e) := by simp [SameBut, State.latch, Lcp.latched]

theorem frame_request (s : State) (c : MemClass) (op : MemOp) : SameBut [.arb] s (s.request c op) := frame_setArb _ _

theorem frame_endOperation (s : State) (r : Request) : SameBut [.mem, .arb] s (s.endOperation r) := by
  simp [SameBut, State.endOperation]

theorem frame_reply (s : State) (c : ReplyCode) (d : List Byte) : SameBut [.lcp] s (s.reply c d) := by simp [SameBut, State.reply]

theorem frame_taking (s : State) (c : Byte) (ps : List Byte) : SameBut [.lcp] s (s.taking c ps) := by simp [SameBut, State.taking]

theorem frame_give (s : State) (bs : List Byte) : SameBut [.lcp] s (s.give bs) := by simp [SameBut, State.give]

/-! ## Stroke capture -/

theorem frame_logStroke (s : State) (r : StrokeRecord) : SameBut [.notes, .latches] s (s.logStroke r) := by
  unfold State.logStroke
  split
  · split
    · exact (frame_setNotes _ _).chain (frame_latch _ _) (by decide) (by decide)
    · exact (frame_setNotes _ _).mono (by decide)
  · exact (frame_setNotes _ _).chain (frame_latch _ _) (by decide) (by decide)

theorem frame_handOn (s : State) (r : StrokeRecord) : SameBut [.sq, .notes, .latches] s (s.handOn r) :=
  (frame_setSq _ _).chain (frame_logStroke _ _) (by decide) (by decide)

theorem frame_closeChord (s : State) (c : Chord) (t : Ms) : SameBut [.kcu, .sq, .notes, .latches] s (s.closeChord c t) := by
  unfold State.closeChord
  split
  · exact (frame_setKcu _ _).mono (by decide)
  · exact (frame_setKcu _ _).chain (frame_handOn _ _) (by decide) (by decide)

theorem frame_closeIfNoneLive (s : State) (t : Ms) : SameBut [.kcu, .sq, .notes, .latches] s (s.closeIfNoneLive t) := by
  unfold State.closeIfNoneLive
  split
  · split
    · exact SameBut.refl _ _
    · exact frame_closeChord _ _ _
  · exact SameBut.refl _ _

theorem frame_chordDown (s : State) (k : Nat) (t : Ms) : SameBut [.kcu] s (s.chordDown k t) := by
  unfold State.chordDown
  split
  · exact frame_setKcu _ _
  · split
    · exact frame_setKcu _ _
    · exact SameBut.refl _ _

theorem frame_acceptedDown (s : State) (n : Nat) (c : Contact) : SameBut [.kcu] s (s.acceptedDown n c) := by
  unfold State.acceptedDown
  dsimp only
  exact frame_ite ((frame_setKcu _ _).trans (frame_chordDown _ _ _)) (frame_setKcu _ _)

theorem frame_acceptedUp (s : State) (n : Nat) (c : Contact) : SameBut [.kcu, .sq, .notes, .latches] s (s.acceptedUp n c) := by
  unfold State.acceptedUp
  dsimp only
  split
  · exact (frame_setKcu _ _).chain (frame_closeIfNoneLive _ _) (by decide) (by decide)
  · exact (frame_setKcu _ _).mono (by decide)

/-! ## Path Cache and generation -/

theorem frame_fence (s : State) (f : FenceScope) : SameBut [.cache, .te] s (s.fence f) := by
  unfold State.fence
  split
  · exact SameBut.refl _ _
  · exact (frame_setCache _ _).chain (frame_setTe _ _) (by decide) (by decide)

theorem frame_raiseGeneration (s : State) : SameBut [.du, .te] s s.raiseGeneration :=
  (frame_setDu _ _).chain (frame_setTe _ _) (by decide) (by decide)

/-! ## Publisher -/

theorem frame_updateCredit (s : State) : SameBut [.pub] s s.updateCredit := frame_setPub _ _

theorem frame_refund (s : State) (n : Nat) : SameBut [.pub] s (s.refund n) := by
  unfold State.refund
  dsimp only
  split <;> exact (frame_updateCredit _).trans (frame_setPub _ _)

theorem frame_choose (s : State) : SameBut [.pub, .lnc] s s.choose := by
  have h : SameBut [.pub] s (if s.choiceTests then s.updateCredit else s) := frame_ite (frame_updateCredit _) (SameBut.refl _ _)
  unfold State.choose
  refine frame_ite (frame_ite (h.mono (by decide)) ?_) (SameBut.refl _ _)
  exact h.chain (frame_setLnc _ _) (by decide) (by decide)

theorem frame_stationReady (s : State) : SameBut [.pub] s s.stationReady := frame_setPub _ _

theorem frame_buildTail (s : State) : SameBut [.pub] s s.buildTail := by
  unfold State.buildTail
  split
  · exact frame_setPub _ _
  · exact SameBut.refl _ _

theorem frame_dropTail (s : State) : SameBut [.pub] s s.dropTail := by
  unfold State.dropTail
  split
  · exact SameBut.refl _ _
  · exact frame_setPub _ _

theorem frame_reweigh (s : State) (n : Nat) : SameBut [.pub] s (s.reweigh n) := frame_setPub _ _

theorem frame_reshare (s : State) : SameBut [.pub] s s.reshare := by
  have h : SameBut [.pub] s (s.updateCredit.reweigh s.cu.state.weight) := (frame_updateCredit _).trans (frame_reweigh _ _)
  unfold State.reshare
  dsimp only
  split
  · exact h.trans (frame_dropTail _)
  · split
    · exact h.trans ((frame_stationReady _).trans (frame_dropTail _))
    · exact h.trans ((frame_stationReady _).trans ((frame_dropTail _).trans (frame_buildTail _)))

theorem frame_queueLine (s : State) (n : Nat) (b : Bool) (x : List Byte) : SameBut [.pub] s (s.queueLine n b x) := by
  unfold State.queueLine
  split
  · exact SameBut.refl _ _
  · dsimp only
    split <;> exact frame_setPub _ _

theorem frame_askFor (s : State) (n : Nat) : SameBut [.pub] s (s.askFor n) := by
  unfold State.askFor
  split
  · exact SameBut.refl _ _
  · split <;> exact frame_setPub _ _

theorem frame_takeAsk (s : State) (a : AskBody) : SameBut [.pub] s (s.takeAsk a) := by
  unfold State.takeAsk
  split
  · exact SameBut.refl _ _
  · split
    · exact SameBut.refl _ _
    · exact SameBut.foldl _ (fun s n => frame_askFor s n) _ _

theorem frame_sendDefinition (s : State) (v : List Stroke) (x : List Byte) : SameBut [.pub] s (s.sendDefinition v x) := by
  unfold State.sendDefinition
  split
  · exact SameBut.refl _ _
  · split <;> exact frame_setPub _ _

theorem frame_conflictAtPub (s : State) : SameBut [.pub] s s.conflictAtPub := (frame_setPub _ _).trans (frame_stationReady _)

/-! ## Viewer and Screen Port -/

theorem frame_putLine (s : State) (n : Nat) (x : StoreState) : SameBut [.vw] s (s.putLine n x) := frame_setVw _ _

theorem frame_loseLine (s : State) (n : Nat) : SameBut [.vw, .latches] s (s.loseLine n) :=
  (frame_setVw _ _).chain (frame_latch _ _) (by decide) (by decide)

theorem frame_storeLine (s : State) (n : Nat) (g b : Bool) (x : List Byte) : SameBut [.vw, .latches] s (s.storeLine n g b x) := by
  have put : ∀ y, SameBut [.vw, .latches] s (s.putLine n y) := fun y => (frame_putLine _ _ _).mono (by decide)
  unfold State.storeLine
  split
  · exact SameBut.refl _ _
  · split
    · exact SameBut.refl _ _
    · exact put _
  · split
    · exact frame_loseLine _ _
    · exact put _
  · split
    · split
      · exact frame_loseLine _ _
      · exact put _
    · exact SameBut.refl _ _

theorem frame_openGap (s : State) (k n : Nat) : SameBut [.vw] s (s.openGap k n) := by
  unfold State.openGap
  split
  · exact frame_putLine _ _ _
  · exact SameBut.refl _ _

theorem frame_setReach (s : State) (r k : Nat) : SameBut [.vw] s (s.setReach r k) := by
  unfold State.setReach
  dsimp only
  split
  · exact frame_setVw _ _
  · exact (frame_setVw _ _).trans (SameBut.foldl _ (fun s n => frame_openGap s k n) _ _)

theorem frame_follow (s : State) : SameBut [.vw, .latches] s s.follow := by
  have h : SameBut [.vw, .latches] s
      ((s.setVw { s.vw with followed := s.followChoice }).latch (.followChanged (s.followStation s.followChoice))) :=
    (frame_setVw _ _).chain (frame_latch _ _) (by decide) (by decide)
  unfold State.follow
  split
  · split
    · exact SameBut.refl _ _
    · dsimp only
      split
      · exact h.chain (frame_setReach _ _ _) (by decide) (by decide)
      · exact h
  · exact SameBut.refl _ _

theorem frame_releasePins (s : State) : SameBut [.vw] s s.releasePins := frame_setVw _ _

theorem frame_compose (s : State) : SameBut [.sp] s s.compose := by
  unfold State.compose
  split
  · exact frame_setSp _ _
  · exact SameBut.refl _ _

theorem frame_askedAgain (s : State) (n : Nat) : SameBut [.vw] s (s.askedAgain n) := by
  unfold State.askedAgain
  split
  · exact frame_putLine _ _ _
  · exact SameBut.refl _ _

theorem frame_makeAsk (s : State) (a b c : Nat) : SameBut [.vw] s (s.makeAsk a b c) := by
  unfold State.makeAsk
  split <;> exact frame_setVw _ _

/-! ## Transcript Builder -/

theorem frame_reportHorizon (s : State) (n : Nat) : SameBut [.tb] s (s.reportHorizon n) := frame_setTb _ _

theorem frame_enterRing (s : State) (l : CommittedLine) : SameBut [.tb, .latches] s (s.enterRing l) := by
  unfold State.enterRing
  split
  · exact (frame_setTb _ _).mono (by decide)
  · dsimp only
    split
    · split
      · exact (frame_setTb _ _).chain (frame_latch _ _) (by decide) (by decide)
      · exact (frame_setTb _ _).mono (by decide)
    · exact (frame_setTb _ _).mono (by decide)

theorem frame_ownLineToViewer (s : State) (n : Nat) (b : Bool) (x : List Byte) :
    SameBut [.vw, .latches] s (s.ownLineToViewer n b x) := by
  unfold State.ownLineToViewer
  split
  · dsimp only
    split
    · exact (frame_storeLine _ _ _ _ _).chain (frame_setReach _ _ _) (by decide) (by decide)
    · exact frame_storeLine _ _ _ _ _
  · exact SameBut.refl _ _

/-- What the Transcript Builder's work may change. -/
abbrev tbParts : List Part := [.tb, .latches, .pub, .vw]

theorem frame_recordLine (s : State) (b c : Bool) (x : List Byte) (n : Nat) : SameBut tbParts s (s.recordLine b c x n) := by
  unfold State.recordLine
  dsimp only
  refine SameBut.chain (xs := tbParts) ?_ (frame_ownLineToViewer _ _ _ _) (by decide) (by decide)
  refine SameBut.chain (xs := tbParts) ?_ (frame_reportHorizon _ _) (by decide) (by decide)
  refine SameBut.chain (xs := tbParts) ?_ (frame_queueLine _ _ _ _) (by decide) (by decide)
  exact (frame_setTb _ _).chain (frame_enterRing _ _) (by decide) (by decide)

theorem frame_jump (s : State) : SameBut [.tb] s s.jump := by
  unfold State.jump
  split
  · exact frame_setTb _ _
  · exact SameBut.refl _ _

theorem frame_breakLine (s : State) : SameBut tbParts s s.breakLine := by
  unfold State.breakLine
  split
  · exact (frame_latch _ _).mono (by decide)
  · exact frame_recordLine _ _ _ _ _

theorem frame_jumpBreak (s : State) : SameBut tbParts s s.jumpBreak := by
  have h : SameBut tbParts s s.jump.breakLine := (frame_jump _).chain (frame_breakLine _) (by decide) (by decide)
  unfold State.jumpBreak
  split
  · split
    · exact h
    · exact h.chain (frame_latch _ _) (by decide) (by decide)
  · exact SameBut.refl _ _

theorem frame_discardLine (s : State) (n : Nat) : SameBut tbParts s (s.discardLine n) :=
  (frame_setTb _ _).chain (frame_latch _ _) (by decide) (by decide)

theorem frame_commitText (s : State) (c : Bool) (x : List Byte) (n : Nat) : SameBut tbParts s (s.commitText c x n) := by
  unfold State.commitText
  split
  · exact (frame_setTb _ _).chain (frame_enterRing _ _) (by decide) (by decide)
  · dsimp only
    split
    · exact (frame_jumpBreak _).trans (frame_discardLine _ _)
    · exact (frame_jumpBreak _).trans (frame_recordLine _ _ _ _ _)

theorem frame_notified (h : SameBut xs s t) (hp : Part.pub ∈ xs) : SameBut xs s (s.notified t) := by
  unfold State.notified
  split
  · exact h.chain (frame_buildTail _) (by simp) (by simpa using hp)
  · exact h

theorem frame_commitOldest (s : State) : SameBut tbParts s s.commitOldest :=
  frame_notified (SameBut.chain (frame_setTb _ _) (frame_commitText _ _ _ _) (by decide) (by decide)) (by decide)

theorem frame_commitWhile (p : Region → Bool) (n : Nat) (s : State) : SameBut tbParts s (State.commitWhile p n s) := by
  induction n generalizing s with
  | zero => exact SameBut.refl _ _
  | succ n ih =>
    unfold State.commitWhile
    split
    · exact (frame_commitOldest _).trans (ih _)
    · exact SameBut.refl _ _

theorem frame_setUnits (s : State) (us : List TextUnit) : SameBut [.tb, .pub] s (s.setUnits us) :=
  frame_notified ((frame_setTb _ _).mono (by decide)) (by decide)

theorem frame_clearRegion (s : State) : SameBut [.tb, .pub] s s.clearRegion :=
  frame_notified ((frame_setTb _ _).mono (by decide)) (by decide)

theorem frame_commitOver (s : State) : SameBut tbParts s s.commitOver := frame_commitWhile _ _ _

theorem frame_emitUnit (s : State) (u : TextUnit) : SameBut tbParts s (s.emitUnit u) := by
  unfold State.emitUnit
  dsimp only
  refine SameBut.trans ?_ (frame_commitOver _)
  exact (frame_commitWhile _ _ _).chain (frame_setUnits _ _) (by decide) (by decide)

theorem frame_undoUnit (s : State) : SameBut [.tb, .pub] s s.undoUnit := frame_setUnits _ _

theorem frame_replaceUnits (s : State) (vs : List Stroke) (x : List Byte) : SameBut tbParts s (s.replaceUnits vs x) := by
  unfold State.replaceUnits
  split
  · exact (frame_setUnits _ _).chain (frame_commitOver _) (by decide) (by decide)
  · exact SameBut.refl _ _

theorem frame_commitAllLines (s : State) : SameBut tbParts s s.commitAllLines :=
  (frame_commitWhile _ _ _).chain (frame_clearRegion _) (by decide) (by decide)

theorem frame_carryFormat (s : State) (c : Option (Bool × Bool)) : SameBut [.tb] s (s.carryFormat c) := by
  unfold State.carryFormat
  split
  · split
    · exact frame_setTb _ _
    · exact SameBut.refl _ _
  · exact SameBut.refl _ _

theorem frame_switchToRecord (s : State) (n : Nat) (b : Bool) (c : Option (Bool × Bool)) :
    SameBut tbParts s (s.switchToRecord n b c) := by
  unfold State.switchToRecord
  split
  · exact SameBut.refl _ _
  · dsimp only
    refine SameBut.chain (xs := tbParts) ?_ (frame_buildTail _) (by decide) (by decide)
    refine SameBut.chain (xs := tbParts) ?_ (frame_carryFormat _ _) (by decide) (by decide)
    refine SameBut.chain (xs := tbParts) ?_ (frame_setTb _ _) (by decide) (by decide)
    refine frame_ite ?_ ((frame_setTb _ _).mono (by decide))
    refine SameBut.chain (xs := [.tb]) ?_ (frame_breakLine _) (by decide) (by decide)
    exact (frame_setTb _ _).trans (frame_jump _)

theorem frame_switchToDraft (s : State) : SameBut [.tb] s s.switchToDraft := by
  unfold State.switchToDraft
  split
  · exact SameBut.refl _ _
  · exact frame_setTb _ _

/-! ## Custody Unit -/

/-- What a change of custody state may change. -/
abbrev cuParts : List Part := [.cu, .pub, .vw, .latches]

theorem frame_handCustody (s : State) (k : CustodyFrameKind) (f : Frame) : SameBut [.lnc] s (s.handCustody k f) := frame_setLnc _ _

theorem frame_refuse (s : State) (n : Nat) (r : RefuseReason) : SameBut [.lnc] s (s.refuse n r) := frame_handCustody _ _ _

theorem frame_tellCustody (s : State) : SameBut [.pub] s s.tellCustody :=
  (frame_stationReady _).trans ((frame_reshare _).trans (frame_buildTail _))

theorem frame_reportCustody (s : State) : SameBut [.pub, .vw, .latches] s s.reportCustody :=
  (frame_tellCustody _).chain (frame_follow _) (by decide) (by decide)

theorem frame_setCustody (s : State) (c : CustodyState) : SameBut cuParts s (s.setCustody c) :=
  (frame_setCu _ _).chain (frame_reportCustody _) (by decide) (by decide)

/-- What taking or leaving the record may change. -/
abbrev recordParts : List Part := [.tb, .cu, .pub, .vw, .latches]

theorem frame_becomeHolder (s : State) (n : Nat) (b : Bool) (c : Option (Bool × Bool)) (x : ChangeCause) (k : Nat) :
    SameBut recordParts s (s.becomeHolder n b c x k) := by
  have h : SameBut recordParts s
      ((((s.switchToRecord n b c).setCu
          { (s.switchToRecord n b c).cu with
            prior := none, claimAt := none, recordClosed := false, state := .onRecord }).tellCustody).latch
        (.custodyChanged x k n)) := by
    refine SameBut.chain (xs := recordParts) ?_ (frame_latch _ _) (by decide) (by decide)
    refine SameBut.chain (xs := recordParts) ?_ (frame_tellCustody _) (by decide) (by decide)
    exact (frame_switchToRecord _ _ _ _).chain (frame_setCu _ _) (by decide) (by decide)
  unfold State.becomeHolder
  dsimp only
  split
  · exact h.chain (frame_latch _ _) (by decide) (by decide)
  · exact h

theorem frame_takeRecord (s : State) (r : ReleaseBody) : SameBut recordParts s (s.takeRecord r) := frame_becomeHolder _ _ _ _ _ _

theorem frame_takeOver (s : State) : SameBut recordParts s s.takeOver :=
  (frame_becomeHolder _ _ _ _ _ _).chain (frame_follow _) (by decide) (by decide)

theorem frame_endClaim (s : State) (o : ClaimEnd) (a b : Nat) : SameBut cuParts s (s.endClaim o a b) := by
  unfold State.endClaim
  refine SameBut.chain (xs := cuParts) ?_ (frame_latch _ _) (by decide) (by decide)
  exact (frame_setCu _ _).chain (frame_setCustody _ _) (by decide) (by decide)

theorem frame_flushReport (s : State) : SameBut [.cu] s s.flushReport := by
  unfold State.flushReport
  split
  · exact frame_setCu _ _
  · exact SameBut.refl _ _

theorem frame_requestFlush (s : State) : SameBut [.te, .cu] s s.requestFlush := by
  unfold State.requestFlush
  split
  · exact (frame_flushReport _).mono (by decide)
  · exact (frame_setTe _ _).mono (by decide)
  · exact (frame_setTe _ _).mono (by decide)

theorem frame_handOverToBest (s : State) : SameBut [.te, .cu] s s.handOverToBest := by
  unfold State.handOverToBest
  split
  · exact (frame_setCu _ _).chain (frame_requestFlush _) (by decide) (by decide)
  · exact SameBut.refl _ _

theorem frame_closeRecord (s : State) : SameBut (.te :: cuParts) s s.closeRecord := by
  refine SameBut.chain (xs := cuParts) ?_ (frame_requestFlush _) (by decide) (by decide)
  exact (frame_setCu _ _).chain (frame_setCustody _ _) (by decide) (by decide)

theorem frame_completeRelease (s : State) (n : Nat) : SameBut (.lnc :: recordParts) s (s.completeRelease n) := by
  unfold State.completeRelease
  dsimp only
  refine SameBut.chain (xs := .lnc :: recordParts) ?_ (frame_latch _ _) (by decide) (by decide)
  refine SameBut.chain (xs := .lnc :: recordParts) ?_ (frame_setCustody _ _) (by decide) (by decide)
  refine SameBut.chain (xs := .lnc :: recordParts) ?_ (frame_setCu _ _) (by decide) (by decide)
  exact (frame_handCustody _ _ _).chain (frame_switchToDraft _) (by decide) (by decide)

theorem frame_beginClaim (s : State) : SameBut (.lnc :: cuParts) s s.beginClaim := by
  refine SameBut.chain (xs := .lnc :: cuParts) ?_ (frame_setCustody _ _) (by decide) (by decide)
  exact (frame_setCu _ _).chain (frame_handCustody _ _ _) (by decide) (by decide)

theorem frame_setHold (s : State) (b : Bool) : SameBut [.cu, .pub] s (s.setHold b) := by
  unfold State.setHold
  split
  · exact SameBut.refl _ _
  · exact (frame_setCu _ _).chain (frame_stationReady _) (by decide) (by decide)

theorem frame_refuseGathered (s : State) : SameBut (.lnc :: cuParts) s s.refuseGathered := by
  have h : SameBut [.lnc] s (s.cu.claims.foldl (fun t c => t.refuse c.station .hold) s) :=
    SameBut.foldl (fun (t : State) (c : Claim) => t.refuse c.station .hold) (fun _ _ => frame_refuse _ _ _) _ _
  refine SameBut.chain (xs := .lnc :: cuParts) ?_ (frame_setCustody _ _) (by decide) (by decide)
  exact h.chain (frame_setCu _ _) (by decide) (by decide)

theorem frame_holdRequest (s : State) : SameBut (.lnc :: cuParts) s s.holdRequest := by
  unfold State.holdRequest
  split
  · exact (frame_setHold _ _).chain (frame_refuseGathered _) (by decide) (by decide)
  · exact (frame_setHold _ _).mono (by decide)

/-- What a request to the Custody Unit may change. -/
abbrev requestParts : List Part := [.cu, .lnc, .te, .pub, .vw, .latches]

theorem frame_carryOut (s : State) (q : CustodyRequest) : SameBut requestParts s (s.carryOut q) := by
  cases q with
  | claim => exact (frame_beginClaim _).mono (by decide)
  | release => exact frame_ite ((frame_closeRecord _).mono (by decide)) ((frame_handOverToBest _).mono (by decide))
  | enterShadow => exact (frame_setCustody _ _).mono (by decide)
  | leaveShadow => exact (frame_setCustody _ _).mono (by decide)
  | hold => exact (frame_holdRequest _).mono (by decide)
  | unhold => exact (frame_setHold _ _).mono (by decide)

theorem frame_takeRequest (s : State) (q : CustodyRequest) : SameBut requestParts s (s.takeRequest q) := by
  unfold State.takeRequest
  split
  · exact frame_carryOut _ _
  · exact SameBut.refl _ _

theorem frame_gatherClaim (s : State) (c : Claim) : SameBut cuParts s (s.gatherClaim c) := by
  unfold State.gatherClaim
  dsimp only
  split
  · exact ((frame_setCu _ _).trans (frame_setCu _ _)).chain (frame_setCustody _ _) (by decide) (by decide)
  · exact (frame_setCu _ _).mono (by decide)

theorem frame_judgeClaim (s : State) (c : Claim) : SameBut (.lnc :: cuParts) s (s.judgeClaim c) := by
  unfold State.judgeClaim
  split
  · exact (frame_refuse _ _ _).mono (by decide)
  · split
    · exact (frame_refuse _ _ _).mono (by decide)
    · split
      · exact (frame_setCu _ _).mono (by decide)
      · split
        · exact SameBut.refl _ _
        · exact (frame_gatherClaim _ _).mono (by decide)

theorem frame_claimAtCu (s : State) (c : Claim) : SameBut (.lnc :: cuParts) s (s.claimAtCu c) := by
  unfold State.claimAtCu
  split
  · exact SameBut.refl _ _
  · split
    · exact frame_judgeClaim _ _
    · split
      · exact frame_judgeClaim _ _
      · exact SameBut.refl _ _
    · split
      · exact (frame_endClaim _ _ _ _).mono (by decide)
      · exact SameBut.refl _ _
    · exact SameBut.refl _ _

theorem frame_dropClaim (s : State) (n : Nat) : SameBut cuParts s (s.dropClaim n) := by
  unfold State.dropClaim
  split
  · dsimp only
    split
    · exact (frame_setCu _ _).chain (frame_setCustody _ _) (by decide) (by decide)
    · exact (frame_setCu _ _).mono (by decide)
  · exact SameBut.refl _ _

theorem frame_closedByRelease (s : State) (r : ReleaseBody) : SameBut [.cu] s (s.closedByRelease r) := by
  unfold State.closedByRelease
  split
  · split
    · exact SameBut.refl _ _
    · exact frame_setCu _ _
  · exact frame_setCu _ _

theorem frame_releaseAtCu (s : State) (r : ReleaseBody) : SameBut recordParts s (s.releaseAtCu r) := by
  have h : SameBut recordParts s (s.closedByRelease r) := (frame_closedByRelease _ _).mono (by decide)
  unfold State.releaseAtCu
  dsimp only
  split
  · exact h
  · split
    · split
      · exact h
      · exact h.trans (frame_takeRecord _ _)
    · split
      · exact h.chain (frame_endClaim _ _ _ _) (by decide) (by decide)
      · exact h

theorem frame_refuseAtCu (s : State) (f : RefuseBody) : SameBut cuParts s (s.refuseAtCu f) := by
  unfold State.refuseAtCu
  split
  · exact frame_endClaim _ _ _ _
  · exact SameBut.refl _ _

theorem frame_yieldTo (s : State) (n : Nat) : SameBut recordParts s (s.yieldTo n) := by
  unfold State.yieldTo
  dsimp only
  refine SameBut.chain (xs := recordParts) ?_ (frame_latch _ _) (by decide) (by decide)
  refine SameBut.chain (xs := recordParts) ?_ (frame_setCustody _ _) (by decide) (by decide)
  refine SameBut.chain (xs := recordParts) ?_ (frame_setCu _ _) (by decide) (by decide)
  exact (frame_commitAllLines _).chain (frame_switchToDraft _) (by decide) (by decide)

theorem frame_stationAtCu (s : State) (q : RosterSlot) : SameBut recordParts s (s.stationAtCu q) := by
  unfold State.stationAtCu
  dsimp only
  refine frame_ite (SameBut.trans ?_ (frame_yieldTo _ _)) ?_
  all_goals
    refine frame_ite (SameBut.chain (xs := [.cu]) ?_ (frame_dropClaim _ _) (by decide) (by decide)) ?_
  all_goals exact frame_ite ((frame_setCu _ _).mono (by decide)) (SameBut.refl _ _)

theorem frame_conflictAtCu (s : State) : SameBut recordParts s s.conflictAtCu := by
  unfold State.conflictAtCu
  dsimp only
  refine frame_ite (SameBut.chain (xs := recordParts) ?_ (frame_latch _ _) (by decide) (by decide)) ?_
  all_goals
    refine frame_ite ?_ (SameBut.chain (xs := recordParts) ?_ (frame_setCustody _ _) (by decide) (by decide))
  all_goals
    refine SameBut.chain (xs := recordParts) ?_ (frame_setCu _ _) (by decide) (by decide)
    exact frame_ite ((frame_commitAllLines _).chain (frame_switchToDraft _) (by decide) (by decide)) (SameBut.refl _ _)

/-! ## Line Controller -/

theorem frame_lineError (s : State) (x : LineError) : SameBut [.lnc, .latches] s (s.lineError x) := by
  unfold State.lineError
  dsimp only
  split
  · exact (frame_setLnc _ _).chain (frame_latch _ _) (by decide) (by decide)
  · exact (frame_setLnc _ _).mono (by decide)

theorem frame_enqueueFrame (s : State) (f : Frame) : SameBut [.lnc, .latches] s (s.enqueueFrame f) := by
  unfold State.enqueueFrame
  split
  · exact (frame_setLnc _ _).mono (by decide)
  · exact frame_lineError _ _

theorem frame_reportFrame (s : State) (f : Frame) : SameBut [.tb] s (s.reportFrame f) := by
  unfold State.reportFrame
  split
  · exact frame_reportHorizon _ _
  · exact SameBut.refl _ _

theorem frame_finishFrame (s : State) (a : Assembly) : SameBut [.lnc, .latches, .tb] s (s.finishFrame a) := by
  unfold State.finishFrame
  split
  · exact SameBut.refl _ _
  · exact (frame_lineError _ _).mono (by decide)
  · split
    · exact (frame_reportFrame _ _).chain (frame_enqueueFrame _ _) (by decide) (by decide)
    · exact (frame_reportFrame _ _).mono (by decide)

theorem frame_assemble (s : State) (h : Bool) (b : Byte) (ok : Bool) : SameBut [.lnc, .latches, .tb] s (s.assemble h b ok) := by
  unfold State.assemble
  split
  · split
    · exact (frame_setLnc _ _).mono (by decide)
    · exact SameBut.refl _ _
  · split
    · exact (frame_setLnc _ _).chain (frame_finishFrame _ _) (by decide) (by decide)
    · exact (frame_setLnc _ _).mono (by decide)

theorem frame_removeSource (s : State) (x : Source) : SameBut [.lnc, .pub, .vw] s (s.removeSource x) := by
  cases x <;>
    first
    | exact (frame_setLnc _ _).mono (by decide)
    | exact (frame_setPub _ _).mono (by decide)
    | exact (frame_setVw _ _).mono (by decide)

theorem frame_dropFrame (s : State) (x : Source) : SameBut [.lnc, .pub, .vw] s (s.dropFrame x) :=
  (frame_removeSource _ _).chain (frame_setLnc _ _) (by decide) (by decide)

theorem frame_retryOrDrop (n : Nat) (h : SameBut xs s t) (k : SameBut xs s u) : SameBut xs s (retryOrDrop n t u) := by
  unfold retryOrDrop
  split
  · exact h
  · exact k

theorem frame_afterAbort (s : State) (x : Source) : SameBut [.lnc, .pub, .vw] s (s.afterAbort x) := by
  cases x with
  | custody => exact (frame_setLnc _ _).mono (by decide)
  | station => exact frame_retryOrDrop _ ((frame_setPub _ _).mono (by decide)) (frame_dropFrame _ _)
  | line => exact frame_retryOrDrop _ ((frame_setPub _ _).mono (by decide)) (frame_dropFrame _ _)
  | define => exact frame_retryOrDrop _ ((frame_setPub _ _).mono (by decide)) (frame_dropFrame _ _)
  | answer n => exact frame_retryOrDrop _ ((frame_setPub _ _).mono (by decide)) (frame_dropFrame _ _)
  | ask => exact frame_retryOrDrop _ ((frame_setVw _ _).mono (by decide)) (frame_dropFrame _ _)
  | tail =>
    unfold State.afterAbort
    dsimp only
    split
    · exact SameBut.refl _ _
    · split
      · exact frame_removeSource _ _
      · exact frame_retryOrDrop _ ((frame_setPub _ _).mono (by decide)) (frame_dropFrame _ _)

theorem frame_refundUnsent (s : State) (x : Source) (a b : Nat) : SameBut [.pub] s (s.refundUnsent x a b) := by
  unfold State.refundUnsent
  split
  · exact frame_refund _ _
  · exact SameBut.refl _ _

theorem frame_abortAttempt (s : State) (x : Source) (a b : Nat) : SameBut [.lnc, .pub, .vw] s (s.abortAttempt x a b) := by
  refine SameBut.chain (xs := [.lnc, .pub, .vw]) ?_ (frame_afterAbort _ _) (by decide) (by decide)
  exact (frame_setLnc _ _).chain (frame_refundUnsent _ _ _ _) (by decide) (by decide)

theorem frame_echo (s : State) (h : Bool) (b : Byte) (ok : Bool) : SameBut [.lnc, .pub, .vw] s (s.echo h b ok) := by
  unfold State.echo
  split
  · split
    · split
      · exact (frame_setLnc _ _).mono (by decide)
      · exact (frame_setLnc _ _).chain (frame_removeSource _ _) (by decide) (by decide)
    · exact frame_abortAttempt _ _ _ _
  · exact SameBut.refl _ _

theorem frame_characterEnd (s : State) (ok : Bool) : SameBut [.clock, .lnc, .sp] s (s.characterEnd ok) := by
  unfold State.characterEnd
  dsimp only
  split
  · split
    · exact (frame_setLnc _ _).mono (by decide)
    · exact (frame_reachChars _ _).chain (frame_setLnc _ _) (by decide) (by decide)
  · exact (frame_setLnc _ _).mono (by decide)

theorem frame_charge (s : State) (x : Source) (f : Frame) : SameBut [.pub] s (s.charge x f) := by
  unfold State.charge
  split
  · exact (frame_updateCredit _).trans (frame_setPub _ _)
  · exact SameBut.refl _ _

theorem frame_takeOff (s : State) (x : Source) : SameBut [.pub] s (s.takeOff x) := by
  cases x
  case station => exact frame_setPub _ _
  case tail => exact frame_setPub _ _
  all_goals exact SameBut.refl _ _

theorem frame_startDriving (s : State) (x : Source) (f : Frame) : SameBut [.pub, .lnc] s (s.startDriving x f) :=
  ((frame_charge _ _ _).trans (frame_takeOff _ _)).chain (frame_setLnc _ _) (by decide) (by decide)

theorem frame_conflictAtLnc (s : State) : SameBut [.lnc, .pub, .vw] s s.conflictAtLnc := by
  unfold State.conflictAtLnc
  split
  · exact (frame_setLnc _ _).mono (by decide)
  · dsimp only
    refine SameBut.chain (xs := [.lnc, .pub, .vw]) ?_ (frame_setLnc _ _) (by decide) (by decide)
    refine SameBut.chain (xs := [.lnc, .pub, .vw]) ?_ (frame_removeSource _ _) (by decide) (by decide)
    exact (frame_setLnc _ _).chain (frame_refundUnsent _ _ _ _) (by decide) (by decide)
  · exact (frame_setLnc _ _).mono (by decide)

/-- A delivery: the frame leaves the queue, and what takes it decides the rest. -/
theorem frame_deliver (k : FrameKind) (take : State → Frame → State) (h : ∀ t f, SameBut xs t (take t f)) (hx : Part.lnc ∈ xs)
    (s : State) : SameBut xs s (s.deliver k take) := by
  unfold State.deliver
  split
  · exact SameBut.refl _ _
  · split
    · exact ((frame_setLnc _ _).mono (by simpa using hx)).trans (h _ _)
    · exact SameBut.refl _ _

/-! ## Roster -/

theorem frame_setSlot (s : State) (i : Nat) (x : Option RosterSlot) : SameBut [.roster] s (s.setSlot i x) := frame_setRoster _ _

/-- What a change of the roster may change. -/
abbrev rosterParts : List Part := .roster :: recordParts

theorem frame_removeSlot (s : State) (i : Nat) (q : RosterSlot) : SameBut [.roster, .vw, .latches] s (s.removeSlot i q) := by
  refine SameBut.chain (xs := [.roster, .vw]) ?_ (frame_latch _ _) (by decide) (by decide)
  exact (frame_setSlot _ _ _).chain (frame_setVw _ _) (by decide) (by decide)

theorem frame_rosterEvent (s : State) (a b : RosterSlot) : SameBut [.latches] s (s.rosterEvent a b) := by
  unfold State.rosterEvent
  split
  · exact SameBut.refl _ _
  · split
    · exact frame_latch _ _
    · exact frame_latch _ _
    · exact SameBut.refl _ _

theorem frame_reshareIf (s : State) (c : Bool) : SameBut [.pub] s (s.reshareIf c) := by
  unfold State.reshareIf
  split
  · exact frame_reshare _
  · exact SameBut.refl _ _

theorem frame_takeStation (s : State) (i : Nat) (q : RosterSlot) (b : StationBody) (r : Bool) :
    SameBut rosterParts s (s.takeStation i q b r) := by
  unfold State.takeStation
  dsimp only
  refine SameBut.chain (xs := rosterParts) ?_ (frame_follow _) (by decide) (by decide)
  refine SameBut.chain (xs := rosterParts) ?_ (frame_stationAtCu _ _) (by decide) (by decide)
  refine SameBut.chain (xs := rosterParts) ?_ (frame_reshareIf _ _) (by decide) (by decide)
  refine SameBut.chain (xs := rosterParts) ?_ (frame_rosterEvent _ _ _) (by decide) (by decide)
  exact (frame_setSlot _ _ _).chain (frame_setVw _ _) (by decide) (by decide)

theorem frame_stationOfOther (s : State) (b : StationBody) : SameBut rosterParts s (s.stationOfOther b) := by
  unfold State.stationOfOther
  split
  · split
    · exact frame_takeStation _ _ _ _ _
    · exact SameBut.refl _ _
  · split
    · exact frame_takeStation _ _ _ _ _
    · split
      · split
        · exact (frame_removeSlot _ _ _).chain (frame_takeStation _ _ _ _ _) (by decide) (by decide)
        · exact SameBut.refl _ _
      · exact (frame_setRoster _ _).mono (by decide)

theorem frame_stationConflict (s : State) : SameBut (.lnc :: recordParts) s s.stationConflict := by
  unfold State.stationConflict
  dsimp only
  split
  · exact (frame_latch _ _).mono (by decide)
  · refine SameBut.chain (xs := .lnc :: recordParts) ?_ (frame_conflictAtCu _) (by decide) (by decide)
    refine SameBut.chain (xs := .lnc :: recordParts) ?_ (frame_setVw _ _) (by decide) (by decide)
    refine SameBut.chain (xs := .lnc :: recordParts) ?_ (frame_conflictAtPub _) (by decide) (by decide)
    refine SameBut.chain (xs := .lnc :: recordParts) ?_ (frame_conflictAtLnc _) (by decide) (by decide)
    exact (frame_latch _ _).chain (frame_setCu _ _) (by decide) (by decide)

/-- What taking a STATION may change. -/
abbrev stationParts : List Part := .lnc :: rosterParts

theorem frame_stationAtRoster (s : State) (f : Frame) : SameBut stationParts s (s.stationAtRoster f) := by
  unfold State.stationAtRoster
  split
  · exact SameBut.refl _ _
  · split
    · exact (frame_stationConflict _).mono (by decide)
    · split
      · exact SameBut.refl _ _
      · exact (frame_stationOfOther _ _).mono (by decide)

theorem frame_refreshSlot (s : State) (n : Nat) : SameBut [.roster] s (s.refreshSlot n) := by
  unfold State.refreshSlot
  split
  · exact SameBut.refl _ _
  · split
    · exact SameBut.refl _ _
    · split
      · exact SameBut.refl _ _
      · exact frame_setSlot _ _ _

theorem frame_tellLeft (s : State) (n : Nat) : SameBut cuParts s (s.tellLeft n) := by
  refine SameBut.chain (xs := cuParts) ?_ (frame_follow _) (by decide) (by decide)
  exact (frame_reshare _).chain (frame_dropClaim _ _) (by decide) (by decide)

theorem frame_markStation (s : State) (n : Nat) (m : SlotMark) : SameBut [.vw] s (s.markStation n m) := by
  unfold State.markStation
  split
  · exact frame_setVw _ _
  · exact SameBut.refl _ _

theorem frame_releaseAtViewer (s : State) (r : ReleaseBody) : SameBut [.vw, .latches] s (s.releaseAtViewer r) := by
  unfold State.releaseAtViewer
  split
  · dsimp only
    refine SameBut.chain (xs := [.vw]) ?_ (frame_follow _) (by decide) (by decide)
    split
    · refine SameBut.trans ?_ (frame_setReach _ _ _)
      split
      · exact (frame_markStation _ _ _).trans (frame_markStation _ _ _)
      · exact frame_markStation _ _ _
    · split
      · exact (frame_markStation _ _ _).trans (frame_markStation _ _ _)
      · exact frame_markStation _ _ _
  · exact SameBut.refl _ _

theorem frame_tailAtViewer (s : State) (x : TailBody) : SameBut [.vw] s (s.tailAtViewer x) := by
  unfold State.tailAtViewer
  split
  · exact SameBut.refl _ _
  · dsimp only
    split
    · exact (frame_setVw _ _).trans (frame_setReach _ _ _)
    · exact frame_setVw _ _

theorem frame_lineAtViewer (s : State) (l : LineBody) : SameBut [.vw, .latches] s (s.lineAtViewer l) := by
  unfold State.lineAtViewer
  split
  · exact frame_storeLine _ _ _ _ _
  · exact SameBut.refl _ _

theorem frame_takeBody {α : Type} (b : Option α) (take : State → α → State) (h : ∀ x, SameBut xs s (take s x)) :
    SameBut xs s (s.takeBody b take) := by
  unfold State.takeBody
  split
  · exact h _
  · exact SameBut.refl _ _

/-! ## Translation Engine -/

/-- What the TE's walk may change. -/
abbrev walkParts : List Part := [.te, .arb, .cache, .latches]

theorem frame_walkLookup (s : State) (m : ReqMarks) (o : LookupOut) : SameBut walkParts s (s.walkLookup m o) := by
  have te : ∀ (t : State) (x : Te), SameBut walkParts t (t.setTe x) := fun t x => (frame_setTe t x).mono (by decide)
  cases o with
  | read a n k => exact (frame_setTe _ _).chain (frame_request _ _ _) (by decide) (by decide)
  | found k bs =>
    unfold State.walkLookup
    dsimp only
    split
    · exact te _ _
    · split
      · exact te _ _
      · exact (frame_setCache _ _).chain (frame_setTe _ _) (by decide) (by decide)
  | noEntry k =>
    unfold State.walkLookup
    dsimp only
    split <;> exact te _ _
  | fault d =>
    unfold State.walkLookup
    dsimp only
    split <;> exact (frame_latch _ _).chain (te _ _) (by decide) (by decide)

theorem frame_treeStep (s : State) (l x : Nat) : SameBut walkParts s (s.treeStep l x) := by
  unfold State.treeStep
  split
  · exact (frame_setCache _ _).chain (frame_setTe _ _) (by decide) (by decide)
  · exact (frame_setCache _ _).chain (frame_walkLookup _ _ _) (by decide) (by decide)

theorem frame_continuation (s : State) : SameBut [.te] s s.continuation := by
  unfold State.continuation
  split
  · split
    · exact SameBut.refl _ _
    · split <;> exact frame_setTe _ _
  · exact frame_setTe _ _

theorem frame_stepAction (s : State) : SameBut walkParts s s.stepAction := by
  unfold State.stepAction
  split
  · split
    · exact frame_treeStep _ _ _
    · exact (frame_setTe _ _).mono (by decide)
  · exact ((frame_setTe _ _).trans (frame_continuation _)).mono (by decide)

/-- What the work of the TE's walk side may change. -/
abbrev teParts : List Part := [.te, .arb, .cache, .latches, .tb, .pub, .vw, .cu, .lnc]

theorem frame_handMarks (s : State) (x : List Byte) : SameBut requestParts s (s.handMarks x) :=
  SameBut.foldl _ (fun s q => frame_takeRequest s q) _ _

theorem frame_undo (s : State) : SameBut teParts s s.undo := by
  unfold State.undo State.undoOpen
  split
  · split
    · exact (frame_undoUnit _).chain (frame_setTe _ _) (by decide) (by decide)
    · exact (frame_setTe _ _).mono (by decide)
  · exact (frame_setTe _ _).mono (by decide)

theorem frame_handleStroke (s : State) (r : StrokeRecord) : SameBut teParts s (s.handleStroke r) := by
  unfold State.handleStroke
  dsimp only
  split
  · exact (frame_setTe _ _).chain (frame_undo _) (by decide) (by decide)
  · exact ((frame_setTe _ _).trans (frame_setTe _ _)).mono (by decide)

theorem frame_dropWork (s : State) (r : StrokeRecord) : SameBut teParts s (s.dropWork r) := by
  unfold State.dropWork
  dsimp only
  refine SameBut.chain (xs := teParts) ?_ (frame_handleStroke _ _) (by decide) (by decide)
  exact (frame_emitUnit _ _).chain (frame_setTe _ _) (by decide) (by decide)

theorem frame_flushIfDone (s : State) : SameBut teParts s s.flushIfDone := by
  unfold State.flushIfDone
  split
  · exact (frame_setTe _ _).chain (frame_flushReport _) (by decide) (by decide)
  · exact SameBut.refl _ _

theorem frame_afterUnit (s : State) (k : Nat) : SameBut teParts s (s.afterUnit k) := by
  unfold State.afterUnit
  dsimp only
  refine SameBut.trans ?_ (frame_flushIfDone _)
  split
  · exact frame_ite (SameBut.chain (frame_setTe _ _) (frame_dropWork _ _) (by decide) (by decide))
      ((frame_setTe _ _).mono (by decide))
  · exact (frame_setTe _ _).mono (by decide)

theorem frame_emitTranslation (s : State) (k : Nat) (x : List Byte) : SameBut teParts s (s.emitTranslation k x) := by
  have h : SameBut teParts s (s.handMarks x) := (frame_handMarks _ _).mono (by decide)
  unfold State.emitTranslation
  dsimp only
  split
  · exact (h.chain (frame_setTe _ _) (by decide) (by decide)).trans (frame_afterUnit _ _)
  · exact (h.chain (frame_emitUnit _ _) (by decide) (by decide)).trans (frame_afterUnit _ _)

theorem frame_emitUntranslate (s : State) : SameBut teParts s s.emitUntranslate :=
  (frame_emitUnit _ _).chain (frame_afterUnit _ _) (by decide) (by decide)

theorem frame_resolveAction (s : State) : SameBut teParts s s.resolveAction := by
  unfold State.resolveAction
  split
  · exact frame_emitUntranslate _
  · split
    · exact frame_emitTranslation _ _ _
    · exact (frame_setTe _ _).chain (frame_request _ _ _) (by decide) (by decide)

theorem frame_teNext (s : State) (h : s.teNext = some t) : SameBut teParts s t := by
  have rewalk : SameBut teParts s s.rewalk := (frame_setTe _ _).mono (by decide)
  unfold State.teNext at h
  split at h
  · cases h
  · split at h
    · cases h
    · split at h
      · cases h; exact rewalk
      · split at h
        · cases h
        · cases h; exact (frame_setTe _ _).mono (by decide)
    · split at h
      · cases h; exact rewalk
      · cases h; exact (frame_stepAction _).mono (by decide)
    · split at h
      · cases h; exact rewalk
      · cases h; exact frame_resolveAction _

theorem frame_teActions (n : Nat) (s : State) : SameBut teParts s (State.teActions n s) := by
  induction n generalizing s with
  | zero => exact SameBut.refl _ _
  | succ n ih =>
    unfold State.teActions
    split
    next t h => exact (frame_teNext s h).trans (ih _)
    next => exact SameBut.refl _ _

theorem frame_teRun (s : State) : SameBut teParts s s.teRun := frame_teActions _ _

theorem frame_startStroke (s : State) (r : StrokeRecord) : SameBut teParts s (s.startStroke r) := by
  unfold State.startStroke
  split
  · split
    · exact frame_dropWork _ _
    · exact (frame_setTe _ _).mono (by decide)
  · exact frame_handleStroke _ _

theorem frame_walkFetch (s : State) (r : LayerRef) (k : Nat) (m : ReqMarks) (o : FetchOut) :
    SameBut walkParts s (s.walkFetch r k m o) := by
  cases o with
  | more got => exact (frame_setTe _ _).chain (frame_request _ _ _) (by decide) (by decide)
  | text got =>
    unfold State.walkFetch
    dsimp only
    split <;> exact (frame_setTe _ _).mono (by decide)
  | bad a =>
    unfold State.walkFetch
    dsimp only
    split <;> exact (frame_latch _ _).chain (frame_setTe _ _) (by decide) (by decide)

theorem frame_walkData (s : State) (bs : List Byte) : SameBut walkParts s (s.walkData bs) := by
  unfold State.walkData
  split
  · exact frame_walkLookup _ _ _
  · exact frame_walkFetch _ _ _ _ _
  · exact SameBut.refl _ _

theorem frame_handRetr (s : State) (h : Handing) : SameBut [.te] s (s.handRetr h) := by
  unfold State.handRetr
  split <;> exact frame_setTe _ _

theorem frame_requestReplacement (s : State) (vs : List Stroke) (x : List Byte) : SameBut [.te] s (s.requestReplacement vs x) := by
  unfold State.requestReplacement
  split <;> exact frame_setTe _ _

theorem frame_retrFetchFrom (s : State) (h : Handing) : SameBut [.te, .arb] s (s.retrFetchFrom h) :=
  (frame_setTe _ _).chain (frame_request _ _ _) (by decide) (by decide)

theorem frame_retrData (s : State) (bs : List Byte) : SameBut [.te, .arb, .latches] s (s.retrData bs) := by
  unfold State.retrData State.retrFetch
  split
  · split
    · exact (frame_setTe _ _).chain (frame_request _ _ _) (by decide) (by decide)
    · split
      · exact (frame_retrFetchFrom _ _).mono (by decide)
      · exact ((frame_setTe _ _).trans (frame_requestReplacement _ _ _)).mono (by decide)
    · dsimp only
      split
      · exact (frame_latch _ _).chain (frame_retrFetchFrom _ _) (by decide) (by decide)
      · exact (frame_latch _ _).chain (frame_setTe _ _) (by decide) (by decide)
  · exact SameBut.refl _ _

/-! ## Definition Unit and GO -/

theorem frame_leaveService (s : State) (e : Event) : SameBut [.du, .latches] s (s.leaveService e) :=
  (frame_setDu _ _).chain (frame_latch _ _) (by decide) (by decide)

/-- What the Definition Unit's service may change before FINISH. -/
abbrev duParts : List Part := [.du, .arb, .latches]

theorem frame_writeOn (s : State) (e : DefEntry) (r : TextRef) (todo : List PlannedWrite) : SameBut duParts s (s.writeOn e r todo) := by
  unfold State.writeOn
  split
  · exact (frame_setDu _ _).chain (frame_request _ _ _) (by decide) (by decide)
  · exact (frame_setDu _ _).mono (by decide)

theorem frame_claimSpace (s : State) (e : DefEntry) (n m : Nat) (w : Alloc → List PlannedWrite) :
    SameBut duParts s (s.claimSpace e n m w) := by
  unfold State.claimSpace
  split
  · split
    · exact (frame_setDu _ _).chain (frame_writeOn _ _ _ _) (by decide) (by decide)
    · exact (frame_leaveService _ _).mono (by decide)
  · exact (frame_leaveService _ _).mono (by decide)

theorem frame_planDefine (s : State) (e : DefEntry) (p : List PlanStep) (k : Option Lookup) :
    SameBut duParts s (s.planDefine e p k) := by
  unfold State.planDefine
  dsimp only
  split
  · exact frame_claimSpace _ _ _ _ _
  · split
    · split
      · exact frame_claimSpace _ _ _ _ _
      · exact (frame_leaveService _ _).mono (by decide)
    · exact frame_claimSpace _ _ _ _ _
  · exact (frame_leaveService _ _).mono (by decide)

theorem frame_planForget (s : State) (e : DefEntry) (p : List PlanStep) (k : Option Lookup) :
    SameBut duParts s (s.planForget e p k) := by
  unfold State.planForget
  split
  · split
    · exact frame_writeOn _ _ _ _
    · exact (frame_leaveService _ _).mono (by decide)
  · exact (frame_leaveService _ _).mono (by decide)

theorem frame_planEnds (s : State) (e : DefEntry) (p : List PlanStep) (k : Option Lookup) : SameBut duParts s (s.planEnds e p k) := by
  unfold State.planEnds
  split
  · exact frame_planDefine _ _ _ _
  · exact frame_planForget _ _ _ _

theorem frame_planFault (s : State) (e : DefEntry) (d : Damage) : SameBut duParts s (s.planFault e d) :=
  (frame_latch _ _).chain (frame_leaveService _ _) (by decide) (by decide)

theorem frame_planStart (s : State) (e : DefEntry) (p : List PlanStep) (n : Nat) : SameBut duParts s (s.planStart e p n) := by
  unfold State.planStart
  split
  · exact (frame_setDu _ _).chain (frame_request _ _ _) (by decide) (by decide)
  · exact frame_planFault _ _ _
  · exact SameBut.refl _ _

theorem frame_planLookup (s : State) (e : DefEntry) (p : List PlanStep) (o : LookupOut) : SameBut duParts s (s.planLookup e p o) := by
  cases o with
  | read a n k => exact (frame_setDu _ _).chain (frame_request _ _ _) (by decide) (by decide)
  | noEntry k => exact frame_planEnds _ _ _ _
  | found k bs =>
    unfold State.planLookup State.planFound
    dsimp only
    split
    · exact frame_planStart _ _ _ _
    · exact frame_planEnds _ _ _ _
  | fault d => exact frame_planFault _ _ _

theorem frame_finishEntry (s : State) (e : DefEntry) (r : TextRef) : SameBut [.du, .te, .latches, .pub] s (s.finishEntry e r) := by
  have h : SameBut [.du, .te] s s.raiseGeneration := frame_raiseGeneration _
  have k : SameBut [.du, .te, .latches, .pub] s
      ((s.raiseGeneration.handRetr { strokes := e.strokes, ref := r }).leaveService (e.event .done .applied)) :=
    (h.chain (zs := [.du, .te]) (frame_handRetr _ _) (by decide) (by decide)).chain (frame_leaveService _ _) (by decide) (by decide)
  unfold State.finishEntry
  dsimp only
  split
  · exact h.chain (frame_leaveService _ _) (by decide) (by decide)
  · exact frame_ite (k.chain (frame_sendDefinition _ _ _) (by decide) (by decide)) k

/-- What the end of GO may change. -/
abbrev goParts : List Part := [.du, .arb, .latches, .lcp, .cache, .kcu, .tb, .lnc, .cu, .roster, .pub, .vw, .sp]

theorem frame_goFails (s : State) (r : GoReason) : SameBut [.du, .lcp] s (s.goFails r) :=
  (frame_setDu _ _).chain (frame_reply _ _ _) (by decide) (by decide)

theorem frame_publisherAtGo (s : State) : SameBut [.pub] s s.publisherAtGo := frame_setPub _ _

theorem frame_viewerAtGo (s : State) : SameBut [.vw, .sp] s s.viewerAtGo := by
  unfold State.viewerAtGo
  split
  · exact (frame_setVw _ _).chain (frame_setSp _ _) (by decide) (by decide)
  · exact SameBut.refl _ _

theorem frame_goComplete (s : State) : SameBut goParts s s.goComplete := by
  unfold State.goComplete
  dsimp only
  refine SameBut.chain (xs := goParts) ?_ (frame_choose _) (by decide) (by decide)
  refine SameBut.chain (xs := goParts) ?_ (frame_reply _ _ _) (by decide) (by decide)
  refine SameBut.chain (xs := goParts) ?_ (frame_viewerAtGo _) (by decide) (by decide)
  refine SameBut.chain (xs := goParts) ?_ (frame_publisherAtGo _) (by decide) (by decide)
  simp [SameBut]

theorem frame_goCountsOn (s : State) (todo : List PlannedWrite) : SameBut goParts s (s.goCountsOn todo) := by
  unfold State.goCountsOn
  split
  · exact (frame_setDu _ _).chain (frame_request _ _ _) (by decide) (by decide)
  · exact frame_goComplete _

theorem frame_scanOut (s : State) (o : ScanOut) : SameBut goParts s (s.scanOut o) := by
  cases o with
  | read a n sc => exact (frame_setDu _ _).chain (frame_request _ _ _) (by decide) (by decide)
  | fault d => exact (frame_latch _ _).chain (frame_goFails _ _) (by decide) (by decide)
  | done sc => exact (frame_setDu _ _).chain (frame_goCountsOn _ _) (by decide) (by decide)

theorem frame_goDirectory (s : State) (got : List Byte) : SameBut goParts s (s.goDirectory got) := by
  unfold State.goDirectory
  split
  · exact (frame_setDu _ _).chain (frame_request _ _ _) (by decide) (by decide)
  · split
    · exact (frame_goFails _ _).mono (by decide)
    · split
      · exact (frame_goFails _ _).mono (by decide)
      · exact (frame_setDu _ _).chain (frame_scanOut _ _) (by decide) (by decide)

theorem frame_duData (s : State) (bs : List Byte) : SameBut goParts s (s.duData bs) := by
  unfold State.duData
  split
  · exact (frame_planLookup _ _ _ _).mono (by decide)
  · exact (frame_setDu _ _).chain (frame_writeOn _ _ _ _) (by decide) (by decide)
  · exact frame_goDirectory _ _
  · exact frame_scanOut _ _
  · exact frame_goCountsOn _ _
  · exact SameBut.refl _ _

theorem frame_offerDefine (s : State) (f : Frame) (i : Nat) (q : RosterSlot) : SameBut [.du, .roster] s (s.offerDefine f i q) := by
  unfold State.offerDefine
  split
  · exact SameBut.refl _ _
  · split
    · exact (frame_setDu _ _).mono (by decide)
    · split
      · exact (frame_setDu _ _).chain (frame_setSlot _ _ _) (by decide) (by decide)
      · exact (frame_setDu _ _).mono (by decide)

theorem frame_defineAtDu (s : State) (f : Frame) : SameBut [.du, .roster] s (s.defineAtDu f) := by
  unfold State.defineAtDu
  split
  · split
    · exact SameBut.refl _ _
    · split
      · split
        · exact frame_offerDefine _ _ _ _
        · exact SameBut.refl _ _
      · exact SameBut.refl _ _
  · exact SameBut.refl _ _

/-! ## Host commands -/

theorem frame_loadOn (s : State) (a : Nat) (left : List Byte) : SameBut [.lcp, .arb] s (s.loadOn a left) := by
  unfold State.loadOn
  split
  · simp [SameBut, State.ok, State.reply]
  · simp [SameBut, State.request]

theorem frame_readOn (s : State) (a n : Nat) (got : List Byte) : SameBut [.lcp, .arb] s (s.readOn a n got) := by
  unfold State.readOn
  split
  · simp [SameBut, State.reply]
  · simp [SameBut, State.request]

theorem frame_exportData (s : State) (bs : List Byte) : SameBut [.lcp, .arb] s (s.exportData bs) := by
  unfold State.exportData
  split
  · exact frame_loadOn _ _ _
  · exact frame_readOn _ _ _ _
  · exact SameBut.refl _ _

theorem frame_checked {α : Type} (p : Option α) (run : State → α → State) (h : ∀ x, SameBut xs s (run s x))
    (hx : Part.lcp ∈ xs) : SameBut xs s (s.checked p run) := by
  unfold State.checked
  split
  · exact h _
  · exact (frame_reply _ _ _).mono (by simpa using hx)

/-- A command transaction changes the host port, and what its running changes. -/
theorem frame_takeCommand (code : Byte) (ps : List Byte) (run : State → State) (h : ∀ t, SameBut xs t (run t)) (hx : Part.lcp ∈ xs)
    (s : State) : SameBut xs s (s.takeCommand code ps run) := by
  have port : ∀ p ∈ [Part.lcp], p ∈ xs := by simpa using hx
  have taking : SameBut xs s (s.taking code ps) := (frame_taking _ _ _).mono port
  unfold State.takeCommand
  split
  · exact (frame_give _ _).mono port
  · split
    · exact taking.trans ((frame_reply _ _ _).mono port)
    · split
      · exact taking.trans (h _)
      · exact taking.trans ((frame_reply _ _ _).mono port)

end Sys2Proof.Machine
end

