-- ==== Sys2Proof/Laws/Latch.lean ====
section
/-! SUPPORT. Which event latches each shared operation may touch. -/

namespace Sys2Proof.Machine

/-- No latch but those of the priorities in `ps` differs between two states. -/
def LatchesBut (ps : List Nat) (s t : State) : Prop := ∀ p, 1 ≤ p → p ∉ ps → t.lcp.latch p = s.lcp.latch p

variable {s t u : State} {xs : List Part} {ps qs rs : List Nat}

theorem LatchesBut.refl (ps : List Nat) (s : State) : LatchesBut ps s s := fun _ _ _ => rfl

theorem LatchesBut.mono (h : LatchesBut ps s t) (hp : ∀ p ∈ ps, p ∈ qs) : LatchesBut qs s t :=
  fun p h1 h2 => h p h1 fun m => h2 (hp p m)

theorem LatchesBut.trans (h : LatchesBut ps s t) (k : LatchesBut ps t u) : LatchesBut ps s u :=
  fun p h1 h2 => (k p h1 h2).trans (h p h1 h2)

theorem LatchesBut.chain (h : LatchesBut ps s t) (k : LatchesBut qs t u) (hp : ∀ p ∈ ps, p ∈ rs) (hq : ∀ p ∈ qs, p ∈ rs) :
    LatchesBut rs s u := (h.mono hp).trans (k.mono hq)

theorem latches_foldl {α : Type} (f : State → α → State) (h : ∀ s a, LatchesBut ps s (f s a)) (l : List α) (s : State) :
    LatchesBut ps s (l.foldl f s) := by
  induction l generalizing s with
  | nil => exact LatchesBut.refl _ _
  | cons a l ih => exact (h s a).trans (ih _)

theorem latches_ite {c : Prop} [Decidable c] (h : LatchesBut ps s t) (k : LatchesBut ps s u) :
    LatchesBut ps s (if c then t else u) := by
  split
  · exact h
  · exact k

/-- An operation whose frame leaves the latches out touches none. -/
theorem SameBut.noLatch (h : SameBut xs s t) (hx : Part.latches ∉ xs) : LatchesBut ps s t := by
  intro p _ _
  have k : t.lcp.latches = s.lcp.latches := h.2.2.2.2.2.2.2.2.2.2.2.2.2.2.2.2.2.1 hx
  simp only [Lcp.latch, k]

theorem priority_pos (e : Event) : 1 ≤ e.priority := by cases e <;> simp [Event.priority]

theorem priority_le (e : Event) : e.priority ≤ 16 := by cases e <;> simp [Event.priority]

/-- The latch an event goes to. -/
theorem latched_latch (s : State) (e : Event) : Latched s (s.latch e) e.priority e := by
  have h1 := priority_pos e
  have h2 := priority_le e
  simp only [Latched, State.latch, State.setLcp_lcp, Lcp.latched, Lcp.latch]
  rw [Vector.getElem?_setIfInBounds, if_pos rfl, if_pos (by omega)]
  rfl

theorem latches_latch (s : State) (e : Event) : LatchesBut [e.priority] s (s.latch e) := by
  intro p h1 h2
  have h3 := priority_pos e
  simp only [List.mem_singleton] at h2
  simp only [State.latch, State.setLcp_lcp, Lcp.latched, Lcp.latch]
  rw [Vector.getElem?_setIfInBounds, if_neg (by omega)]

/-- A latch taken stays as it is through operations that touch other latches. -/
theorem Latched.keep {p : Nat} {e : Event} (h : Latched s t p e) (k : LatchesBut ps t u) (h1 : 1 ≤ p) (hp : p ∉ ps) :
    Latched s u p e := (k p h1 hp).trans h

theorem Latched.after {p : Nat} {e : Event} (h : Latched t u p e) (k : LatchesBut ps s t) (h1 : 1 ≤ p) (hp : p ∉ ps) :
    Latched s u p e := by
  unfold Latched at *
  rw [h, k p h1 hp]

/-! ## Stroke capture -/

theorem latches_logStroke (s : State) (r : StrokeRecord) : LatchesBut [6, 7] s (s.logStroke r) := by
  unfold State.logStroke
  refine latches_ite (latches_ite ?_ ((frame_setNotes _ _).noLatch (by decide))) ?_
  all_goals exact ((frame_setNotes _ _).noLatch (ps := []) (by decide)).chain (latches_latch _ _) (by decide) (by simp [Event.priority])

theorem latches_handOn (s : State) (r : StrokeRecord) : LatchesBut [6, 7] s (s.handOn r) :=
  ((frame_setSq _ _).noLatch (by decide)).trans (latches_logStroke _ _)

theorem latches_closeChord (s : State) (c : Chord) (t : Ms) : LatchesBut [6, 7] s (s.closeChord c t) :=
  latches_ite ((frame_setKcu _ _).noLatch (by decide))
    (LatchesBut.trans ((frame_setKcu _ _).noLatch (by decide)) (latches_handOn _ _))

theorem latches_closeIfNoneLive (s : State) (t : Ms) : LatchesBut [6, 7] s (s.closeIfNoneLive t) := by
  unfold State.closeIfNoneLive
  split
  · exact latches_ite (LatchesBut.refl _ _) (latches_closeChord _ _ _)
  · exact LatchesBut.refl _ _

theorem latches_acceptedUp (s : State) (n : Nat) (c : Contact) : LatchesBut [6, 7] s (s.acceptedUp n c) := by
  unfold State.acceptedUp
  dsimp only
  exact latches_ite (LatchesBut.trans ((frame_setKcu _ _).noLatch (by decide)) (latches_closeIfNoneLive _ _))
    ((frame_setKcu _ _).noLatch (by decide))

/-! ## Viewer -/

theorem latches_loseLine (s : State) (n : Nat) : LatchesBut [13] s (s.loseLine n) :=
  ((frame_setVw _ _).noLatch (ps := []) (by decide)).chain (latches_latch _ _) (by decide) (by simp [Event.priority])

theorem latches_storeLine (s : State) (n : Nat) (g b : Bool) (x : List Byte) : LatchesBut [13] s (s.storeLine n g b x) := by
  have put : ∀ y, LatchesBut [13] s (s.putLine n y) := fun y => (frame_putLine _ _ _).noLatch (by decide)
  unfold State.storeLine
  split
  · exact LatchesBut.refl _ _
  · exact latches_ite (LatchesBut.refl _ _) (put _)
  · exact latches_ite (latches_loseLine _ _) (put _)
  · exact latches_ite (latches_ite (latches_loseLine _ _) (put _)) (LatchesBut.refl _ _)

theorem latches_follow (s : State) : LatchesBut [12] s s.follow := by
  have h : LatchesBut [12] s
      ((s.setVw { s.vw with followed := s.followChoice }).latch (.followChanged (s.followStation s.followChoice))) :=
    ((frame_setVw _ _).noLatch (ps := []) (by decide)).chain (latches_latch _ _) (by decide) (by simp [Event.priority])
  unfold State.follow
  refine latches_ite (latches_ite (LatchesBut.refl _ _) ?_) (LatchesBut.refl _ _)
  dsimp only
  exact latches_ite (h.trans ((frame_setReach _ _ _).noLatch (by decide))) h

/-! ## Transcript Builder -/

/-- The latches the Transcript Builder's work may touch. -/
abbrev tbEvents : List Nat := [2, 3, 13, 14]

theorem latches_enterRing (s : State) (l : CommittedLine) : LatchesBut [14] s (s.enterRing l) := by
  have h : ∀ x, LatchesBut [14] s (s.setTb x) := fun x => (frame_setTb _ _).noLatch (by decide)
  unfold State.enterRing
  refine latches_ite (h _) ?_
  dsimp only
  split
  · exact latches_ite (LatchesBut.trans (h _) ((latches_latch _ _).mono (by simp [Event.priority]))) (h _)
  · exact h _

theorem latches_ownLineToViewer (s : State) (n : Nat) (b : Bool) (x : List Byte) : LatchesBut [13] s (s.ownLineToViewer n b x) := by
  unfold State.ownLineToViewer
  refine latches_ite ?_ (LatchesBut.refl _ _)
  dsimp only
  exact latches_ite ((latches_storeLine _ _ _ _ _).trans ((frame_setReach _ _ _).noLatch (by decide))) (latches_storeLine _ _ _ _ _)

theorem latches_recordLine (s : State) (b c : Bool) (x : List Byte) (n : Nat) : LatchesBut [13, 14] s (s.recordLine b c x n) := by
  unfold State.recordLine
  dsimp only
  refine LatchesBut.chain (ps := [14]) ?_ (latches_ownLineToViewer _ _ _ _) (by decide) (by decide)
  refine LatchesBut.trans ?_ ((frame_reportHorizon _ _).noLatch (by decide))
  refine LatchesBut.trans ?_ ((frame_queueLine _ _ _ _).noLatch (by decide))
  exact LatchesBut.trans ((frame_setTb _ _).noLatch (by decide)) (latches_enterRing _ _)

theorem latches_breakLine (s : State) : LatchesBut [3, 13, 14] s s.breakLine :=
  latches_ite ((latches_latch _ _).mono (by simp [Event.priority])) ((latches_recordLine _ _ _ _ _).mono (by decide))

theorem latches_jumpBreak (s : State) : LatchesBut tbEvents s s.jumpBreak := by
  have h : LatchesBut tbEvents s s.jump.breakLine :=
    LatchesBut.trans ((frame_jump _).noLatch (by decide)) ((latches_breakLine _).mono (by decide))
  unfold State.jumpBreak
  exact latches_ite (latches_ite h (h.trans ((latches_latch _ _).mono (by simp [Event.priority])))) (LatchesBut.refl _ _)

theorem latches_discardLine (s : State) (n : Nat) : LatchesBut tbEvents s (s.discardLine n) :=
  LatchesBut.trans ((frame_setTb _ _).noLatch (by decide)) ((latches_latch _ _).mono (by simp [Event.priority]))

theorem latches_commitText (s : State) (c : Bool) (x : List Byte) (n : Nat) : LatchesBut tbEvents s (s.commitText c x n) := by
  unfold State.commitText
  split
  · exact LatchesBut.trans ((frame_setTb _ _).noLatch (by decide)) ((latches_enterRing _ _).mono (by decide))
  · dsimp only
    exact latches_ite ((latches_jumpBreak _).trans (latches_discardLine _ _))
      ((latches_jumpBreak _).trans ((latches_recordLine _ _ _ _ _).mono (by decide)))

theorem latches_notified (h : LatchesBut ps s t) : LatchesBut ps s (s.notified t) :=
  latches_ite (h.trans ((frame_buildTail _).noLatch (by decide))) h

theorem latches_commitOldest (s : State) : LatchesBut tbEvents s s.commitOldest :=
  latches_notified (LatchesBut.trans ((frame_setTb _ _).noLatch (by decide)) (latches_commitText _ _ _ _))

theorem latches_commitWhile (p : Region → Bool) (n : Nat) (s : State) : LatchesBut tbEvents s (State.commitWhile p n s) := by
  induction n generalizing s with
  | zero => exact LatchesBut.refl _ _
  | succ n ih =>
    unfold State.commitWhile
    exact latches_ite ((latches_commitOldest _).trans (ih _)) (LatchesBut.refl _ _)

theorem latches_commitOver (s : State) : LatchesBut tbEvents s s.commitOver := latches_commitWhile _ _ _

theorem latches_emitUnit (s : State) (u : TextUnit) : LatchesBut tbEvents s (s.emitUnit u) := by
  unfold State.emitUnit
  dsimp only
  refine LatchesBut.trans ?_ (latches_commitOver _)
  exact (latches_commitWhile _ _ _).trans ((frame_setUnits _ _).noLatch (by decide))

theorem latches_undoUnit (s : State) : LatchesBut ps s s.undoUnit := (frame_setUnits _ _).noLatch (by decide)

theorem latches_replaceUnits (s : State) (vs : List Stroke) (x : List Byte) : LatchesBut tbEvents s (s.replaceUnits vs x) :=
  latches_ite (LatchesBut.trans ((frame_setUnits _ _).noLatch (by decide)) (latches_commitOver _))
    (LatchesBut.refl _ _)

theorem latches_commitAllLines (s : State) : LatchesBut tbEvents s s.commitAllLines :=
  (latches_commitWhile _ _ _).trans ((frame_clearRegion _).noLatch (by decide))

theorem latches_switchToRecord (s : State) (n : Nat) (b : Bool) (c : Option (Bool × Bool)) :
    LatchesBut [3, 13, 14] s (s.switchToRecord n b c) := by
  unfold State.switchToRecord
  split
  · exact LatchesBut.refl _ _
  · dsimp only
    refine LatchesBut.trans ?_ ((frame_buildTail _).noLatch (by decide))
    refine LatchesBut.trans ?_ ((frame_carryFormat _ _).noLatch (by decide))
    refine LatchesBut.trans ?_ ((frame_setTb _ _).noLatch (by decide))
    refine latches_ite (LatchesBut.trans ?_ (latches_breakLine _)) ((frame_setTb _ _).noLatch (by decide))
    exact ((frame_setTb _ _).trans (frame_jump _)).noLatch (by decide)

/-! ## Custody Unit -/

theorem latches_reportCustody (s : State) : LatchesBut [12] s s.reportCustody :=
  LatchesBut.trans ((frame_tellCustody _).noLatch (by decide)) (latches_follow _)

theorem latches_setCustody (s : State) (c : CustodyState) : LatchesBut [12] s (s.setCustody c) :=
  LatchesBut.trans ((frame_setCu _ _).noLatch (by decide)) (latches_reportCustody _)

/-- The latches a switch of custody may touch, but CUSTODY_CHANGED and CLAIM_OUTCOME. -/
abbrev switchEvents : List Nat := [2, 3, 12, 13, 14]

theorem latches_endClaim (s : State) (o : ClaimEnd) (a b : Nat) : LatchesBut [5, 12] s (s.endClaim o a b) := by
  refine LatchesBut.chain (ps := [12]) ?_ (latches_latch _ _) (by decide) (by simp [Event.priority])
  exact LatchesBut.trans ((frame_setCu _ _).noLatch (by decide)) (latches_setCustody _ _)

theorem latched_endClaim (s : State) (o : ClaimEnd) (a b : Nat) : Latched s (s.endClaim o a b) 5 (.claimOutcome o a b) := by
  refine Latched.after (latched_latch _ _) (ps := [12]) ?_ (by decide) (by decide)
  exact LatchesBut.trans ((frame_setCu _ _).noLatch (by decide)) (latches_setCustody _ _)

theorem latches_becomeHolder (s : State) (n : Nat) (b : Bool) (c : Option (Bool × Bool)) (x : ChangeCause) (k : Nat) :
    LatchesBut (4 :: switchEvents) s (s.becomeHolder n b c x k) := by
  have h : LatchesBut (4 :: switchEvents) s
      ((((s.switchToRecord n b c).setCu
          { (s.switchToRecord n b c).cu with
            prior := none, claimAt := none, recordClosed := false, state := .onRecord }).tellCustody).latch
        (.custodyChanged x k n)) := by
    refine LatchesBut.trans ?_ ((latches_latch _ _).mono (by simp [Event.priority]))
    refine LatchesBut.trans ?_ ((frame_tellCustody _).noLatch (by decide))
    exact LatchesBut.trans ((latches_switchToRecord _ _ _ _).mono (by decide)) ((frame_setCu _ _).noLatch (by decide))
  unfold State.becomeHolder
  dsimp only
  exact latches_ite (h.trans ((latches_latch _ _).mono (by simp [Event.priority]))) h

theorem latched_becomeHolder (s : State) (n : Nat) (b : Bool) (c : Option (Bool × Bool)) (x : ChangeCause) (k : Nat) :
    Latched s (s.becomeHolder n b c x k) 4 (.custodyChanged x k n)
    ∧ (b = true → Latched s (s.becomeHolder n b c x k) 2 (.recordBreak n)) := by
  have h : LatchesBut [3, 12, 13, 14] s
      (((s.switchToRecord n b c).setCu
          { (s.switchToRecord n b c).cu with
            prior := none, claimAt := none, recordClosed := false, state := .onRecord }).tellCustody) := by
    refine LatchesBut.trans ?_ ((frame_tellCustody _).noLatch (by decide))
    exact LatchesBut.trans ((latches_switchToRecord _ _ _ _).mono (by decide)) ((frame_setCu _ _).noLatch (by decide))
  unfold State.becomeHolder
  dsimp only
  constructor
  · split
    · exact ((latched_latch _ _).after h (by simp [Event.priority]) (by simp [Event.priority])).keep (latches_latch _ _)
        (by simp [Event.priority]) (by simp [Event.priority])
    · exact (latched_latch _ _).after h (by simp [Event.priority]) (by simp [Event.priority])
  · intro hb
    rw [if_pos hb]
    refine Latched.after (latched_latch _ (.recordBreak n)) (ps := [3, 4, 12, 13, 14]) ?_ (by decide) (by decide)
    exact h.chain (latches_latch _ _) (by decide) (by simp [Event.priority])

theorem latches_takeRequest (s : State) (q : CustodyRequest) : LatchesBut [12] s (s.takeRequest q) := by
  have close : ∀ u : State, LatchesBut [12] u u.closeRecord := fun u => by
    refine LatchesBut.trans ?_ ((frame_requestFlush _).noLatch (by decide))
    exact LatchesBut.trans ((frame_setCu _ _).noLatch (by decide)) (latches_setCustody _ _)
  have begin : LatchesBut [12] s s.beginClaim := by
    refine LatchesBut.trans ?_ (latches_setCustody _ _)
    exact ((frame_setCu _ _).chain (frame_handCustody _ _ _) (zs := [.cu, .lnc]) (by decide) (by decide)).noLatch (by decide)
  have refused : ∀ u : State, LatchesBut [12] u u.refuseGathered := fun u => by
    refine LatchesBut.trans ?_ (latches_setCustody _ _)
    exact LatchesBut.trans
      (latches_foldl (fun (t : State) (c : Claim) => t.refuse c.station .hold) (fun _ _ => (frame_refuse _ _ _).noLatch (by decide)) _ _)
      ((frame_setCu _ _).noLatch (by decide))
  unfold State.takeRequest
  refine latches_ite ?_ (LatchesBut.refl _ _)
  cases q with
  | claim => exact begin
  | release => exact latches_ite (close _) ((frame_handOverToBest _).noLatch (by decide))
  | enterShadow => exact latches_setCustody _ _
  | leaveShadow => exact latches_setCustody _ _
  | hold =>
    exact latches_ite (LatchesBut.trans ((frame_setHold _ _).noLatch (by decide)) (refused _)) ((frame_setHold _ _).noLatch (by decide))
  | unhold => exact (frame_setHold _ _).noLatch (by decide)

theorem latches_dropClaim (s : State) (n : Nat) : LatchesBut [12] s (s.dropClaim n) := by
  unfold State.dropClaim
  refine latches_ite ?_ (LatchesBut.refl _ _)
  dsimp only
  exact latches_ite (LatchesBut.trans ((frame_setCu _ _).noLatch (by decide)) (latches_setCustody _ _))
    ((frame_setCu _ _).noLatch (by decide))

theorem latches_judgeClaim (s : State) (c : Claim) : LatchesBut [12] s (s.judgeClaim c) := by
  have refused : ∀ r, LatchesBut [12] s (s.refuse c.station r) := fun _ => (frame_refuse _ _ _).noLatch (by decide)
  unfold State.judgeClaim
  refine latches_ite (refused _) (latches_ite (refused _) (latches_ite ((frame_setCu _ _).noLatch (by decide))
    (latches_ite (LatchesBut.refl _ _) ?_)))
  unfold State.gatherClaim
  dsimp only
  exact latches_ite (LatchesBut.trans (((frame_setCu _ _).trans (frame_setCu _ _)).noLatch (by decide)) (latches_setCustody _ _))
    ((frame_setCu _ _).noLatch (by decide))

theorem latches_claimAtCu (s : State) (c : Claim) : LatchesBut [5, 12] s (s.claimAtCu c) := by
  unfold State.claimAtCu
  refine latches_ite (LatchesBut.refl _ _) ?_
  split
  · exact (latches_judgeClaim _ _).mono (by decide)
  · exact latches_ite ((latches_judgeClaim _ _).mono (by decide)) (LatchesBut.refl _ _)
  · exact latches_ite (latches_endClaim _ _ _ _) (LatchesBut.refl _ _)
  · exact LatchesBut.refl _ _

theorem latches_leaveRecord (s : State) : LatchesBut tbEvents s (s.commitAllLines).switchToDraft :=
  (latches_commitAllLines _).trans ((frame_switchToDraft _).noLatch (by decide))

theorem latches_yieldTo (s : State) (n : Nat) : LatchesBut (4 :: switchEvents) s (s.yieldTo n) := by
  unfold State.yieldTo
  dsimp only
  refine LatchesBut.trans ?_ ((latches_latch _ _).mono (by simp [Event.priority]))
  refine LatchesBut.trans ?_ ((latches_setCustody _ _).mono (by decide))
  exact LatchesBut.trans ((latches_leaveRecord _).mono (by decide)) ((frame_setCu _ _).noLatch (by decide))

theorem latches_stationAtCu (s : State) (q : RosterSlot) : LatchesBut (4 :: switchEvents) s (s.stationAtCu q) := by
  unfold State.stationAtCu
  dsimp only
  refine latches_ite (LatchesBut.trans ?_ (latches_yieldTo _ _)) ?_
  all_goals refine latches_ite (LatchesBut.trans ?_ ((latches_dropClaim _ _).mono (by decide))) ?_
  all_goals exact latches_ite ((frame_setCu _ _).noLatch (by decide)) (LatchesBut.refl _ _)

theorem latches_conflictAtCu (s : State) : LatchesBut (4 :: switchEvents) s s.conflictAtCu := by
  unfold State.conflictAtCu
  dsimp only
  refine latches_ite (LatchesBut.trans ?_ ((latches_latch _ _).mono (by simp [Event.priority]))) ?_
  all_goals refine latches_ite ?_ (LatchesBut.trans ?_ ((latches_setCustody _ _).mono (by decide)))
  all_goals
    refine LatchesBut.trans ?_ ((frame_setCu _ _).noLatch (by decide))
    exact latches_ite ((latches_leaveRecord _).mono (by decide)) (LatchesBut.refl _ _)

theorem latches_releaseAtViewer (s : State) (r : ReleaseBody) : LatchesBut [12] s (s.releaseAtViewer r) := by
  have mark : ∀ (u : State) n m, LatchesBut [12] u (u.markStation n m) := fun _ _ _ => (frame_markStation _ _ _).noLatch (by decide)
  have named : LatchesBut [12] s
      (if r.target ≠ 0 ∧ (s.markStation r.station .released).roster.admits r.target = true then
        (s.markStation r.station .released).markStation r.target .named else s.markStation r.station .released) :=
    latches_ite ((mark _ _ _).trans (mark _ _ _)) (mark _ _ _)
  unfold State.releaseAtViewer
  refine latches_ite ?_ (LatchesBut.refl _ _)
  exact LatchesBut.trans (latches_ite (named.trans ((frame_setReach _ _ _).noLatch (by decide))) named) (latches_follow _)

/-! ## Line Controller and Roster -/

theorem latches_lineError (s : State) (x : LineError) : LatchesBut [16] s (s.lineError x) := by
  unfold State.lineError
  dsimp only
  exact latches_ite (LatchesBut.trans ((frame_setLnc _ _).noLatch (by decide)) ((latches_latch _ _).mono (by simp [Event.priority])))
    ((frame_setLnc _ _).noLatch (by decide))

theorem latches_rosterEvent (s : State) (a b : RosterSlot) : LatchesBut [15] s (s.rosterEvent a b) := by
  unfold State.rosterEvent
  refine latches_ite (LatchesBut.refl _ _) ?_
  split
  · exact (latches_latch _ _).mono (by simp [Event.priority])
  · exact (latches_latch _ _).mono (by simp [Event.priority])
  · exact LatchesBut.refl _ _

theorem latches_tellLeft (s : State) (n : Nat) : LatchesBut [12] s (s.tellLeft n) :=
  (LatchesBut.trans ((frame_reshare _).noLatch (by decide)) (latches_dropClaim _ _)).trans (latches_follow _)

end Sys2Proof.Machine
end

