-- ==== Sys2Proof/Laws/Blocks.lean ====
section
/-! SUPPORT. The blocks that the shared operations leave alone, one simp lemma for each, from their frames. -/

namespace Sys2Proof.Machine

section
variable {xs : List Part} {s t : State}

theorem SameBut.clock (h : SameBut xs s t) (hx : Part.clock ∉ xs) : t.clock = s.clock := h.1 hx
theorem SameBut.kcu (h : SameBut xs s t) (hx : Part.kcu ∉ xs) : t.kcu = s.kcu := h.2.1 hx
theorem SameBut.sq (h : SameBut xs s t) (hx : Part.sq ∉ xs) : t.sq = s.sq := h.2.2.1 hx
theorem SameBut.notes (h : SameBut xs s t) (hx : Part.notes ∉ xs) : t.notes = s.notes := h.2.2.2.1 hx
theorem SameBut.du (h : SameBut xs s t) (hx : Part.du ∉ xs) : t.du = s.du := h.2.2.2.2.2.1 hx
theorem SameBut.cache (h : SameBut xs s t) (hx : Part.cache ∉ xs) : t.cache = s.cache := h.2.2.2.2.2.2.1 hx
theorem SameBut.arb (h : SameBut xs s t) (hx : Part.arb ∉ xs) : t.arb = s.arb := h.2.2.2.2.2.2.2.1 hx
theorem SameBut.te (h : SameBut xs s t) (hx : Part.te ∉ xs) : t.te = s.te := h.2.2.2.2.2.2.2.2.1 hx
theorem SameBut.tb (h : SameBut xs s t) (hx : Part.tb ∉ xs) : t.tb = s.tb := h.2.2.2.2.2.2.2.2.2.1 hx
theorem SameBut.lnc (h : SameBut xs s t) (hx : Part.lnc ∉ xs) : t.lnc = s.lnc := h.2.2.2.2.2.2.2.2.2.2.1 hx
theorem SameBut.pub (h : SameBut xs s t) (hx : Part.pub ∉ xs) : t.pub = s.pub := h.2.2.2.2.2.2.2.2.2.2.2.1 hx
theorem SameBut.roster (h : SameBut xs s t) (hx : Part.roster ∉ xs) : t.roster = s.roster := h.2.2.2.2.2.2.2.2.2.2.2.2.1 hx
theorem SameBut.cu (h : SameBut xs s t) (hx : Part.cu ∉ xs) : t.cu = s.cu := h.2.2.2.2.2.2.2.2.2.2.2.2.2.1 hx
theorem SameBut.vw (h : SameBut xs s t) (hx : Part.vw ∉ xs) : t.vw = s.vw := h.2.2.2.2.2.2.2.2.2.2.2.2.2.2.1 hx
theorem SameBut.sp (h : SameBut xs s t) (hx : Part.sp ∉ xs) : t.sp = s.sp := h.2.2.2.2.2.2.2.2.2.2.2.2.2.2.2.1 hx

theorem SameBut.pending (h : SameBut xs s t) : t.pending = s.pending := h.2.2.2.2.2.2.2.2.2.2.2.2.2.2.2.2.2.2

/-- The host port but for its latches. -/
theorem SameBut.port (h : SameBut xs s t) (hx : Part.lcp ∉ xs) : { t.lcp with latches := s.lcp.latches } = s.lcp := h.2.2.2.2.2.2.2.2.2.2.2.2.2.2.2.2.1 hx

theorem SameBut.lcp (h : SameBut xs s t) (hx : Part.lcp ∉ xs) (hy : Part.latches ∉ xs) : t.lcp = s.lcp := by
  have h1 := h.port hx
  have h2 : t.lcp.latches = s.lcp.latches := h.2.2.2.2.2.2.2.2.2.2.2.2.2.2.2.2.2.1 hy
  rw [← h2] at h1
  exact h1

theorem SameBut.config (h : SameBut xs s t) (hx : Part.lcp ∉ xs) : t.lcp.config = s.lcp.config := by
  have h1 := congrArg Lcp.config (h.port hx)
  exact h1

theorem SameBut.isOnline (h : SameBut xs s t) (hx : Part.lcp ∉ xs) : t.lcp.online = s.lcp.online := by
  have h1 := congrArg Lcp.online (h.port hx)
  exact h1

theorem SameBut.cfg (h : SameBut xs s t) (hx : Part.lcp ∉ xs) : t.cfg = s.cfg := by
  simp only [State.cfg, h.config hx]

theorem SameBut.own (h : SameBut xs s t) (hx : Part.lcp ∉ xs) : t.own = s.own := by
  simp only [State.own, h.cfg hx]

theorem SameBut.online (h : SameBut xs s t) (hx : Part.lcp ∉ xs) : t.online = s.online := h.isOnline hx

end

/-! ## advance -/

@[simp] theorem advance_kcu (s : State) (n : Nat) : (s.advance n).kcu = s.kcu := (frame_advance s n).kcu (by decide)
@[simp] theorem advance_sq (s : State) (n : Nat) : (s.advance n).sq = s.sq := (frame_advance s n).sq (by decide)
@[simp] theorem advance_notes (s : State) (n : Nat) : (s.advance n).notes = s.notes := (frame_advance s n).notes (by decide)
@[simp] theorem advance_du (s : State) (n : Nat) : (s.advance n).du = s.du := (frame_advance s n).du (by decide)
@[simp] theorem advance_cache (s : State) (n : Nat) : (s.advance n).cache = s.cache := (frame_advance s n).cache (by decide)
@[simp] theorem advance_arb (s : State) (n : Nat) : (s.advance n).arb = s.arb := (frame_advance s n).arb (by decide)
@[simp] theorem advance_te (s : State) (n : Nat) : (s.advance n).te = s.te := (frame_advance s n).te (by decide)
@[simp] theorem advance_tb (s : State) (n : Nat) : (s.advance n).tb = s.tb := (frame_advance s n).tb (by decide)
@[simp] theorem advance_pub (s : State) (n : Nat) : (s.advance n).pub = s.pub := (frame_advance s n).pub (by decide)
@[simp] theorem advance_roster (s : State) (n : Nat) : (s.advance n).roster = s.roster := (frame_advance s n).roster (by decide)
@[simp] theorem advance_cu (s : State) (n : Nat) : (s.advance n).cu = s.cu := (frame_advance s n).cu (by decide)
@[simp] theorem advance_vw (s : State) (n : Nat) : (s.advance n).vw = s.vw := (frame_advance s n).vw (by decide)
@[simp] theorem advance_lcp (s : State) (n : Nat) : (s.advance n).lcp = s.lcp := (frame_advance s n).lcp (by decide) (by decide)
@[simp] theorem advance_cfg (s : State) (n : Nat) : (s.advance n).cfg = s.cfg := (frame_advance s n).cfg (by decide)
@[simp] theorem advance_own (s : State) (n : Nat) : (s.advance n).own = s.own := (frame_advance s n).own (by decide)

/-! ## reachMs -/

@[simp] theorem reachMs_kcu (s : State) (e : Ms) : (s.reachMs e).kcu = s.kcu := (frame_reachMs s e).kcu (by decide)
@[simp] theorem reachMs_sq (s : State) (e : Ms) : (s.reachMs e).sq = s.sq := (frame_reachMs s e).sq (by decide)
@[simp] theorem reachMs_notes (s : State) (e : Ms) : (s.reachMs e).notes = s.notes := (frame_reachMs s e).notes (by decide)
@[simp] theorem reachMs_du (s : State) (e : Ms) : (s.reachMs e).du = s.du := (frame_reachMs s e).du (by decide)
@[simp] theorem reachMs_cache (s : State) (e : Ms) : (s.reachMs e).cache = s.cache := (frame_reachMs s e).cache (by decide)
@[simp] theorem reachMs_arb (s : State) (e : Ms) : (s.reachMs e).arb = s.arb := (frame_reachMs s e).arb (by decide)
@[simp] theorem reachMs_te (s : State) (e : Ms) : (s.reachMs e).te = s.te := (frame_reachMs s e).te (by decide)
@[simp] theorem reachMs_tb (s : State) (e : Ms) : (s.reachMs e).tb = s.tb := (frame_reachMs s e).tb (by decide)
@[simp] theorem reachMs_pub (s : State) (e : Ms) : (s.reachMs e).pub = s.pub := (frame_reachMs s e).pub (by decide)
@[simp] theorem reachMs_roster (s : State) (e : Ms) : (s.reachMs e).roster = s.roster := (frame_reachMs s e).roster (by decide)
@[simp] theorem reachMs_cu (s : State) (e : Ms) : (s.reachMs e).cu = s.cu := (frame_reachMs s e).cu (by decide)
@[simp] theorem reachMs_vw (s : State) (e : Ms) : (s.reachMs e).vw = s.vw := (frame_reachMs s e).vw (by decide)
@[simp] theorem reachMs_lcp (s : State) (e : Ms) : (s.reachMs e).lcp = s.lcp := (frame_reachMs s e).lcp (by decide) (by decide)
@[simp] theorem reachMs_cfg (s : State) (e : Ms) : (s.reachMs e).cfg = s.cfg := (frame_reachMs s e).cfg (by decide)
@[simp] theorem reachMs_own (s : State) (e : Ms) : (s.reachMs e).own = s.own := (frame_reachMs s e).own (by decide)

/-! ## reachChars -/

@[simp] theorem reachChars_kcu (s : State) (n : Nat) : (s.reachChars n).kcu = s.kcu := (frame_reachChars s n).kcu (by decide)
@[simp] theorem reachChars_sq (s : State) (n : Nat) : (s.reachChars n).sq = s.sq := (frame_reachChars s n).sq (by decide)
@[simp] theorem reachChars_notes (s : State) (n : Nat) : (s.reachChars n).notes = s.notes := (frame_reachChars s n).notes (by decide)
@[simp] theorem reachChars_du (s : State) (n : Nat) : (s.reachChars n).du = s.du := (frame_reachChars s n).du (by decide)
@[simp] theorem reachChars_cache (s : State) (n : Nat) : (s.reachChars n).cache = s.cache := (frame_reachChars s n).cache (by decide)
@[simp] theorem reachChars_arb (s : State) (n : Nat) : (s.reachChars n).arb = s.arb := (frame_reachChars s n).arb (by decide)
@[simp] theorem reachChars_te (s : State) (n : Nat) : (s.reachChars n).te = s.te := (frame_reachChars s n).te (by decide)
@[simp] theorem reachChars_tb (s : State) (n : Nat) : (s.reachChars n).tb = s.tb := (frame_reachChars s n).tb (by decide)
@[simp] theorem reachChars_pub (s : State) (n : Nat) : (s.reachChars n).pub = s.pub := (frame_reachChars s n).pub (by decide)
@[simp] theorem reachChars_roster (s : State) (n : Nat) : (s.reachChars n).roster = s.roster := (frame_reachChars s n).roster (by decide)
@[simp] theorem reachChars_cu (s : State) (n : Nat) : (s.reachChars n).cu = s.cu := (frame_reachChars s n).cu (by decide)
@[simp] theorem reachChars_vw (s : State) (n : Nat) : (s.reachChars n).vw = s.vw := (frame_reachChars s n).vw (by decide)
@[simp] theorem reachChars_lcp (s : State) (n : Nat) : (s.reachChars n).lcp = s.lcp := (frame_reachChars s n).lcp (by decide) (by decide)
@[simp] theorem reachChars_cfg (s : State) (n : Nat) : (s.reachChars n).cfg = s.cfg := (frame_reachChars s n).cfg (by decide)
@[simp] theorem reachChars_own (s : State) (n : Nat) : (s.reachChars n).own = s.own := (frame_reachChars s n).own (by decide)

/-! ## characterEnd -/

@[simp] theorem characterEnd_kcu (s : State) (ok : Bool) : (s.characterEnd ok).kcu = s.kcu := (frame_characterEnd s ok).kcu (by decide)
@[simp] theorem characterEnd_sq (s : State) (ok : Bool) : (s.characterEnd ok).sq = s.sq := (frame_characterEnd s ok).sq (by decide)
@[simp] theorem characterEnd_notes (s : State) (ok : Bool) : (s.characterEnd ok).notes = s.notes := (frame_characterEnd s ok).notes (by decide)
@[simp] theorem characterEnd_du (s : State) (ok : Bool) : (s.characterEnd ok).du = s.du := (frame_characterEnd s ok).du (by decide)
@[simp] theorem characterEnd_cache (s : State) (ok : Bool) : (s.characterEnd ok).cache = s.cache := (frame_characterEnd s ok).cache (by decide)
@[simp] theorem characterEnd_arb (s : State) (ok : Bool) : (s.characterEnd ok).arb = s.arb := (frame_characterEnd s ok).arb (by decide)
@[simp] theorem characterEnd_te (s : State) (ok : Bool) : (s.characterEnd ok).te = s.te := (frame_characterEnd s ok).te (by decide)
@[simp] theorem characterEnd_tb (s : State) (ok : Bool) : (s.characterEnd ok).tb = s.tb := (frame_characterEnd s ok).tb (by decide)
@[simp] theorem characterEnd_pub (s : State) (ok : Bool) : (s.characterEnd ok).pub = s.pub := (frame_characterEnd s ok).pub (by decide)
@[simp] theorem characterEnd_roster (s : State) (ok : Bool) : (s.characterEnd ok).roster = s.roster := (frame_characterEnd s ok).roster (by decide)
@[simp] theorem characterEnd_cu (s : State) (ok : Bool) : (s.characterEnd ok).cu = s.cu := (frame_characterEnd s ok).cu (by decide)
@[simp] theorem characterEnd_vw (s : State) (ok : Bool) : (s.characterEnd ok).vw = s.vw := (frame_characterEnd s ok).vw (by decide)
@[simp] theorem characterEnd_lcp (s : State) (ok : Bool) : (s.characterEnd ok).lcp = s.lcp := (frame_characterEnd s ok).lcp (by decide) (by decide)
@[simp] theorem characterEnd_cfg (s : State) (ok : Bool) : (s.characterEnd ok).cfg = s.cfg := (frame_characterEnd s ok).cfg (by decide)
@[simp] theorem characterEnd_own (s : State) (ok : Bool) : (s.characterEnd ok).own = s.own := (frame_characterEnd s ok).own (by decide)

/-! ## latch -/

@[simp] theorem latch_clock (s : State) (e : Event) : (s.latch e).clock = s.clock := (frame_latch s e).clock (by decide)
@[simp] theorem latch_kcu (s : State) (e : Event) : (s.latch e).kcu = s.kcu := (frame_latch s e).kcu (by decide)
@[simp] theorem latch_sq (s : State) (e : Event) : (s.latch e).sq = s.sq := (frame_latch s e).sq (by decide)
@[simp] theorem latch_notes (s : State) (e : Event) : (s.latch e).notes = s.notes := (frame_latch s e).notes (by decide)
@[simp] theorem latch_du (s : State) (e : Event) : (s.latch e).du = s.du := (frame_latch s e).du (by decide)
@[simp] theorem latch_cache (s : State) (e : Event) : (s.latch e).cache = s.cache := (frame_latch s e).cache (by decide)
@[simp] theorem latch_arb (s : State) (e : Event) : (s.latch e).arb = s.arb := (frame_latch s e).arb (by decide)
@[simp] theorem latch_te (s : State) (e : Event) : (s.latch e).te = s.te := (frame_latch s e).te (by decide)
@[simp] theorem latch_tb (s : State) (e : Event) : (s.latch e).tb = s.tb := (frame_latch s e).tb (by decide)
@[simp] theorem latch_lnc (s : State) (e : Event) : (s.latch e).lnc = s.lnc := (frame_latch s e).lnc (by decide)
@[simp] theorem latch_pub (s : State) (e : Event) : (s.latch e).pub = s.pub := (frame_latch s e).pub (by decide)
@[simp] theorem latch_roster (s : State) (e : Event) : (s.latch e).roster = s.roster := (frame_latch s e).roster (by decide)
@[simp] theorem latch_cu (s : State) (e : Event) : (s.latch e).cu = s.cu := (frame_latch s e).cu (by decide)
@[simp] theorem latch_vw (s : State) (e : Event) : (s.latch e).vw = s.vw := (frame_latch s e).vw (by decide)
@[simp] theorem latch_sp (s : State) (e : Event) : (s.latch e).sp = s.sp := (frame_latch s e).sp (by decide)
@[simp] theorem latch_isOnline (s : State) (e : Event) : (s.latch e).lcp.online = s.lcp.online := (frame_latch s e).isOnline (by decide)
@[simp] theorem latch_config (s : State) (e : Event) : (s.latch e).lcp.config = s.lcp.config := (frame_latch s e).config (by decide)
@[simp] theorem latch_cfg (s : State) (e : Event) : (s.latch e).cfg = s.cfg := (frame_latch s e).cfg (by decide)
@[simp] theorem latch_own (s : State) (e : Event) : (s.latch e).own = s.own := (frame_latch s e).own (by decide)

/-! ## request -/

@[simp] theorem request_clock (s : State) (c : MemClass) (op : MemOp) : (s.request c op).clock = s.clock := (frame_request s c op).clock (by decide)
@[simp] theorem request_kcu (s : State) (c : MemClass) (op : MemOp) : (s.request c op).kcu = s.kcu := (frame_request s c op).kcu (by decide)
@[simp] theorem request_sq (s : State) (c : MemClass) (op : MemOp) : (s.request c op).sq = s.sq := (frame_request s c op).sq (by decide)
@[simp] theorem request_notes (s : State) (c : MemClass) (op : MemOp) : (s.request c op).notes = s.notes := (frame_request s c op).notes (by decide)
@[simp] theorem request_du (s : State) (c : MemClass) (op : MemOp) : (s.request c op).du = s.du := (frame_request s c op).du (by decide)
@[simp] theorem request_cache (s : State) (c : MemClass) (op : MemOp) : (s.request c op).cache = s.cache := (frame_request s c op).cache (by decide)
@[simp] theorem request_te (s : State) (c : MemClass) (op : MemOp) : (s.request c op).te = s.te := (frame_request s c op).te (by decide)
@[simp] theorem request_tb (s : State) (c : MemClass) (op : MemOp) : (s.request c op).tb = s.tb := (frame_request s c op).tb (by decide)
@[simp] theorem request_lnc (s : State) (c : MemClass) (op : MemOp) : (s.request c op).lnc = s.lnc := (frame_request s c op).lnc (by decide)
@[simp] theorem request_pub (s : State) (c : MemClass) (op : MemOp) : (s.request c op).pub = s.pub := (frame_request s c op).pub (by decide)
@[simp] theorem request_roster (s : State) (c : MemClass) (op : MemOp) : (s.request c op).roster = s.roster := (frame_request s c op).roster (by decide)
@[simp] theorem request_cu (s : State) (c : MemClass) (op : MemOp) : (s.request c op).cu = s.cu := (frame_request s c op).cu (by decide)
@[simp] theorem request_vw (s : State) (c : MemClass) (op : MemOp) : (s.request c op).vw = s.vw := (frame_request s c op).vw (by decide)
@[simp] theorem request_sp (s : State) (c : MemClass) (op : MemOp) : (s.request c op).sp = s.sp := (frame_request s c op).sp (by decide)
@[simp] theorem request_lcp (s : State) (c : MemClass) (op : MemOp) : (s.request c op).lcp = s.lcp := (frame_request s c op).lcp (by decide) (by decide)
@[simp] theorem request_cfg (s : State) (c : MemClass) (op : MemOp) : (s.request c op).cfg = s.cfg := (frame_request s c op).cfg (by decide)
@[simp] theorem request_own (s : State) (c : MemClass) (op : MemOp) : (s.request c op).own = s.own := (frame_request s c op).own (by decide)

/-! ## endOperation -/

@[simp] theorem endOperation_clock (s : State) (r : Request) : (s.endOperation r).clock = s.clock := (frame_endOperation s r).clock (by decide)
@[simp] theorem endOperation_kcu (s : State) (r : Request) : (s.endOperation r).kcu = s.kcu := (frame_endOperation s r).kcu (by decide)
@[simp] theorem endOperation_sq (s : State) (r : Request) : (s.endOperation r).sq = s.sq := (frame_endOperation s r).sq (by decide)
@[simp] theorem endOperation_notes (s : State) (r : Request) : (s.endOperation r).notes = s.notes := (frame_endOperation s r).notes (by decide)
@[simp] theorem endOperation_du (s : State) (r : Request) : (s.endOperation r).du = s.du := (frame_endOperation s r).du (by decide)
@[simp] theorem endOperation_cache (s : State) (r : Request) : (s.endOperation r).cache = s.cache := (frame_endOperation s r).cache (by decide)
@[simp] theorem endOperation_te (s : State) (r : Request) : (s.endOperation r).te = s.te := (frame_endOperation s r).te (by decide)
@[simp] theorem endOperation_tb (s : State) (r : Request) : (s.endOperation r).tb = s.tb := (frame_endOperation s r).tb (by decide)
@[simp] theorem endOperation_lnc (s : State) (r : Request) : (s.endOperation r).lnc = s.lnc := (frame_endOperation s r).lnc (by decide)
@[simp] theorem endOperation_pub (s : State) (r : Request) : (s.endOperation r).pub = s.pub := (frame_endOperation s r).pub (by decide)
@[simp] theorem endOperation_roster (s : State) (r : Request) : (s.endOperation r).roster = s.roster := (frame_endOperation s r).roster (by decide)
@[simp] theorem endOperation_cu (s : State) (r : Request) : (s.endOperation r).cu = s.cu := (frame_endOperation s r).cu (by decide)
@[simp] theorem endOperation_vw (s : State) (r : Request) : (s.endOperation r).vw = s.vw := (frame_endOperation s r).vw (by decide)
@[simp] theorem endOperation_sp (s : State) (r : Request) : (s.endOperation r).sp = s.sp := (frame_endOperation s r).sp (by decide)
@[simp] theorem endOperation_lcp (s : State) (r : Request) : (s.endOperation r).lcp = s.lcp := (frame_endOperation s r).lcp (by decide) (by decide)
@[simp] theorem endOperation_cfg (s : State) (r : Request) : (s.endOperation r).cfg = s.cfg := (frame_endOperation s r).cfg (by decide)
@[simp] theorem endOperation_own (s : State) (r : Request) : (s.endOperation r).own = s.own := (frame_endOperation s r).own (by decide)

/-! ## reply -/

@[simp] theorem reply_clock (s : State) (c : ReplyCode) (d : List Byte) : (s.reply c d).clock = s.clock := (frame_reply s c d).clock (by decide)
@[simp] theorem reply_kcu (s : State) (c : ReplyCode) (d : List Byte) : (s.reply c d).kcu = s.kcu := (frame_reply s c d).kcu (by decide)
@[simp] theorem reply_sq (s : State) (c : ReplyCode) (d : List Byte) : (s.reply c d).sq = s.sq := (frame_reply s c d).sq (by decide)
@[simp] theorem reply_notes (s : State) (c : ReplyCode) (d : List Byte) : (s.reply c d).notes = s.notes := (frame_reply s c d).notes (by decide)
@[simp] theorem reply_du (s : State) (c : ReplyCode) (d : List Byte) : (s.reply c d).du = s.du := (frame_reply s c d).du (by decide)
@[simp] theorem reply_cache (s : State) (c : ReplyCode) (d : List Byte) : (s.reply c d).cache = s.cache := (frame_reply s c d).cache (by decide)
@[simp] theorem reply_arb (s : State) (c : ReplyCode) (d : List Byte) : (s.reply c d).arb = s.arb := (frame_reply s c d).arb (by decide)
@[simp] theorem reply_te (s : State) (c : ReplyCode) (d : List Byte) : (s.reply c d).te = s.te := (frame_reply s c d).te (by decide)
@[simp] theorem reply_tb (s : State) (c : ReplyCode) (d : List Byte) : (s.reply c d).tb = s.tb := (frame_reply s c d).tb (by decide)
@[simp] theorem reply_lnc (s : State) (c : ReplyCode) (d : List Byte) : (s.reply c d).lnc = s.lnc := (frame_reply s c d).lnc (by decide)
@[simp] theorem reply_pub (s : State) (c : ReplyCode) (d : List Byte) : (s.reply c d).pub = s.pub := (frame_reply s c d).pub (by decide)
@[simp] theorem reply_roster (s : State) (c : ReplyCode) (d : List Byte) : (s.reply c d).roster = s.roster := (frame_reply s c d).roster (by decide)
@[simp] theorem reply_cu (s : State) (c : ReplyCode) (d : List Byte) : (s.reply c d).cu = s.cu := (frame_reply s c d).cu (by decide)
@[simp] theorem reply_vw (s : State) (c : ReplyCode) (d : List Byte) : (s.reply c d).vw = s.vw := (frame_reply s c d).vw (by decide)
@[simp] theorem reply_sp (s : State) (c : ReplyCode) (d : List Byte) : (s.reply c d).sp = s.sp := (frame_reply s c d).sp (by decide)

/-! ## taking -/

@[simp] theorem taking_clock (s : State) (c : Byte) (ps : List Byte) : (s.taking c ps).clock = s.clock := (frame_taking s c ps).clock (by decide)
@[simp] theorem taking_kcu (s : State) (c : Byte) (ps : List Byte) : (s.taking c ps).kcu = s.kcu := (frame_taking s c ps).kcu (by decide)
@[simp] theorem taking_sq (s : State) (c : Byte) (ps : List Byte) : (s.taking c ps).sq = s.sq := (frame_taking s c ps).sq (by decide)
@[simp] theorem taking_notes (s : State) (c : Byte) (ps : List Byte) : (s.taking c ps).notes = s.notes := (frame_taking s c ps).notes (by decide)
@[simp] theorem taking_du (s : State) (c : Byte) (ps : List Byte) : (s.taking c ps).du = s.du := (frame_taking s c ps).du (by decide)
@[simp] theorem taking_cache (s : State) (c : Byte) (ps : List Byte) : (s.taking c ps).cache = s.cache := (frame_taking s c ps).cache (by decide)
@[simp] theorem taking_arb (s : State) (c : Byte) (ps : List Byte) : (s.taking c ps).arb = s.arb := (frame_taking s c ps).arb (by decide)
@[simp] theorem taking_te (s : State) (c : Byte) (ps : List Byte) : (s.taking c ps).te = s.te := (frame_taking s c ps).te (by decide)
@[simp] theorem taking_tb (s : State) (c : Byte) (ps : List Byte) : (s.taking c ps).tb = s.tb := (frame_taking s c ps).tb (by decide)
@[simp] theorem taking_lnc (s : State) (c : Byte) (ps : List Byte) : (s.taking c ps).lnc = s.lnc := (frame_taking s c ps).lnc (by decide)
@[simp] theorem taking_pub (s : State) (c : Byte) (ps : List Byte) : (s.taking c ps).pub = s.pub := (frame_taking s c ps).pub (by decide)
@[simp] theorem taking_roster (s : State) (c : Byte) (ps : List Byte) : (s.taking c ps).roster = s.roster := (frame_taking s c ps).roster (by decide)
@[simp] theorem taking_cu (s : State) (c : Byte) (ps : List Byte) : (s.taking c ps).cu = s.cu := (frame_taking s c ps).cu (by decide)
@[simp] theorem taking_vw (s : State) (c : Byte) (ps : List Byte) : (s.taking c ps).vw = s.vw := (frame_taking s c ps).vw (by decide)
@[simp] theorem taking_sp (s : State) (c : Byte) (ps : List Byte) : (s.taking c ps).sp = s.sp := (frame_taking s c ps).sp (by decide)

/-! ## updateCredit -/

@[simp] theorem updateCredit_clock (s : State) : (s.updateCredit).clock = s.clock := (frame_updateCredit s).clock (by decide)
@[simp] theorem updateCredit_kcu (s : State) : (s.updateCredit).kcu = s.kcu := (frame_updateCredit s).kcu (by decide)
@[simp] theorem updateCredit_sq (s : State) : (s.updateCredit).sq = s.sq := (frame_updateCredit s).sq (by decide)
@[simp] theorem updateCredit_notes (s : State) : (s.updateCredit).notes = s.notes := (frame_updateCredit s).notes (by decide)
@[simp] theorem updateCredit_du (s : State) : (s.updateCredit).du = s.du := (frame_updateCredit s).du (by decide)
@[simp] theorem updateCredit_cache (s : State) : (s.updateCredit).cache = s.cache := (frame_updateCredit s).cache (by decide)
@[simp] theorem updateCredit_arb (s : State) : (s.updateCredit).arb = s.arb := (frame_updateCredit s).arb (by decide)
@[simp] theorem updateCredit_te (s : State) : (s.updateCredit).te = s.te := (frame_updateCredit s).te (by decide)
@[simp] theorem updateCredit_tb (s : State) : (s.updateCredit).tb = s.tb := (frame_updateCredit s).tb (by decide)
@[simp] theorem updateCredit_lnc (s : State) : (s.updateCredit).lnc = s.lnc := (frame_updateCredit s).lnc (by decide)
@[simp] theorem updateCredit_roster (s : State) : (s.updateCredit).roster = s.roster := (frame_updateCredit s).roster (by decide)
@[simp] theorem updateCredit_cu (s : State) : (s.updateCredit).cu = s.cu := (frame_updateCredit s).cu (by decide)
@[simp] theorem updateCredit_vw (s : State) : (s.updateCredit).vw = s.vw := (frame_updateCredit s).vw (by decide)
@[simp] theorem updateCredit_sp (s : State) : (s.updateCredit).sp = s.sp := (frame_updateCredit s).sp (by decide)
@[simp] theorem updateCredit_lcp (s : State) : (s.updateCredit).lcp = s.lcp := (frame_updateCredit s).lcp (by decide) (by decide)
@[simp] theorem updateCredit_cfg (s : State) : (s.updateCredit).cfg = s.cfg := (frame_updateCredit s).cfg (by decide)
@[simp] theorem updateCredit_own (s : State) : (s.updateCredit).own = s.own := (frame_updateCredit s).own (by decide)

/-! ## choose -/

@[simp] theorem choose_clock (s : State) : (s.choose).clock = s.clock := (frame_choose s).clock (by decide)
@[simp] theorem choose_kcu (s : State) : (s.choose).kcu = s.kcu := (frame_choose s).kcu (by decide)
@[simp] theorem choose_sq (s : State) : (s.choose).sq = s.sq := (frame_choose s).sq (by decide)
@[simp] theorem choose_notes (s : State) : (s.choose).notes = s.notes := (frame_choose s).notes (by decide)
@[simp] theorem choose_du (s : State) : (s.choose).du = s.du := (frame_choose s).du (by decide)
@[simp] theorem choose_cache (s : State) : (s.choose).cache = s.cache := (frame_choose s).cache (by decide)
@[simp] theorem choose_arb (s : State) : (s.choose).arb = s.arb := (frame_choose s).arb (by decide)
@[simp] theorem choose_te (s : State) : (s.choose).te = s.te := (frame_choose s).te (by decide)
@[simp] theorem choose_tb (s : State) : (s.choose).tb = s.tb := (frame_choose s).tb (by decide)
@[simp] theorem choose_roster (s : State) : (s.choose).roster = s.roster := (frame_choose s).roster (by decide)
@[simp] theorem choose_cu (s : State) : (s.choose).cu = s.cu := (frame_choose s).cu (by decide)
@[simp] theorem choose_vw (s : State) : (s.choose).vw = s.vw := (frame_choose s).vw (by decide)
@[simp] theorem choose_sp (s : State) : (s.choose).sp = s.sp := (frame_choose s).sp (by decide)
@[simp] theorem choose_lcp (s : State) : (s.choose).lcp = s.lcp := (frame_choose s).lcp (by decide) (by decide)
@[simp] theorem choose_cfg (s : State) : (s.choose).cfg = s.cfg := (frame_choose s).cfg (by decide)
@[simp] theorem choose_own (s : State) : (s.choose).own = s.own := (frame_choose s).own (by decide)

/-! ## compose -/

@[simp] theorem compose_clock (s : State) : (s.compose).clock = s.clock := (frame_compose s).clock (by decide)
@[simp] theorem compose_kcu (s : State) : (s.compose).kcu = s.kcu := (frame_compose s).kcu (by decide)
@[simp] theorem compose_sq (s : State) : (s.compose).sq = s.sq := (frame_compose s).sq (by decide)
@[simp] theorem compose_notes (s : State) : (s.compose).notes = s.notes := (frame_compose s).notes (by decide)
@[simp] theorem compose_du (s : State) : (s.compose).du = s.du := (frame_compose s).du (by decide)
@[simp] theorem compose_cache (s : State) : (s.compose).cache = s.cache := (frame_compose s).cache (by decide)
@[simp] theorem compose_arb (s : State) : (s.compose).arb = s.arb := (frame_compose s).arb (by decide)
@[simp] theorem compose_te (s : State) : (s.compose).te = s.te := (frame_compose s).te (by decide)
@[simp] theorem compose_tb (s : State) : (s.compose).tb = s.tb := (frame_compose s).tb (by decide)
@[simp] theorem compose_lnc (s : State) : (s.compose).lnc = s.lnc := (frame_compose s).lnc (by decide)
@[simp] theorem compose_pub (s : State) : (s.compose).pub = s.pub := (frame_compose s).pub (by decide)
@[simp] theorem compose_roster (s : State) : (s.compose).roster = s.roster := (frame_compose s).roster (by decide)
@[simp] theorem compose_cu (s : State) : (s.compose).cu = s.cu := (frame_compose s).cu (by decide)
@[simp] theorem compose_vw (s : State) : (s.compose).vw = s.vw := (frame_compose s).vw (by decide)
@[simp] theorem compose_lcp (s : State) : (s.compose).lcp = s.lcp := (frame_compose s).lcp (by decide) (by decide)
@[simp] theorem compose_cfg (s : State) : (s.compose).cfg = s.cfg := (frame_compose s).cfg (by decide)
@[simp] theorem compose_own (s : State) : (s.compose).own = s.own := (frame_compose s).own (by decide)

/-! ## stationReady -/

@[simp] theorem stationReady_clock (s : State) : (s.stationReady).clock = s.clock := (frame_stationReady s).clock (by decide)
@[simp] theorem stationReady_kcu (s : State) : (s.stationReady).kcu = s.kcu := (frame_stationReady s).kcu (by decide)
@[simp] theorem stationReady_sq (s : State) : (s.stationReady).sq = s.sq := (frame_stationReady s).sq (by decide)
@[simp] theorem stationReady_notes (s : State) : (s.stationReady).notes = s.notes := (frame_stationReady s).notes (by decide)
@[simp] theorem stationReady_du (s : State) : (s.stationReady).du = s.du := (frame_stationReady s).du (by decide)
@[simp] theorem stationReady_cache (s : State) : (s.stationReady).cache = s.cache := (frame_stationReady s).cache (by decide)
@[simp] theorem stationReady_arb (s : State) : (s.stationReady).arb = s.arb := (frame_stationReady s).arb (by decide)
@[simp] theorem stationReady_te (s : State) : (s.stationReady).te = s.te := (frame_stationReady s).te (by decide)
@[simp] theorem stationReady_tb (s : State) : (s.stationReady).tb = s.tb := (frame_stationReady s).tb (by decide)
@[simp] theorem stationReady_lnc (s : State) : (s.stationReady).lnc = s.lnc := (frame_stationReady s).lnc (by decide)
@[simp] theorem stationReady_roster (s : State) : (s.stationReady).roster = s.roster := (frame_stationReady s).roster (by decide)
@[simp] theorem stationReady_cu (s : State) : (s.stationReady).cu = s.cu := (frame_stationReady s).cu (by decide)
@[simp] theorem stationReady_vw (s : State) : (s.stationReady).vw = s.vw := (frame_stationReady s).vw (by decide)
@[simp] theorem stationReady_sp (s : State) : (s.stationReady).sp = s.sp := (frame_stationReady s).sp (by decide)
@[simp] theorem stationReady_lcp (s : State) : (s.stationReady).lcp = s.lcp := (frame_stationReady s).lcp (by decide) (by decide)
@[simp] theorem stationReady_cfg (s : State) : (s.stationReady).cfg = s.cfg := (frame_stationReady s).cfg (by decide)
@[simp] theorem stationReady_own (s : State) : (s.stationReady).own = s.own := (frame_stationReady s).own (by decide)

/-! ## buildTail -/

@[simp] theorem buildTail_clock (s : State) : (s.buildTail).clock = s.clock := (frame_buildTail s).clock (by decide)
@[simp] theorem buildTail_kcu (s : State) : (s.buildTail).kcu = s.kcu := (frame_buildTail s).kcu (by decide)
@[simp] theorem buildTail_sq (s : State) : (s.buildTail).sq = s.sq := (frame_buildTail s).sq (by decide)
@[simp] theorem buildTail_notes (s : State) : (s.buildTail).notes = s.notes := (frame_buildTail s).notes (by decide)
@[simp] theorem buildTail_du (s : State) : (s.buildTail).du = s.du := (frame_buildTail s).du (by decide)
@[simp] theorem buildTail_cache (s : State) : (s.buildTail).cache = s.cache := (frame_buildTail s).cache (by decide)
@[simp] theorem buildTail_arb (s : State) : (s.buildTail).arb = s.arb := (frame_buildTail s).arb (by decide)
@[simp] theorem buildTail_te (s : State) : (s.buildTail).te = s.te := (frame_buildTail s).te (by decide)
@[simp] theorem buildTail_tb (s : State) : (s.buildTail).tb = s.tb := (frame_buildTail s).tb (by decide)
@[simp] theorem buildTail_lnc (s : State) : (s.buildTail).lnc = s.lnc := (frame_buildTail s).lnc (by decide)
@[simp] theorem buildTail_roster (s : State) : (s.buildTail).roster = s.roster := (frame_buildTail s).roster (by decide)
@[simp] theorem buildTail_cu (s : State) : (s.buildTail).cu = s.cu := (frame_buildTail s).cu (by decide)
@[simp] theorem buildTail_vw (s : State) : (s.buildTail).vw = s.vw := (frame_buildTail s).vw (by decide)
@[simp] theorem buildTail_sp (s : State) : (s.buildTail).sp = s.sp := (frame_buildTail s).sp (by decide)
@[simp] theorem buildTail_lcp (s : State) : (s.buildTail).lcp = s.lcp := (frame_buildTail s).lcp (by decide) (by decide)
@[simp] theorem buildTail_cfg (s : State) : (s.buildTail).cfg = s.cfg := (frame_buildTail s).cfg (by decide)
@[simp] theorem buildTail_own (s : State) : (s.buildTail).own = s.own := (frame_buildTail s).own (by decide)

/-! ## reshare -/

@[simp] theorem reshare_clock (s : State) : (s.reshare).clock = s.clock := (frame_reshare s).clock (by decide)
@[simp] theorem reshare_kcu (s : State) : (s.reshare).kcu = s.kcu := (frame_reshare s).kcu (by decide)
@[simp] theorem reshare_sq (s : State) : (s.reshare).sq = s.sq := (frame_reshare s).sq (by decide)
@[simp] theorem reshare_notes (s : State) : (s.reshare).notes = s.notes := (frame_reshare s).notes (by decide)
@[simp] theorem reshare_du (s : State) : (s.reshare).du = s.du := (frame_reshare s).du (by decide)
@[simp] theorem reshare_cache (s : State) : (s.reshare).cache = s.cache := (frame_reshare s).cache (by decide)
@[simp] theorem reshare_arb (s : State) : (s.reshare).arb = s.arb := (frame_reshare s).arb (by decide)
@[simp] theorem reshare_te (s : State) : (s.reshare).te = s.te := (frame_reshare s).te (by decide)
@[simp] theorem reshare_tb (s : State) : (s.reshare).tb = s.tb := (frame_reshare s).tb (by decide)
@[simp] theorem reshare_lnc (s : State) : (s.reshare).lnc = s.lnc := (frame_reshare s).lnc (by decide)
@[simp] theorem reshare_roster (s : State) : (s.reshare).roster = s.roster := (frame_reshare s).roster (by decide)
@[simp] theorem reshare_cu (s : State) : (s.reshare).cu = s.cu := (frame_reshare s).cu (by decide)
@[simp] theorem reshare_vw (s : State) : (s.reshare).vw = s.vw := (frame_reshare s).vw (by decide)
@[simp] theorem reshare_sp (s : State) : (s.reshare).sp = s.sp := (frame_reshare s).sp (by decide)
@[simp] theorem reshare_lcp (s : State) : (s.reshare).lcp = s.lcp := (frame_reshare s).lcp (by decide) (by decide)
@[simp] theorem reshare_cfg (s : State) : (s.reshare).cfg = s.cfg := (frame_reshare s).cfg (by decide)
@[simp] theorem reshare_own (s : State) : (s.reshare).own = s.own := (frame_reshare s).own (by decide)

/-! ## reshareIf -/

@[simp] theorem reshareIf_clock (s : State) (c : Bool) : (s.reshareIf c).clock = s.clock := (frame_reshareIf s c).clock (by decide)
@[simp] theorem reshareIf_kcu (s : State) (c : Bool) : (s.reshareIf c).kcu = s.kcu := (frame_reshareIf s c).kcu (by decide)
@[simp] theorem reshareIf_sq (s : State) (c : Bool) : (s.reshareIf c).sq = s.sq := (frame_reshareIf s c).sq (by decide)
@[simp] theorem reshareIf_notes (s : State) (c : Bool) : (s.reshareIf c).notes = s.notes := (frame_reshareIf s c).notes (by decide)
@[simp] theorem reshareIf_du (s : State) (c : Bool) : (s.reshareIf c).du = s.du := (frame_reshareIf s c).du (by decide)
@[simp] theorem reshareIf_cache (s : State) (c : Bool) : (s.reshareIf c).cache = s.cache := (frame_reshareIf s c).cache (by decide)
@[simp] theorem reshareIf_arb (s : State) (c : Bool) : (s.reshareIf c).arb = s.arb := (frame_reshareIf s c).arb (by decide)
@[simp] theorem reshareIf_te (s : State) (c : Bool) : (s.reshareIf c).te = s.te := (frame_reshareIf s c).te (by decide)
@[simp] theorem reshareIf_tb (s : State) (c : Bool) : (s.reshareIf c).tb = s.tb := (frame_reshareIf s c).tb (by decide)
@[simp] theorem reshareIf_lnc (s : State) (c : Bool) : (s.reshareIf c).lnc = s.lnc := (frame_reshareIf s c).lnc (by decide)
@[simp] theorem reshareIf_roster (s : State) (c : Bool) : (s.reshareIf c).roster = s.roster := (frame_reshareIf s c).roster (by decide)
@[simp] theorem reshareIf_cu (s : State) (c : Bool) : (s.reshareIf c).cu = s.cu := (frame_reshareIf s c).cu (by decide)
@[simp] theorem reshareIf_vw (s : State) (c : Bool) : (s.reshareIf c).vw = s.vw := (frame_reshareIf s c).vw (by decide)
@[simp] theorem reshareIf_sp (s : State) (c : Bool) : (s.reshareIf c).sp = s.sp := (frame_reshareIf s c).sp (by decide)
@[simp] theorem reshareIf_lcp (s : State) (c : Bool) : (s.reshareIf c).lcp = s.lcp := (frame_reshareIf s c).lcp (by decide) (by decide)
@[simp] theorem reshareIf_cfg (s : State) (c : Bool) : (s.reshareIf c).cfg = s.cfg := (frame_reshareIf s c).cfg (by decide)
@[simp] theorem reshareIf_own (s : State) (c : Bool) : (s.reshareIf c).own = s.own := (frame_reshareIf s c).own (by decide)

/-! ## follow -/

@[simp] theorem follow_clock (s : State) : (s.follow).clock = s.clock := (frame_follow s).clock (by decide)
@[simp] theorem follow_kcu (s : State) : (s.follow).kcu = s.kcu := (frame_follow s).kcu (by decide)
@[simp] theorem follow_sq (s : State) : (s.follow).sq = s.sq := (frame_follow s).sq (by decide)
@[simp] theorem follow_notes (s : State) : (s.follow).notes = s.notes := (frame_follow s).notes (by decide)
@[simp] theorem follow_du (s : State) : (s.follow).du = s.du := (frame_follow s).du (by decide)
@[simp] theorem follow_cache (s : State) : (s.follow).cache = s.cache := (frame_follow s).cache (by decide)
@[simp] theorem follow_arb (s : State) : (s.follow).arb = s.arb := (frame_follow s).arb (by decide)
@[simp] theorem follow_te (s : State) : (s.follow).te = s.te := (frame_follow s).te (by decide)
@[simp] theorem follow_tb (s : State) : (s.follow).tb = s.tb := (frame_follow s).tb (by decide)
@[simp] theorem follow_lnc (s : State) : (s.follow).lnc = s.lnc := (frame_follow s).lnc (by decide)
@[simp] theorem follow_pub (s : State) : (s.follow).pub = s.pub := (frame_follow s).pub (by decide)
@[simp] theorem follow_roster (s : State) : (s.follow).roster = s.roster := (frame_follow s).roster (by decide)
@[simp] theorem follow_cu (s : State) : (s.follow).cu = s.cu := (frame_follow s).cu (by decide)
@[simp] theorem follow_sp (s : State) : (s.follow).sp = s.sp := (frame_follow s).sp (by decide)
@[simp] theorem follow_isOnline (s : State) : (s.follow).lcp.online = s.lcp.online := (frame_follow s).isOnline (by decide)
@[simp] theorem follow_config (s : State) : (s.follow).lcp.config = s.lcp.config := (frame_follow s).config (by decide)
@[simp] theorem follow_cfg (s : State) : (s.follow).cfg = s.cfg := (frame_follow s).cfg (by decide)
@[simp] theorem follow_own (s : State) : (s.follow).own = s.own := (frame_follow s).own (by decide)

/-! ## setReach -/

@[simp] theorem setReach_clock (s : State) (n k : Nat) : (s.setReach n k).clock = s.clock := (frame_setReach s n k).clock (by decide)
@[simp] theorem setReach_kcu (s : State) (n k : Nat) : (s.setReach n k).kcu = s.kcu := (frame_setReach s n k).kcu (by decide)
@[simp] theorem setReach_sq (s : State) (n k : Nat) : (s.setReach n k).sq = s.sq := (frame_setReach s n k).sq (by decide)
@[simp] theorem setReach_notes (s : State) (n k : Nat) : (s.setReach n k).notes = s.notes := (frame_setReach s n k).notes (by decide)
@[simp] theorem setReach_du (s : State) (n k : Nat) : (s.setReach n k).du = s.du := (frame_setReach s n k).du (by decide)
@[simp] theorem setReach_cache (s : State) (n k : Nat) : (s.setReach n k).cache = s.cache := (frame_setReach s n k).cache (by decide)
@[simp] theorem setReach_arb (s : State) (n k : Nat) : (s.setReach n k).arb = s.arb := (frame_setReach s n k).arb (by decide)
@[simp] theorem setReach_te (s : State) (n k : Nat) : (s.setReach n k).te = s.te := (frame_setReach s n k).te (by decide)
@[simp] theorem setReach_tb (s : State) (n k : Nat) : (s.setReach n k).tb = s.tb := (frame_setReach s n k).tb (by decide)
@[simp] theorem setReach_lnc (s : State) (n k : Nat) : (s.setReach n k).lnc = s.lnc := (frame_setReach s n k).lnc (by decide)
@[simp] theorem setReach_pub (s : State) (n k : Nat) : (s.setReach n k).pub = s.pub := (frame_setReach s n k).pub (by decide)
@[simp] theorem setReach_roster (s : State) (n k : Nat) : (s.setReach n k).roster = s.roster := (frame_setReach s n k).roster (by decide)
@[simp] theorem setReach_cu (s : State) (n k : Nat) : (s.setReach n k).cu = s.cu := (frame_setReach s n k).cu (by decide)
@[simp] theorem setReach_sp (s : State) (n k : Nat) : (s.setReach n k).sp = s.sp := (frame_setReach s n k).sp (by decide)
@[simp] theorem setReach_lcp (s : State) (n k : Nat) : (s.setReach n k).lcp = s.lcp := (frame_setReach s n k).lcp (by decide) (by decide)
@[simp] theorem setReach_cfg (s : State) (n k : Nat) : (s.setReach n k).cfg = s.cfg := (frame_setReach s n k).cfg (by decide)
@[simp] theorem setReach_own (s : State) (n k : Nat) : (s.setReach n k).own = s.own := (frame_setReach s n k).own (by decide)

/-! ## fence -/

@[simp] theorem fence_clock (s : State) (f : FenceScope) : (s.fence f).clock = s.clock := (frame_fence s f).clock (by decide)
@[simp] theorem fence_kcu (s : State) (f : FenceScope) : (s.fence f).kcu = s.kcu := (frame_fence s f).kcu (by decide)
@[simp] theorem fence_sq (s : State) (f : FenceScope) : (s.fence f).sq = s.sq := (frame_fence s f).sq (by decide)
@[simp] theorem fence_notes (s : State) (f : FenceScope) : (s.fence f).notes = s.notes := (frame_fence s f).notes (by decide)
@[simp] theorem fence_du (s : State) (f : FenceScope) : (s.fence f).du = s.du := (frame_fence s f).du (by decide)
@[simp] theorem fence_arb (s : State) (f : FenceScope) : (s.fence f).arb = s.arb := (frame_fence s f).arb (by decide)
@[simp] theorem fence_tb (s : State) (f : FenceScope) : (s.fence f).tb = s.tb := (frame_fence s f).tb (by decide)
@[simp] theorem fence_lnc (s : State) (f : FenceScope) : (s.fence f).lnc = s.lnc := (frame_fence s f).lnc (by decide)
@[simp] theorem fence_pub (s : State) (f : FenceScope) : (s.fence f).pub = s.pub := (frame_fence s f).pub (by decide)
@[simp] theorem fence_roster (s : State) (f : FenceScope) : (s.fence f).roster = s.roster := (frame_fence s f).roster (by decide)
@[simp] theorem fence_cu (s : State) (f : FenceScope) : (s.fence f).cu = s.cu := (frame_fence s f).cu (by decide)
@[simp] theorem fence_vw (s : State) (f : FenceScope) : (s.fence f).vw = s.vw := (frame_fence s f).vw (by decide)
@[simp] theorem fence_sp (s : State) (f : FenceScope) : (s.fence f).sp = s.sp := (frame_fence s f).sp (by decide)
@[simp] theorem fence_lcp (s : State) (f : FenceScope) : (s.fence f).lcp = s.lcp := (frame_fence s f).lcp (by decide) (by decide)
@[simp] theorem fence_cfg (s : State) (f : FenceScope) : (s.fence f).cfg = s.cfg := (frame_fence s f).cfg (by decide)
@[simp] theorem fence_own (s : State) (f : FenceScope) : (s.fence f).own = s.own := (frame_fence s f).own (by decide)

/-! ## raiseGeneration -/

@[simp] theorem raiseGeneration_clock (s : State) : (s.raiseGeneration).clock = s.clock := (frame_raiseGeneration s).clock (by decide)
@[simp] theorem raiseGeneration_kcu (s : State) : (s.raiseGeneration).kcu = s.kcu := (frame_raiseGeneration s).kcu (by decide)
@[simp] theorem raiseGeneration_sq (s : State) : (s.raiseGeneration).sq = s.sq := (frame_raiseGeneration s).sq (by decide)
@[simp] theorem raiseGeneration_notes (s : State) : (s.raiseGeneration).notes = s.notes := (frame_raiseGeneration s).notes (by decide)
@[simp] theorem raiseGeneration_cache (s : State) : (s.raiseGeneration).cache = s.cache := (frame_raiseGeneration s).cache (by decide)
@[simp] theorem raiseGeneration_arb (s : State) : (s.raiseGeneration).arb = s.arb := (frame_raiseGeneration s).arb (by decide)
@[simp] theorem raiseGeneration_tb (s : State) : (s.raiseGeneration).tb = s.tb := (frame_raiseGeneration s).tb (by decide)
@[simp] theorem raiseGeneration_lnc (s : State) : (s.raiseGeneration).lnc = s.lnc := (frame_raiseGeneration s).lnc (by decide)
@[simp] theorem raiseGeneration_pub (s : State) : (s.raiseGeneration).pub = s.pub := (frame_raiseGeneration s).pub (by decide)
@[simp] theorem raiseGeneration_roster (s : State) : (s.raiseGeneration).roster = s.roster := (frame_raiseGeneration s).roster (by decide)
@[simp] theorem raiseGeneration_cu (s : State) : (s.raiseGeneration).cu = s.cu := (frame_raiseGeneration s).cu (by decide)
@[simp] theorem raiseGeneration_vw (s : State) : (s.raiseGeneration).vw = s.vw := (frame_raiseGeneration s).vw (by decide)
@[simp] theorem raiseGeneration_sp (s : State) : (s.raiseGeneration).sp = s.sp := (frame_raiseGeneration s).sp (by decide)
@[simp] theorem raiseGeneration_lcp (s : State) : (s.raiseGeneration).lcp = s.lcp := (frame_raiseGeneration s).lcp (by decide) (by decide)
@[simp] theorem raiseGeneration_cfg (s : State) : (s.raiseGeneration).cfg = s.cfg := (frame_raiseGeneration s).cfg (by decide)
@[simp] theorem raiseGeneration_own (s : State) : (s.raiseGeneration).own = s.own := (frame_raiseGeneration s).own (by decide)

/-! ## setCustody -/

@[simp] theorem setCustody_clock (s : State) (c : CustodyState) : (s.setCustody c).clock = s.clock := (frame_setCustody s c).clock (by decide)
@[simp] theorem setCustody_kcu (s : State) (c : CustodyState) : (s.setCustody c).kcu = s.kcu := (frame_setCustody s c).kcu (by decide)
@[simp] theorem setCustody_sq (s : State) (c : CustodyState) : (s.setCustody c).sq = s.sq := (frame_setCustody s c).sq (by decide)
@[simp] theorem setCustody_notes (s : State) (c : CustodyState) : (s.setCustody c).notes = s.notes := (frame_setCustody s c).notes (by decide)
@[simp] theorem setCustody_du (s : State) (c : CustodyState) : (s.setCustody c).du = s.du := (frame_setCustody s c).du (by decide)
@[simp] theorem setCustody_cache (s : State) (c : CustodyState) : (s.setCustody c).cache = s.cache := (frame_setCustody s c).cache (by decide)
@[simp] theorem setCustody_arb (s : State) (c : CustodyState) : (s.setCustody c).arb = s.arb := (frame_setCustody s c).arb (by decide)
@[simp] theorem setCustody_te (s : State) (c : CustodyState) : (s.setCustody c).te = s.te := (frame_setCustody s c).te (by decide)
@[simp] theorem setCustody_tb (s : State) (c : CustodyState) : (s.setCustody c).tb = s.tb := (frame_setCustody s c).tb (by decide)
@[simp] theorem setCustody_lnc (s : State) (c : CustodyState) : (s.setCustody c).lnc = s.lnc := (frame_setCustody s c).lnc (by decide)
@[simp] theorem setCustody_roster (s : State) (c : CustodyState) : (s.setCustody c).roster = s.roster := (frame_setCustody s c).roster (by decide)
@[simp] theorem setCustody_sp (s : State) (c : CustodyState) : (s.setCustody c).sp = s.sp := (frame_setCustody s c).sp (by decide)
@[simp] theorem setCustody_isOnline (s : State) (c : CustodyState) : (s.setCustody c).lcp.online = s.lcp.online := (frame_setCustody s c).isOnline (by decide)
@[simp] theorem setCustody_config (s : State) (c : CustodyState) : (s.setCustody c).lcp.config = s.lcp.config := (frame_setCustody s c).config (by decide)
@[simp] theorem setCustody_cfg (s : State) (c : CustodyState) : (s.setCustody c).cfg = s.cfg := (frame_setCustody s c).cfg (by decide)
@[simp] theorem setCustody_own (s : State) (c : CustodyState) : (s.setCustody c).own = s.own := (frame_setCustody s c).own (by decide)

/-! ## tellCustody -/

@[simp] theorem tellCustody_clock (s : State) : (s.tellCustody).clock = s.clock := (frame_tellCustody s).clock (by decide)
@[simp] theorem tellCustody_kcu (s : State) : (s.tellCustody).kcu = s.kcu := (frame_tellCustody s).kcu (by decide)
@[simp] theorem tellCustody_sq (s : State) : (s.tellCustody).sq = s.sq := (frame_tellCustody s).sq (by decide)
@[simp] theorem tellCustody_notes (s : State) : (s.tellCustody).notes = s.notes := (frame_tellCustody s).notes (by decide)
@[simp] theorem tellCustody_du (s : State) : (s.tellCustody).du = s.du := (frame_tellCustody s).du (by decide)
@[simp] theorem tellCustody_cache (s : State) : (s.tellCustody).cache = s.cache := (frame_tellCustody s).cache (by decide)
@[simp] theorem tellCustody_arb (s : State) : (s.tellCustody).arb = s.arb := (frame_tellCustody s).arb (by decide)
@[simp] theorem tellCustody_te (s : State) : (s.tellCustody).te = s.te := (frame_tellCustody s).te (by decide)
@[simp] theorem tellCustody_tb (s : State) : (s.tellCustody).tb = s.tb := (frame_tellCustody s).tb (by decide)
@[simp] theorem tellCustody_lnc (s : State) : (s.tellCustody).lnc = s.lnc := (frame_tellCustody s).lnc (by decide)
@[simp] theorem tellCustody_roster (s : State) : (s.tellCustody).roster = s.roster := (frame_tellCustody s).roster (by decide)
@[simp] theorem tellCustody_cu (s : State) : (s.tellCustody).cu = s.cu := (frame_tellCustody s).cu (by decide)
@[simp] theorem tellCustody_vw (s : State) : (s.tellCustody).vw = s.vw := (frame_tellCustody s).vw (by decide)
@[simp] theorem tellCustody_sp (s : State) : (s.tellCustody).sp = s.sp := (frame_tellCustody s).sp (by decide)
@[simp] theorem tellCustody_lcp (s : State) : (s.tellCustody).lcp = s.lcp := (frame_tellCustody s).lcp (by decide) (by decide)
@[simp] theorem tellCustody_cfg (s : State) : (s.tellCustody).cfg = s.cfg := (frame_tellCustody s).cfg (by decide)
@[simp] theorem tellCustody_own (s : State) : (s.tellCustody).own = s.own := (frame_tellCustody s).own (by decide)

/-! ## reportCustody -/

@[simp] theorem reportCustody_clock (s : State) : (s.reportCustody).clock = s.clock := (frame_reportCustody s).clock (by decide)
@[simp] theorem reportCustody_kcu (s : State) : (s.reportCustody).kcu = s.kcu := (frame_reportCustody s).kcu (by decide)
@[simp] theorem reportCustody_sq (s : State) : (s.reportCustody).sq = s.sq := (frame_reportCustody s).sq (by decide)
@[simp] theorem reportCustody_notes (s : State) : (s.reportCustody).notes = s.notes := (frame_reportCustody s).notes (by decide)
@[simp] theorem reportCustody_du (s : State) : (s.reportCustody).du = s.du := (frame_reportCustody s).du (by decide)
@[simp] theorem reportCustody_cache (s : State) : (s.reportCustody).cache = s.cache := (frame_reportCustody s).cache (by decide)
@[simp] theorem reportCustody_arb (s : State) : (s.reportCustody).arb = s.arb := (frame_reportCustody s).arb (by decide)
@[simp] theorem reportCustody_te (s : State) : (s.reportCustody).te = s.te := (frame_reportCustody s).te (by decide)
@[simp] theorem reportCustody_tb (s : State) : (s.reportCustody).tb = s.tb := (frame_reportCustody s).tb (by decide)
@[simp] theorem reportCustody_lnc (s : State) : (s.reportCustody).lnc = s.lnc := (frame_reportCustody s).lnc (by decide)
@[simp] theorem reportCustody_roster (s : State) : (s.reportCustody).roster = s.roster := (frame_reportCustody s).roster (by decide)
@[simp] theorem reportCustody_cu (s : State) : (s.reportCustody).cu = s.cu := (frame_reportCustody s).cu (by decide)
@[simp] theorem reportCustody_sp (s : State) : (s.reportCustody).sp = s.sp := (frame_reportCustody s).sp (by decide)
@[simp] theorem reportCustody_isOnline (s : State) : (s.reportCustody).lcp.online = s.lcp.online := (frame_reportCustody s).isOnline (by decide)
@[simp] theorem reportCustody_config (s : State) : (s.reportCustody).lcp.config = s.lcp.config := (frame_reportCustody s).config (by decide)
@[simp] theorem reportCustody_cfg (s : State) : (s.reportCustody).cfg = s.cfg := (frame_reportCustody s).cfg (by decide)
@[simp] theorem reportCustody_own (s : State) : (s.reportCustody).own = s.own := (frame_reportCustody s).own (by decide)

/-! ## commitAllLines -/

@[simp] theorem commitAllLines_clock (s : State) : (s.commitAllLines).clock = s.clock := (frame_commitAllLines s).clock (by decide)
@[simp] theorem commitAllLines_kcu (s : State) : (s.commitAllLines).kcu = s.kcu := (frame_commitAllLines s).kcu (by decide)
@[simp] theorem commitAllLines_sq (s : State) : (s.commitAllLines).sq = s.sq := (frame_commitAllLines s).sq (by decide)
@[simp] theorem commitAllLines_notes (s : State) : (s.commitAllLines).notes = s.notes := (frame_commitAllLines s).notes (by decide)
@[simp] theorem commitAllLines_du (s : State) : (s.commitAllLines).du = s.du := (frame_commitAllLines s).du (by decide)
@[simp] theorem commitAllLines_cache (s : State) : (s.commitAllLines).cache = s.cache := (frame_commitAllLines s).cache (by decide)
@[simp] theorem commitAllLines_arb (s : State) : (s.commitAllLines).arb = s.arb := (frame_commitAllLines s).arb (by decide)
@[simp] theorem commitAllLines_te (s : State) : (s.commitAllLines).te = s.te := (frame_commitAllLines s).te (by decide)
@[simp] theorem commitAllLines_lnc (s : State) : (s.commitAllLines).lnc = s.lnc := (frame_commitAllLines s).lnc (by decide)
@[simp] theorem commitAllLines_roster (s : State) : (s.commitAllLines).roster = s.roster := (frame_commitAllLines s).roster (by decide)
@[simp] theorem commitAllLines_cu (s : State) : (s.commitAllLines).cu = s.cu := (frame_commitAllLines s).cu (by decide)
@[simp] theorem commitAllLines_sp (s : State) : (s.commitAllLines).sp = s.sp := (frame_commitAllLines s).sp (by decide)
@[simp] theorem commitAllLines_isOnline (s : State) : (s.commitAllLines).lcp.online = s.lcp.online := (frame_commitAllLines s).isOnline (by decide)
@[simp] theorem commitAllLines_config (s : State) : (s.commitAllLines).lcp.config = s.lcp.config := (frame_commitAllLines s).config (by decide)
@[simp] theorem commitAllLines_cfg (s : State) : (s.commitAllLines).cfg = s.cfg := (frame_commitAllLines s).cfg (by decide)
@[simp] theorem commitAllLines_own (s : State) : (s.commitAllLines).own = s.own := (frame_commitAllLines s).own (by decide)

/-! ## setUnits -/

@[simp] theorem setUnits_clock (s : State) (us : List TextUnit) : (s.setUnits us).clock = s.clock := (frame_setUnits s us).clock (by decide)
@[simp] theorem setUnits_kcu (s : State) (us : List TextUnit) : (s.setUnits us).kcu = s.kcu := (frame_setUnits s us).kcu (by decide)
@[simp] theorem setUnits_sq (s : State) (us : List TextUnit) : (s.setUnits us).sq = s.sq := (frame_setUnits s us).sq (by decide)
@[simp] theorem setUnits_notes (s : State) (us : List TextUnit) : (s.setUnits us).notes = s.notes := (frame_setUnits s us).notes (by decide)
@[simp] theorem setUnits_du (s : State) (us : List TextUnit) : (s.setUnits us).du = s.du := (frame_setUnits s us).du (by decide)
@[simp] theorem setUnits_cache (s : State) (us : List TextUnit) : (s.setUnits us).cache = s.cache := (frame_setUnits s us).cache (by decide)
@[simp] theorem setUnits_arb (s : State) (us : List TextUnit) : (s.setUnits us).arb = s.arb := (frame_setUnits s us).arb (by decide)
@[simp] theorem setUnits_te (s : State) (us : List TextUnit) : (s.setUnits us).te = s.te := (frame_setUnits s us).te (by decide)
@[simp] theorem setUnits_lnc (s : State) (us : List TextUnit) : (s.setUnits us).lnc = s.lnc := (frame_setUnits s us).lnc (by decide)
@[simp] theorem setUnits_roster (s : State) (us : List TextUnit) : (s.setUnits us).roster = s.roster := (frame_setUnits s us).roster (by decide)
@[simp] theorem setUnits_cu (s : State) (us : List TextUnit) : (s.setUnits us).cu = s.cu := (frame_setUnits s us).cu (by decide)
@[simp] theorem setUnits_vw (s : State) (us : List TextUnit) : (s.setUnits us).vw = s.vw := (frame_setUnits s us).vw (by decide)
@[simp] theorem setUnits_sp (s : State) (us : List TextUnit) : (s.setUnits us).sp = s.sp := (frame_setUnits s us).sp (by decide)
@[simp] theorem setUnits_lcp (s : State) (us : List TextUnit) : (s.setUnits us).lcp = s.lcp := (frame_setUnits s us).lcp (by decide) (by decide)
@[simp] theorem setUnits_cfg (s : State) (us : List TextUnit) : (s.setUnits us).cfg = s.cfg := (frame_setUnits s us).cfg (by decide)
@[simp] theorem setUnits_own (s : State) (us : List TextUnit) : (s.setUnits us).own = s.own := (frame_setUnits s us).own (by decide)

/-! ## emitUnit -/

@[simp] theorem emitUnit_clock (s : State) (u : TextUnit) : (s.emitUnit u).clock = s.clock := (frame_emitUnit s u).clock (by decide)
@[simp] theorem emitUnit_kcu (s : State) (u : TextUnit) : (s.emitUnit u).kcu = s.kcu := (frame_emitUnit s u).kcu (by decide)
@[simp] theorem emitUnit_sq (s : State) (u : TextUnit) : (s.emitUnit u).sq = s.sq := (frame_emitUnit s u).sq (by decide)
@[simp] theorem emitUnit_notes (s : State) (u : TextUnit) : (s.emitUnit u).notes = s.notes := (frame_emitUnit s u).notes (by decide)
@[simp] theorem emitUnit_du (s : State) (u : TextUnit) : (s.emitUnit u).du = s.du := (frame_emitUnit s u).du (by decide)
@[simp] theorem emitUnit_cache (s : State) (u : TextUnit) : (s.emitUnit u).cache = s.cache := (frame_emitUnit s u).cache (by decide)
@[simp] theorem emitUnit_arb (s : State) (u : TextUnit) : (s.emitUnit u).arb = s.arb := (frame_emitUnit s u).arb (by decide)
@[simp] theorem emitUnit_te (s : State) (u : TextUnit) : (s.emitUnit u).te = s.te := (frame_emitUnit s u).te (by decide)
@[simp] theorem emitUnit_lnc (s : State) (u : TextUnit) : (s.emitUnit u).lnc = s.lnc := (frame_emitUnit s u).lnc (by decide)
@[simp] theorem emitUnit_roster (s : State) (u : TextUnit) : (s.emitUnit u).roster = s.roster := (frame_emitUnit s u).roster (by decide)
@[simp] theorem emitUnit_cu (s : State) (u : TextUnit) : (s.emitUnit u).cu = s.cu := (frame_emitUnit s u).cu (by decide)
@[simp] theorem emitUnit_sp (s : State) (u : TextUnit) : (s.emitUnit u).sp = s.sp := (frame_emitUnit s u).sp (by decide)
@[simp] theorem emitUnit_isOnline (s : State) (u : TextUnit) : (s.emitUnit u).lcp.online = s.lcp.online := (frame_emitUnit s u).isOnline (by decide)
@[simp] theorem emitUnit_config (s : State) (u : TextUnit) : (s.emitUnit u).lcp.config = s.lcp.config := (frame_emitUnit s u).config (by decide)
@[simp] theorem emitUnit_cfg (s : State) (u : TextUnit) : (s.emitUnit u).cfg = s.cfg := (frame_emitUnit s u).cfg (by decide)
@[simp] theorem emitUnit_own (s : State) (u : TextUnit) : (s.emitUnit u).own = s.own := (frame_emitUnit s u).own (by decide)

/-! ## switchToRecord -/

@[simp] theorem switchToRecord_clock (s : State) (n : Nat) (b : Bool) (c : Option (Bool × Bool)) : (s.switchToRecord n b c).clock = s.clock := (frame_switchToRecord s n b c).clock (by decide)
@[simp] theorem switchToRecord_kcu (s : State) (n : Nat) (b : Bool) (c : Option (Bool × Bool)) : (s.switchToRecord n b c).kcu = s.kcu := (frame_switchToRecord s n b c).kcu (by decide)
@[simp] theorem switchToRecord_sq (s : State) (n : Nat) (b : Bool) (c : Option (Bool × Bool)) : (s.switchToRecord n b c).sq = s.sq := (frame_switchToRecord s n b c).sq (by decide)
@[simp] theorem switchToRecord_notes (s : State) (n : Nat) (b : Bool) (c : Option (Bool × Bool)) : (s.switchToRecord n b c).notes = s.notes := (frame_switchToRecord s n b c).notes (by decide)
@[simp] theorem switchToRecord_du (s : State) (n : Nat) (b : Bool) (c : Option (Bool × Bool)) : (s.switchToRecord n b c).du = s.du := (frame_switchToRecord s n b c).du (by decide)
@[simp] theorem switchToRecord_cache (s : State) (n : Nat) (b : Bool) (c : Option (Bool × Bool)) : (s.switchToRecord n b c).cache = s.cache := (frame_switchToRecord s n b c).cache (by decide)
@[simp] theorem switchToRecord_arb (s : State) (n : Nat) (b : Bool) (c : Option (Bool × Bool)) : (s.switchToRecord n b c).arb = s.arb := (frame_switchToRecord s n b c).arb (by decide)
@[simp] theorem switchToRecord_te (s : State) (n : Nat) (b : Bool) (c : Option (Bool × Bool)) : (s.switchToRecord n b c).te = s.te := (frame_switchToRecord s n b c).te (by decide)
@[simp] theorem switchToRecord_lnc (s : State) (n : Nat) (b : Bool) (c : Option (Bool × Bool)) : (s.switchToRecord n b c).lnc = s.lnc := (frame_switchToRecord s n b c).lnc (by decide)
@[simp] theorem switchToRecord_roster (s : State) (n : Nat) (b : Bool) (c : Option (Bool × Bool)) : (s.switchToRecord n b c).roster = s.roster := (frame_switchToRecord s n b c).roster (by decide)
@[simp] theorem switchToRecord_cu (s : State) (n : Nat) (b : Bool) (c : Option (Bool × Bool)) : (s.switchToRecord n b c).cu = s.cu := (frame_switchToRecord s n b c).cu (by decide)
@[simp] theorem switchToRecord_sp (s : State) (n : Nat) (b : Bool) (c : Option (Bool × Bool)) : (s.switchToRecord n b c).sp = s.sp := (frame_switchToRecord s n b c).sp (by decide)
@[simp] theorem switchToRecord_isOnline (s : State) (n : Nat) (b : Bool) (c : Option (Bool × Bool)) : (s.switchToRecord n b c).lcp.online = s.lcp.online := (frame_switchToRecord s n b c).isOnline (by decide)
@[simp] theorem switchToRecord_config (s : State) (n : Nat) (b : Bool) (c : Option (Bool × Bool)) : (s.switchToRecord n b c).lcp.config = s.lcp.config := (frame_switchToRecord s n b c).config (by decide)
@[simp] theorem switchToRecord_cfg (s : State) (n : Nat) (b : Bool) (c : Option (Bool × Bool)) : (s.switchToRecord n b c).cfg = s.cfg := (frame_switchToRecord s n b c).cfg (by decide)
@[simp] theorem switchToRecord_own (s : State) (n : Nat) (b : Bool) (c : Option (Bool × Bool)) : (s.switchToRecord n b c).own = s.own := (frame_switchToRecord s n b c).own (by decide)

/-! ## switchToDraft -/

@[simp] theorem switchToDraft_clock (s : State) : (s.switchToDraft).clock = s.clock := (frame_switchToDraft s).clock (by decide)
@[simp] theorem switchToDraft_kcu (s : State) : (s.switchToDraft).kcu = s.kcu := (frame_switchToDraft s).kcu (by decide)
@[simp] theorem switchToDraft_sq (s : State) : (s.switchToDraft).sq = s.sq := (frame_switchToDraft s).sq (by decide)
@[simp] theorem switchToDraft_notes (s : State) : (s.switchToDraft).notes = s.notes := (frame_switchToDraft s).notes (by decide)
@[simp] theorem switchToDraft_du (s : State) : (s.switchToDraft).du = s.du := (frame_switchToDraft s).du (by decide)
@[simp] theorem switchToDraft_cache (s : State) : (s.switchToDraft).cache = s.cache := (frame_switchToDraft s).cache (by decide)
@[simp] theorem switchToDraft_arb (s : State) : (s.switchToDraft).arb = s.arb := (frame_switchToDraft s).arb (by decide)
@[simp] theorem switchToDraft_te (s : State) : (s.switchToDraft).te = s.te := (frame_switchToDraft s).te (by decide)
@[simp] theorem switchToDraft_lnc (s : State) : (s.switchToDraft).lnc = s.lnc := (frame_switchToDraft s).lnc (by decide)
@[simp] theorem switchToDraft_pub (s : State) : (s.switchToDraft).pub = s.pub := (frame_switchToDraft s).pub (by decide)
@[simp] theorem switchToDraft_roster (s : State) : (s.switchToDraft).roster = s.roster := (frame_switchToDraft s).roster (by decide)
@[simp] theorem switchToDraft_cu (s : State) : (s.switchToDraft).cu = s.cu := (frame_switchToDraft s).cu (by decide)
@[simp] theorem switchToDraft_vw (s : State) : (s.switchToDraft).vw = s.vw := (frame_switchToDraft s).vw (by decide)
@[simp] theorem switchToDraft_sp (s : State) : (s.switchToDraft).sp = s.sp := (frame_switchToDraft s).sp (by decide)
@[simp] theorem switchToDraft_lcp (s : State) : (s.switchToDraft).lcp = s.lcp := (frame_switchToDraft s).lcp (by decide) (by decide)
@[simp] theorem switchToDraft_cfg (s : State) : (s.switchToDraft).cfg = s.cfg := (frame_switchToDraft s).cfg (by decide)
@[simp] theorem switchToDraft_own (s : State) : (s.switchToDraft).own = s.own := (frame_switchToDraft s).own (by decide)

/-! ## handCustody -/

@[simp] theorem handCustody_clock (s : State) (k : CustodyFrameKind) (f : Frame) : (s.handCustody k f).clock = s.clock := (frame_handCustody s k f).clock (by decide)
@[simp] theorem handCustody_kcu (s : State) (k : CustodyFrameKind) (f : Frame) : (s.handCustody k f).kcu = s.kcu := (frame_handCustody s k f).kcu (by decide)
@[simp] theorem handCustody_sq (s : State) (k : CustodyFrameKind) (f : Frame) : (s.handCustody k f).sq = s.sq := (frame_handCustody s k f).sq (by decide)
@[simp] theorem handCustody_notes (s : State) (k : CustodyFrameKind) (f : Frame) : (s.handCustody k f).notes = s.notes := (frame_handCustody s k f).notes (by decide)
@[simp] theorem handCustody_du (s : State) (k : CustodyFrameKind) (f : Frame) : (s.handCustody k f).du = s.du := (frame_handCustody s k f).du (by decide)
@[simp] theorem handCustody_cache (s : State) (k : CustodyFrameKind) (f : Frame) : (s.handCustody k f).cache = s.cache := (frame_handCustody s k f).cache (by decide)
@[simp] theorem handCustody_arb (s : State) (k : CustodyFrameKind) (f : Frame) : (s.handCustody k f).arb = s.arb := (frame_handCustody s k f).arb (by decide)
@[simp] theorem handCustody_te (s : State) (k : CustodyFrameKind) (f : Frame) : (s.handCustody k f).te = s.te := (frame_handCustody s k f).te (by decide)
@[simp] theorem handCustody_tb (s : State) (k : CustodyFrameKind) (f : Frame) : (s.handCustody k f).tb = s.tb := (frame_handCustody s k f).tb (by decide)
@[simp] theorem handCustody_pub (s : State) (k : CustodyFrameKind) (f : Frame) : (s.handCustody k f).pub = s.pub := (frame_handCustody s k f).pub (by decide)
@[simp] theorem handCustody_roster (s : State) (k : CustodyFrameKind) (f : Frame) : (s.handCustody k f).roster = s.roster := (frame_handCustody s k f).roster (by decide)
@[simp] theorem handCustody_cu (s : State) (k : CustodyFrameKind) (f : Frame) : (s.handCustody k f).cu = s.cu := (frame_handCustody s k f).cu (by decide)
@[simp] theorem handCustody_vw (s : State) (k : CustodyFrameKind) (f : Frame) : (s.handCustody k f).vw = s.vw := (frame_handCustody s k f).vw (by decide)
@[simp] theorem handCustody_sp (s : State) (k : CustodyFrameKind) (f : Frame) : (s.handCustody k f).sp = s.sp := (frame_handCustody s k f).sp (by decide)
@[simp] theorem handCustody_lcp (s : State) (k : CustodyFrameKind) (f : Frame) : (s.handCustody k f).lcp = s.lcp := (frame_handCustody s k f).lcp (by decide) (by decide)
@[simp] theorem handCustody_cfg (s : State) (k : CustodyFrameKind) (f : Frame) : (s.handCustody k f).cfg = s.cfg := (frame_handCustody s k f).cfg (by decide)
@[simp] theorem handCustody_own (s : State) (k : CustodyFrameKind) (f : Frame) : (s.handCustody k f).own = s.own := (frame_handCustody s k f).own (by decide)

/-! ## refreshSlot -/

@[simp] theorem refreshSlot_clock (s : State) (n : Nat) : (s.refreshSlot n).clock = s.clock := (frame_refreshSlot s n).clock (by decide)
@[simp] theorem refreshSlot_kcu (s : State) (n : Nat) : (s.refreshSlot n).kcu = s.kcu := (frame_refreshSlot s n).kcu (by decide)
@[simp] theorem refreshSlot_sq (s : State) (n : Nat) : (s.refreshSlot n).sq = s.sq := (frame_refreshSlot s n).sq (by decide)
@[simp] theorem refreshSlot_notes (s : State) (n : Nat) : (s.refreshSlot n).notes = s.notes := (frame_refreshSlot s n).notes (by decide)
@[simp] theorem refreshSlot_du (s : State) (n : Nat) : (s.refreshSlot n).du = s.du := (frame_refreshSlot s n).du (by decide)
@[simp] theorem refreshSlot_cache (s : State) (n : Nat) : (s.refreshSlot n).cache = s.cache := (frame_refreshSlot s n).cache (by decide)
@[simp] theorem refreshSlot_arb (s : State) (n : Nat) : (s.refreshSlot n).arb = s.arb := (frame_refreshSlot s n).arb (by decide)
@[simp] theorem refreshSlot_te (s : State) (n : Nat) : (s.refreshSlot n).te = s.te := (frame_refreshSlot s n).te (by decide)
@[simp] theorem refreshSlot_tb (s : State) (n : Nat) : (s.refreshSlot n).tb = s.tb := (frame_refreshSlot s n).tb (by decide)
@[simp] theorem refreshSlot_lnc (s : State) (n : Nat) : (s.refreshSlot n).lnc = s.lnc := (frame_refreshSlot s n).lnc (by decide)
@[simp] theorem refreshSlot_pub (s : State) (n : Nat) : (s.refreshSlot n).pub = s.pub := (frame_refreshSlot s n).pub (by decide)
@[simp] theorem refreshSlot_cu (s : State) (n : Nat) : (s.refreshSlot n).cu = s.cu := (frame_refreshSlot s n).cu (by decide)
@[simp] theorem refreshSlot_vw (s : State) (n : Nat) : (s.refreshSlot n).vw = s.vw := (frame_refreshSlot s n).vw (by decide)
@[simp] theorem refreshSlot_sp (s : State) (n : Nat) : (s.refreshSlot n).sp = s.sp := (frame_refreshSlot s n).sp (by decide)
@[simp] theorem refreshSlot_lcp (s : State) (n : Nat) : (s.refreshSlot n).lcp = s.lcp := (frame_refreshSlot s n).lcp (by decide) (by decide)
@[simp] theorem refreshSlot_cfg (s : State) (n : Nat) : (s.refreshSlot n).cfg = s.cfg := (frame_refreshSlot s n).cfg (by decide)
@[simp] theorem refreshSlot_own (s : State) (n : Nat) : (s.refreshSlot n).own = s.own := (frame_refreshSlot s n).own (by decide)

/-! ## teRun -/

@[simp] theorem teRun_clock (s : State) : (s.teRun).clock = s.clock := (frame_teRun s).clock (by decide)
@[simp] theorem teRun_kcu (s : State) : (s.teRun).kcu = s.kcu := (frame_teRun s).kcu (by decide)
@[simp] theorem teRun_sq (s : State) : (s.teRun).sq = s.sq := (frame_teRun s).sq (by decide)
@[simp] theorem teRun_notes (s : State) : (s.teRun).notes = s.notes := (frame_teRun s).notes (by decide)
@[simp] theorem teRun_du (s : State) : (s.teRun).du = s.du := (frame_teRun s).du (by decide)
@[simp] theorem teRun_roster (s : State) : (s.teRun).roster = s.roster := (frame_teRun s).roster (by decide)
@[simp] theorem teRun_sp (s : State) : (s.teRun).sp = s.sp := (frame_teRun s).sp (by decide)
@[simp] theorem teRun_isOnline (s : State) : (s.teRun).lcp.online = s.lcp.online := (frame_teRun s).isOnline (by decide)
@[simp] theorem teRun_config (s : State) : (s.teRun).lcp.config = s.lcp.config := (frame_teRun s).config (by decide)
@[simp] theorem teRun_cfg (s : State) : (s.teRun).cfg = s.cfg := (frame_teRun s).cfg (by decide)
@[simp] theorem teRun_own (s : State) : (s.teRun).own = s.own := (frame_teRun s).own (by decide)

end Sys2Proof.Machine
end

