-- ==== Sys2Proof/Laws/Effect.lean ====
section
/-! SUPPORT. What the shared operations leave in the blocks they do change. -/

namespace Sys2Proof.Machine

/-! ## The slot's choice and the composition -/

theorem SameButCredit.refl (p : Pub) : SameButCredit p p := rfl

theorem updateCredit_credit (s : State) : SameButCredit s.pub s.updateCredit.pub := rfl

theorem choose_credit (s : State) : SameButCredit s.pub s.choose.pub := by
  unfold State.choose
  dsimp only
  split
  · split <;> split <;> rfl
  · rfl

theorem choose_slot (s : State) : SameButSlot s.lnc s.choose.lnc := by
  unfold State.choose
  dsimp only
  split
  · split <;> split <;> rfl
  · rfl

/-- In DRIVING a choice is a credit update where it tests the credit, and nothing else. -/
theorem choose_driving (s : State) (on : s.online = true) (h : s.lnc.slot.isDriving = true) :
    s.choose = if s.choiceTests = true then s.updateCredit else s := by
  unfold State.choose
  rw [if_pos on]
  dsimp only
  split
  · exact if_pos h
  · rfl

/-- Credit updates compose: one more on the way changes no later credit (R139). -/
theorem creditAfter_add (c f share a b : Nat) :
    creditAfter (creditAfter c f share a).1 (creditAfter c f share a).2 share b = creditAfter c f share (a + b) := by
  have h1 := Nat.div_add_mod (f + a * share) 1000
  have h2 := Nat.mod_lt (f + a * share) (by decide : 0 < 1000)
  have h3 : f + (a + b) * share = 1000 * ((f + a * share) / 1000) + ((f + a * share) % 1000 + b * share) := by
    rw [Nat.add_mul]
    omega
  unfold creditAfter
  rw [h3, Nat.mul_add_div (by decide), Nat.mul_add_mod]
  split
  · rw [if_pos (by simp), if_pos (by omega)]
  · simp only [Nat.add_assoc]

/-- What the credit is short of (R139). -/
theorem mem_heldCosts (s : State) (c : Nat) :
    c ∈ s.heldCosts ↔ s.pub.credit < c
      ∧ ((∃ e ∈ s.lnc.slot.waitingIn .line s.pub.lineQueue, (e.frame s.cfg).cost = c)
        ∨ (∃ a ∈ s.lnc.slot.waitingAnswers s.pub.answers, (a.frame s.cfg).cost = c) ∨ s.tailCost = some c) := by
  unfold State.heldCosts
  simp only [List.mem_filter, List.mem_append, List.mem_map, Option.mem_toList, decide_eq_true_eq, or_assoc]
  exact and_comm

@[simp] theorem compose_send (s : State) : s.compose.sp.send = s.sp.send := by
  unfold State.compose
  split <;> rfl

@[simp] theorem compose_busyPin (s : State) : s.compose.sp.busyPin = s.sp.busyPin := by
  unfold State.compose
  split <;> rfl

section
variable {p q : Pub} (h : SameButCredit p q)
include h
theorem SameButCredit.stationWaiting : q.stationWaiting = p.stationWaiting := by rw [h]
theorem SameButCredit.stationInFlight : q.stationInFlight = p.stationInFlight := by rw [h]
theorem SameButCredit.tailWaiting : q.tailWaiting = p.tailWaiting := by rw [h]
theorem SameButCredit.tailInFlight : q.tailInFlight = p.tailInFlight := by rw [h]
theorem SameButCredit.beaconAt : q.beaconAt = p.beaconAt := by rw [h]
theorem SameButCredit.refreshAt : q.refreshAt = p.refreshAt := by rw [h]
theorem SameButCredit.lineQueue : q.lineQueue = p.lineQueue := by rw [h]
theorem SameButCredit.answers : q.answers = p.answers := by rw [h]
theorem SameButCredit.defines : q.defines = p.defines := by rw [h]
theorem SameButCredit.ownWeight : q.ownWeight = p.ownWeight := by rw [h]
theorem SameButCredit.share : q.share = p.share := by rw [h]
theorem SameButCredit.muted : q.muted = p.muted := by rw [h]
theorem SameButCredit.signature : q.signature = p.signature := by rw [h]
end

section
variable {l m : Lnc} (h : SameButSlot l m)
include h
theorem SameButSlot.silence : m.silence = l.silence := by rw [h]
theorem SameButSlot.busySince : m.busySince = l.busySince := by rw [h]
theorem SameButSlot.assembly : m.assembly = l.assembly := by rw [h]
theorem SameButSlot.queue : m.queue = l.queue := by rw [h]
theorem SameButSlot.errors : m.errors = l.errors := by rw [h]
theorem SameButSlot.custodyList : m.custodyList = l.custodyList := by rw [h]
theorem SameButSlot.aborted : m.aborted = l.aborted := by rw [h]
theorem SameButSlot.txDropped : m.txDropped = l.txDropped := by rw [h]
end

/-! ## Custody -/

/-- A change of custody state is a change of `state` alone at the Custody Unit. -/
@[simp] theorem setCustody_cu (s : State) (c : CustodyState) : (s.setCustody c).cu = { s.cu with state := c } := by
  simp [State.setCustody]

/-- The parts of the Publisher that weights, beacons and TAIL images leave alone: what waits to be sent by the other sources. -/
def SameLists (p q : Pub) : Prop :=
  q.lineQueue = p.lineQueue ∧ q.answers = p.answers ∧ q.defines = p.defines ∧ q.nextDefine = p.nextDefine
  ∧ q.beaconAt = p.beaconAt ∧ q.signature = p.signature ∧ q.stationInFlight = p.stationInFlight
  ∧ q.tailInFlight = p.tailInFlight ∧ q.lineOverflow = p.lineOverflow ∧ q.answersDropped = p.answersDropped
  ∧ q.defineSendLost = p.defineSendLost

theorem SameLists.refl (p : Pub) : SameLists p p := ⟨rfl, rfl, rfl, rfl, rfl, rfl, rfl, rfl, rfl, rfl, rfl⟩

theorem SameLists.trans {p q r : Pub} (h : SameLists p q) (k : SameLists q r) : SameLists p r := by
  unfold SameLists at *
  simp [k, h]

theorem buildTail_lists (s : State) : SameLists s.pub s.buildTail.pub := by
  unfold State.buildTail
  split <;> exact SameLists.refl _

theorem dropTail_lists (s : State) : SameLists s.pub s.dropTail.pub := by
  unfold State.dropTail
  split <;> exact SameLists.refl _

theorem reshare_lists (s : State) : SameLists s.pub s.reshare.pub := by
  have h : SameLists s.pub (s.updateCredit.reweigh s.cu.state.weight).pub := SameLists.refl _
  unfold State.reshare
  dsimp only
  split
  · exact h.trans (dropTail_lists _)
  · split
    · exact h.trans (dropTail_lists (s.updateCredit.reweigh s.cu.state.weight).stationReady)
    · exact h.trans ((dropTail_lists (s.updateCredit.reweigh s.cu.state.weight).stationReady).trans (buildTail_lists _))

theorem tellCustody_lists (s : State) : SameLists s.pub s.tellCustody.pub :=
  SameLists.trans (SameLists.trans (SameLists.refl _) (reshare_lists s.stationReady)) (buildTail_lists _)

theorem reportCustody_lists (s : State) : SameLists s.pub s.reportCustody.pub := by
  unfold State.reportCustody
  rw [follow_pub]
  exact tellCustody_lists s

theorem setCustody_lists (s : State) (c : CustodyState) : SameLists s.pub (s.setCustody c).pub :=
  reportCustody_lists (s.setCu { s.cu with state := c })

/-- A waiting STATION stays, or a newer one replaces it: what is ready stays ready. -/
theorem reshare_station (s : State) (h : s.pub.stationWaiting = some 0) : s.reshare.pub.stationWaiting = some 0 := by
  have drop : ∀ u : State, u.dropTail.pub.stationWaiting = u.pub.stationWaiting := fun u => by
    unfold State.dropTail
    split <;> rfl
  have build : ∀ u : State, u.buildTail.pub.stationWaiting = u.pub.stationWaiting := fun u => by
    unfold State.buildTail
    split <;> rfl
  unfold State.reshare
  dsimp only
  split
  · rw [drop]; exact h
  · split
    · rw [drop]; rfl
    · rw [build, drop]; rfl

/-- A change of custody state makes a STATION ready. -/
theorem tellCustody_station (s : State) : s.tellCustody.pub.stationWaiting = some 0 := by
  have build : ∀ u : State, u.buildTail.pub.stationWaiting = u.pub.stationWaiting := fun u => by
    unfold State.buildTail
    split <;> rfl
  simp only [State.tellCustody, build]
  exact reshare_station _ rfl

theorem setCustody_station (s : State) (c : CustodyState) : (s.setCustody c).pub.stationWaiting = some 0 := by
  simp only [State.setCustody, State.reportCustody, follow_pub, tellCustody_station]

/-- A recomputation brings the own weight to that of the present custody state. -/
theorem reshare_weight (s : State) : s.reshare.pub.ownWeight = s.cu.state.weight := by
  have drop : ∀ u : State, u.dropTail.pub.ownWeight = u.pub.ownWeight := fun u => by
    unfold State.dropTail
    split <;> rfl
  have build : ∀ u : State, u.buildTail.pub.ownWeight = u.pub.ownWeight := fun u => by
    unfold State.buildTail
    split <;> rfl
  unfold State.reshare
  dsimp only
  split
  · rw [drop]; rfl
  · split
    · rw [drop]; rfl
    · rw [build, drop]; rfl

theorem tellCustody_weight (s : State) : s.tellCustody.pub.ownWeight = s.cu.state.weight := by
  have build : ∀ u : State, u.buildTail.pub.ownWeight = u.pub.ownWeight := fun u => by
    unfold State.buildTail
    split <;> rfl
  simp only [State.tellCustody, build]
  exact reshare_weight _

theorem setCustody_weight (s : State) (c : CustodyState) : (s.setCustody c).pub.ownWeight = c.weight := by
  simp [State.setCustody, State.reportCustody, tellCustody_weight]

/-! ## The Viewer's choice of holder -/

/-- Gaps and the reach leave the marks, the images, the ASKs, the panes and the counts. -/
def SameViews (v w : Viewer) : Prop :=
  w.marks = v.marks ∧ w.tails = v.tails ∧ w.asks = v.asks ∧ w.paneA = v.paneA ∧ w.paneB = v.paneB ∧ w.asksLost = v.asksLost
  ∧ w.linesLost = v.linesLost

theorem SameViews.refl (v : Viewer) : SameViews v v := ⟨rfl, rfl, rfl, rfl, rfl, rfl, rfl⟩

theorem SameViews.trans {u v w : Viewer} (h : SameViews u v) (k : SameViews v w) : SameViews u w := by
  unfold SameViews at *
  simp [k, h]

theorem openGap_views (s : State) (k n : Nat) : SameViews s.vw (s.openGap k n).vw := by
  unfold State.openGap
  split <;> exact SameViews.refl _

theorem setReach_views (s : State) (r k : Nat) : SameViews s.vw (s.setReach r k).vw := by
  have gaps : ∀ (l : List Nat) (t : State), SameViews t.vw (l.foldl (fun t n => t.openGap k n) t).vw := by
    intro l
    induction l with
    | nil => intro t; exact SameViews.refl _
    | cons a l ih => intro t; exact (openGap_views t k a).trans (ih _)
  unfold State.setReach
  dsimp only
  split
  · exact SameViews.refl _
  · exact SameViews.trans (SameViews.refl _) (gaps _ (s.setVw (s.vw.setReach r k)))

theorem follow_views (s : State) : SameViews s.vw s.follow.vw := by
  have h : SameViews s.vw
      ((s.setVw { s.vw with followed := s.followChoice }).latch (.followChanged (s.followStation s.followChoice))).vw :=
    SameViews.refl _
  unfold State.follow
  split
  · split
    · exact SameViews.refl _
    · dsimp only
      split
      · exact h.trans (setReach_views _ _ _)
      · exact h
  · exact SameViews.refl _

theorem setCustody_views (s : State) (c : CustodyState) : SameViews s.vw (s.setCustody c).vw := by
  simp only [State.setCustody, State.reportCustody]
  refine SameViews.trans ?_ (follow_views _)
  simp [SameViews]

/-! ## Roster slots -/

theorem roster_setSlot (r : Roster) (i j : Nat) (x : Option RosterSlot) :
    (r.setSlot i x).slot j = if i = j ∧ j < 16 then x else r.slot j := by
  simp only [Roster.setSlot, Roster.slot]
  rw [Vector.getElem?_setIfInBounds]
  by_cases h : i = j
  · subst h
    by_cases k : i < 16
    · simp [k]
    · simp [k]
  · simp [h]

theorem slot_lt (r : Roster) (i : Nat) (q : RosterSlot) (h : r.slot i = some q) : i < 16 := by
  by_contra k
  simp only [Roster.slot] at h
  rw [Vector.getElem?_eq_none (by omega)] at h
  simp at h

/-! ## The share (R138) -/

/-- The weight, the sum, the share and the MUTED flag of `q` are those of `p`. -/
def SameShare (p q : Pub) : Prop := q.ownWeight = p.ownWeight ∧ q.weightSum = p.weightSum ∧ q.share = p.share ∧ q.muted = p.muted

theorem weightSumFor_congr (s t : State) (n : Nat) (hc : t.cfg = s.cfg) (hr : t.roster = s.roster) :
    t.weightSumFor n = s.weightSumFor n := by
  unfold State.weightSumFor
  rw [hc, hr]
theorem shareFor_congr (s t : State) (n : Nat) (hc : t.cfg = s.cfg) (hr : t.roster = s.roster) : t.shareFor n = s.shareFor n := by
  unfold State.shareFor
  rw [weightSumFor_congr s t n hc hr, hc]
theorem mutedFor_congr (s t : State) (n : Nat) (hc : t.cfg = s.cfg) (hr : t.roster = s.roster) : t.mutedFor n = s.mutedFor n := by
  unfold State.mutedFor
  rw [shareFor_congr s t n hc hr]

theorem Weighed.of_same {s t : State} (h : Weighed s) (hp : SameShare s.pub t.pub) (hu : t.cu.state = s.cu.state) (hc : t.cfg = s.cfg)
    (hr : t.roster = s.roster) : Weighed t := by
  unfold Weighed SameShare at *
  rw [hu, weightSumFor_congr s t _ hc hr, shareFor_congr s t _ hc hr, mutedFor_congr s t _ hc hr, hp.1, hp.2.1, hp.2.2.1, hp.2.2.2]
  exact h

theorem buildTail_share (s : State) : SameShare s.pub s.buildTail.pub := by
  unfold State.buildTail
  split <;> exact ⟨rfl, rfl, rfl, rfl⟩

theorem dropTail_share (s : State) : SameShare s.pub s.dropTail.pub := by
  unfold State.dropTail
  split <;> exact ⟨rfl, rfl, rfl, rfl⟩

theorem choose_share (s : State) : SameShare s.pub s.choose.pub := by
  unfold State.choose
  dsimp only
  split
  · split <;> split <;> exact ⟨rfl, rfl, rfl, rfl⟩
  · exact ⟨rfl, rfl, rfl, rfl⟩

theorem SameShare.trans {p q r : Pub} (h : SameShare p q) (k : SameShare q r) : SameShare p r := by
  unfold SameShare at *; simp [h, k]

/-- A recomputation leaves the share of the present custody state and roster. -/
theorem reshare_weighed (s : State) : Weighed s.reshare := by
  have h : SameShare (s.updateCredit.reweigh s.cu.state.weight).pub s.reshare.pub := by
    unfold State.reshare
    dsimp only
    split
    · exact dropTail_share _
    · split
      · exact SameShare.trans ⟨rfl, rfl, rfl, rfl⟩ (dropTail_share _)
      · exact SameShare.trans (q := (s.updateCredit.reweigh s.cu.state.weight).stationReady.pub) ⟨rfl, rfl, rfl, rfl⟩
          ((dropTail_share _).trans (buildTail_share _))
  unfold Weighed
  rw [h.1, h.2.1, h.2.2.1, h.2.2.2, weightSumFor_congr s s.reshare _ (by simp) (by simp),
    shareFor_congr s s.reshare _ (by simp) (by simp), mutedFor_congr s s.reshare _ (by simp) (by simp), reshare_cu]
  exact ⟨rfl, rfl, rfl, rfl⟩

theorem tellCustody_weighed (s : State) : Weighed s.tellCustody := by
  unfold State.tellCustody
  exact (reshare_weighed _).of_same (buildTail_share _) (by simp) (by simp) (by simp)

/-! ## The followed holder (R169) -/

theorem followChoice_congr (s t : State) (hc : t.cfg = s.cfg) (hu : t.cu = s.cu) (hr : t.roster = s.roster) (hm : t.vw.marks = s.vw.marks) :
    t.followChoice = s.followChoice := by
  unfold State.followChoice State.effectiveHolders Viewer.mark
  rw [hc, hu, hr, hm]

theorem follow_choice (s : State) : s.follow.followChoice = s.followChoice :=
  followChoice_congr _ _ (by simp) (by simp) (by simp) (follow_views s).1

theorem setReach_followed (s : State) (r k : Nat) : (s.setReach r k).vw.followed = s.vw.followed := by
  have gaps : ∀ (l : List Nat) (t : State), (l.foldl (fun t n => t.openGap k n) t).vw.followed = t.vw.followed := by
    intro l
    induction l with
    | nil => intro t; rfl
    | cons a l ih =>
      intro t
      rw [List.foldl_cons, ih]
      unfold State.openGap
      split <;> rfl
  unfold State.setReach
  dsimp only
  split
  · rfl
  · rw [gaps]; rfl

/-- A second choice finds nothing new. -/
theorem follow_followed (s : State) (h : s.viewing = true) : s.follow.vw.followed = s.followChoice := by
  unfold State.follow
  simp only [h, if_true]
  split
  · rename_i e; exact e.symm
  · split
    · rw [setReach_followed]; rfl
    · rfl

theorem follow_same (s : State) (h : s.viewing = true → s.followChoice = s.vw.followed) : s.follow = s := by
  unfold State.follow
  split
  · rename_i hv; rw [if_pos (h hv)]
  · rfl

theorem viewing_congr (s t : State) (ho : t.lcp.online = s.lcp.online) (hc : t.cfg = s.cfg) : t.viewing = s.viewing := by
  unfold State.viewing; rw [ho, hc]

/-- A second choice finds nothing new. -/
theorem follow_follow (s : State) : s.follow.follow = s.follow := by
  refine follow_same _ fun h => ?_
  have hv : s.viewing = true := by rw [← viewing_congr s s.follow (by simp) (by simp)]; exact h
  rw [follow_choice, follow_followed s hv]

/-- What the choice of the followed holder does (R169). -/
theorem follow_refollowed (s : State) : Refollowed s s.follow := by
  have hs : s.follow.followStation = s.followStation := by
    funext x; cases x with
    | none => rfl
    | some y => cases y <;> simp [State.followStation]
  refine ⟨?_, ?_, ?_⟩
  · intro h1 h2
    have hv : s.viewing = true := by
      unfold State.viewing
      rw [← follow_isOnline s, ← follow_cfg s]
      simp only [State.online] at h1
      rw [h1, h2]; rfl
    rw [follow_followed s hv, follow_choice]
  · intro h
    rw [hs, follow_tb]
    unfold State.follow at h ⊢
    split
    · rename_i hv
      rw [if_pos hv] at h
      split
      · rename_i e; rw [if_pos e] at h; exact absurd rfl h
      · rename_i hn
        dsimp only
        split
        · rename_i e
          rw [setReach_followed]
          unfold Latched
          refine ⟨?_, fun _ => ?_⟩
          · rw [(frame_setReach _ _ _).lcp (by decide) (by decide)]
            simp [State.latch, Lcp.latched, Lcp.latch, Event.priority]
          · unfold State.setReach; dsimp only; rw [if_pos (by rfl)]; rfl
        · refine ⟨?_, fun k => ?_⟩
          · unfold Latched
            simp [State.latch, Lcp.latched, Lcp.latch, Event.priority]
          · rename_i e; exact absurd k e
    · rename_i hv; rw [if_neg hv] at h; exact absurd rfl h
  · intro h
    unfold State.follow at h ⊢
    split
    · rename_i hv
      rw [if_pos hv] at h
      split
      · rfl
      · rename_i hn
        rw [if_neg hn] at h
        dsimp only at h
        exfalso
        split at h
        · rename_i e; rw [setReach_followed] at h; exact hn h
        · exact hn h
    · rfl

/-- What tellLeft does before the followed holder is chosen. -/
theorem tellLeft_spec (s : State) (n : Nat) :
    ∃ v : State, s.tellLeft n = v.follow ∧ v.vw = s.vw ∧ v.lcp = s.lcp ∧ v.roster = s.roster
    ∧ v.tb = s.tb ∧ Weighed v
    ∧ ((s.cu.handOver ≠ .gathering ∨ ∀ x ∈ s.cu.claims, x.station ≠ n) → v.cu = s.cu)
  ∧ (s.cu.handOver = .gathering → (∃ x ∈ s.cu.claims, x.station = n) → ∀ left,
      left = s.cu.claims.filter (fun x => decide (x.station ≠ n)) →
      (left ≠ [] → v.cu = { s.cu with claims := left })
      ∧ (left = [] → v.cu = { s.cu with claims := [], settleAt := none, handOver := .none, state := .onRecord }
          ∧ v.pub.stationWaiting = some 0)) := by
  unfold State.tellLeft State.dropClaim
  simp only [reshare_cu]
  split
  · rename_i h
    have hx : ∃ x ∈ s.cu.claims, x.station = n := by simpa using h.2
    split
    · rename_i he
      refine ⟨State.tellCustody (State.setCu (s.reshare.setCu { s.cu with claims := [], settleAt := none, handOver := .none })
        { s.cu with claims := [], settleAt := none, handOver := .none, state := .onRecord }),
        ?_, by simp, by simp, by simp, by simp, tellCustody_weighed _, ?_, ?_⟩
      · unfold State.setCustody State.reportCustody
        rw [follow_follow]
        rfl
      · rintro (k | k)
        · exact absurd h.1 k
        · obtain ⟨x, hx, e⟩ := hx; exact absurd e (k x hx)
      · rintro _ _ left rfl
        refine ⟨fun k => absurd (by simpa using he) k, fun _ => ⟨by simp, tellCustody_station _⟩⟩
    · rename_i he
      refine ⟨_, rfl, by simp, by simp, by simp, by simp, ?_, ?_, ?_⟩
      · exact (reshare_weighed s).of_same ⟨rfl, rfl, rfl, rfl⟩ (by simp) rfl rfl
      · rintro (k | k)
        · exact absurd h.1 k
        · obtain ⟨x, hx, e⟩ := hx; exact absurd e (k x hx)
      · rintro _ _ left rfl
        refine ⟨fun _ => by simp, fun k => absurd (by simpa using k) (by simpa using he)⟩
  · rename_i h
    refine ⟨_, rfl, by simp, by simp, by simp, by simp, reshare_weighed s, fun _ => by simp, ?_⟩
    intro h1 h2
    exact absurd ⟨h1, by simpa using h2⟩ h

/-! ## The Screen Port (R181) -/

theorem mem_markDirty (r x : Nat) (l : List Nat) : x ∈ markDirty r l ↔ x = r ∨ x ∈ l := by
  induction l with
  | nil => simp [markDirty]
  | cons y l ih =>
    unfold markDirty
    split
    · simp
    · split
      · rename_i h; subst h; simp
      · simp [ih]; constructor <;> (intro h; rcases h with h | h | h <;> simp [h])

theorem markDirty_rising (r : Nat) (l : List Nat) (h : l.Pairwise (· < ·)) : (markDirty r l).Pairwise (· < ·) := by
  induction l with
  | nil => simp [markDirty]
  | cons x l ih =>
    obtain ⟨h1, h2⟩ := List.pairwise_cons.1 h
    unfold markDirty
    split
    · rename_i hr
      refine List.pairwise_cons.2 ⟨fun y hy => ?_, h⟩
      rcases List.mem_cons.1 hy with rfl | hy
      · exact hr
      · exact Nat.lt_trans hr (h1 y hy)
    · split
      · exact h
      · refine List.pairwise_cons.2 ⟨fun y hy => ?_, ih h2⟩
        rcases (mem_markDirty r y l).1 hy with rfl | hy
        · omega
        · exact h1 y hy

theorem markChanged_rising (xs ys : List (List Byte)) (r : Nat) (d : List Nat) (h : d.Pairwise (· < ·)) :
    (markChanged r xs ys d).Pairwise (· < ·) := by
  induction xs generalizing r ys d with
  | nil => exact h
  | cons x xs ih =>
    refine ih _ _ _ ?_
    split
    · exact h
    · exact markDirty_rising r d h

theorem compose_rising (s : State) (h : DirtyRising s) : DirtyRising s.compose := by
  unfold State.compose
  split
  · exact markChanged_rising _ _ _ _ h
  · exact h

theorem advance_dirty (s : State) (n : Nat) : (s.advance n).sp.dirty = s.sp.dirty := by
  change (s.sp.advance n).dirty = _
  unfold Screen.advance
  split
  · rfl
  · split <;> rfl

theorem reachMs_dirty (s : State) (t : Ms) : (s.reachMs t).sp.dirty = s.sp.dirty := by
  unfold State.reachMs
  split
  · rfl
  · exact advance_dirty s _

theorem reachChars_dirty (s : State) (t : Nat) : (s.reachChars t).sp.dirty = s.sp.dirty := advance_dirty s _

/-! ## RELEASE and the holder a claimer finds (R156, R163) -/

/-- What a RELEASE does to the record-closed flag. -/
theorem closedByRelease_eq (s : State) (r : ReleaseBody) :
    s.closedByRelease r = s.setCu
      { s.cu with recordClosed := if r.target ≠ 0 then false else if s.cu.state.holds = true then s.cu.recordClosed else true } := by
  unfold State.closedByRelease
  by_cases h : r.target = 0
  · by_cases k : s.cu.state.holds = true
    · simp [h, k, State.setCu]
    · simp [h, k]
  · simp [h]

/-- The best of some slots is one of them, and none of them is better. -/
theorem foldl_better (l : List RosterSlot) (b : Option RosterSlot) :
    (l.foldl betterSlot b = none ↔ b = none ∧ l = []) ∧
    ∀ q, l.foldl betterSlot b = some q → (b = some q ∨ q ∈ l)
      ∧ (∀ x, (b = some x ∨ x ∈ l) → better x.rank x.station q.rank q.station = false) := by
  induction l generalizing b with
  | nil =>
    refine ⟨by simp, ?_⟩
    intro q hq
    simp at hq
    refine ⟨Or.inl hq, ?_⟩
    rintro x (h | h)
    · rw [hq] at h; cases h; simp [better]
    · simp at h
  | cons y l ih =>
    have i := ih (betterSlot b y)
    refine ⟨?_, ?_⟩
    · rw [List.foldl_cons, i.1]
      cases b with
      | none => simp [betterSlot]
      | some x => simp [betterSlot]; intro h; split at h <;> cases h
    · intro q hq
      rw [List.foldl_cons] at hq
      obtain ⟨a, c⟩ := i.2 q hq
      have hb : ∃ z, betterSlot b y = some z ∧ (z = y ∨ b = some z) ∧ better y.rank y.station z.rank z.station = false
         ∧ (∀ x, b = some x → better x.rank x.station z.rank z.station = false) := by
        cases b with
        | none => exact ⟨y, rfl, Or.inl rfl, by simp [better], by simp⟩
        | some x =>
          by_cases h : better y.rank y.station x.rank x.station = true
          · refine ⟨y, by simp [betterSlot, h], Or.inl rfl, by simp [better], ?_⟩
            rintro _ ⟨⟩
            simp [better] at h ⊢; omega
          · refine ⟨x, by simp [betterSlot, h], Or.inr rfl, by simpa using h, ?_⟩
            rintro _ ⟨⟩; simp [better]
      obtain ⟨z, z1, z2, z3, z4⟩ := hb
      have hz := c z (Or.inl z1)
      have tr : ∀ x : RosterSlot, better x.rank x.station z.rank z.station = false →
          better x.rank x.station q.rank q.station = false := by
        intro x hx
        simp [better] at hx hz ⊢; omega
      refine ⟨?_, ?_⟩
      · rcases a with a | a
        · rw [z1] at a; cases a
          rcases z2 with rfl | z2
          · right; simp
          · left; exact z2
        · right; exact List.mem_cons_of_mem _ a
      · rintro x (h | h)
        · exact tr x (z4 x h)
        · rcases List.mem_cons.1 h with rfl | h
          · exact tr _ z3
          · exact c x (Or.inr h)

theorem slot_mem (r : Roster) (q : RosterSlot) : (∃ i, r.slot i = some q) ↔ some q ∈ r.slots.toList := by
  constructor
  · rintro ⟨i, h⟩
    have hi := slot_lt r i q h
    unfold Roster.slot at h
    rw [Vector.getElem?_eq_getElem hi] at h
    simp only [Option.getD_some] at h
    rw [← h]; simp
  · intro h
    obtain ⟨i, hi, e⟩ := List.mem_iff_getElem.1 h
    refine ⟨i, ?_⟩
    unfold Roster.slot
    simp at hi e
    rw [Vector.getElem?_eq_getElem hi, e]; rfl

/-! ## The record store (R167, R168) -/

theorem find_put (x : StoreSlot) (l : List StoreSlot) (j : Nat) : (putSlot x l).find? (fun y => decide (y.index = j)) =
    if x.index = j then some x else l.find? (fun y => decide (y.index = j)) := by
  induction l with
  | nil => by_cases h : x.index = j <;> simp [putSlot, List.find?, h]
  | cons y l ih =>
    unfold putSlot
    split
    · by_cases h : x.index = j <;> simp [h]
    · split
      · rename_i h; by_cases h2 : x.index = j
        · simp [h2]
        · have : ¬ y.index = j := by omega
          simp [h2, this]
      · by_cases h2 : y.index = j
        · have : ¬ x.index = j := by omega
          simp [h2, this]
        · simp [h2, ih]
theorem stateOf_put (v : Viewer) (n : Nat) (st : StoreState) : (v.put n st).stateOf n = some st := by
  unfold Viewer.stateOf Viewer.slotFor Viewer.put
  simp only [find_put]; simp
theorem stateOf_put_other (v : Viewer) (n m : Nat) (st : StoreState) (h : m % 512 ≠ n % 512) : (v.put n st).stateOf m = v.stateOf m := by
  unfold Viewer.stateOf Viewer.slotFor Viewer.put
  simp only [find_put]
  have : ¬ storeIndex n = storeIndex m := fun e => h e.symm
  rw [if_neg this]

end Sys2Proof.Machine
end

