-- ==== Sys2Proof/Laws/Commands.lean ====
section
/-! SUPPORT. The frame of every command's effect. -/

namespace Sys2Proof.Machine

/-- What the end of an event at the slot and the panes may change. -/
theorem frame_offered (u : State) : SameBut [.pub, .lnc, .sp] u (u.choose).compose :=
  (frame_choose u).chain (frame_compose _) (by decide) (by decide)

theorem frame_settled (u : State) : SameBut (.sp :: teParts) u ((u.teRun).choose).compose :=
  (frame_teRun u).chain (frame_offered _) (by decide) (by decide)

/-! ## Stroke capture -/

theorem frame_rawLevelChange (s : State) (n : Nat) (d : Bool) : SameBut [.kcu] s (s.rawLevelChange n d) := by
  unfold State.rawLevelChange
  split
  · exact SameBut.refl _ _
  · exact frame_ite (SameBut.refl _ _) (frame_setKcu _ _)

/-- What capture may change. -/
abbrev captureParts : List Part := [.clock, .lnc, .sp, .kcu, .sq, .notes, .latches]

theorem frame_settlingExpiry (s : State) (n : Nat) : SameBut captureParts s (s.settlingExpiry n) := by
  unfold State.settlingExpiry
  split
  · exact SameBut.refl _ _
  · split
    · exact SameBut.refl _ _
    · exact frame_ite ((frame_reachMs _ _).chain (frame_acceptedDown _ _ _) (by decide) (by decide))
        ((frame_reachMs _ _).chain (frame_acceptedUp _ _ _) (by decide) (by decide))

theorem frame_stuckExpiry (s : State) (n : Nat) : SameBut captureParts s (s.stuckExpiry n) := by
  unfold State.stuckExpiry
  split
  · exact SameBut.refl _ _
  · split
    · exact SameBut.refl _ _
    · dsimp only
      refine SameBut.chain (xs := captureParts) ?_ (frame_closeIfNoneLive _ _) (by decide) (by decide)
      refine SameBut.chain (xs := captureParts) ?_ (frame_latch _ _) (by decide) (by decide)
      exact (frame_reachMs _ _).chain (frame_setKcu _ _) (by decide) (by decide)

/-! ## Translation -/

theorem frame_takeStroke (s : State) : SameBut (.sq :: .sp :: teParts) s s.takeStroke := by
  unfold State.takeStroke
  split
  · exact SameBut.refl _ _
  · dsimp only
    refine frame_ite (SameBut.chain (xs := .sq :: teParts) ?_ (frame_settled _) (by decide) (by decide)) (SameBut.refl _ _)
    refine SameBut.chain (xs := [.sq, .te]) ?_ (frame_startStroke _ _) (by decide) (by decide)
    exact (frame_setSq _ _).chain (frame_setTe _ _) (by decide) (by decide)

theorem frame_walkReadEnd (s : State) : SameBut (.mem :: .sp :: teParts) s s.walkReadEnd := by
  unfold State.walkReadEnd
  split
  · exact SameBut.refl _ _
  · refine SameBut.chain (xs := .mem :: walkParts) ?_ (frame_settled _) (by decide) (by decide)
    exact (frame_endOperation _ _).chain (frame_walkData _ _) (by decide) (by decide)

theorem frame_resolveExpiry (s : State) : SameBut (.clock :: .sp :: teParts) s s.resolveExpiry := by
  unfold State.resolveExpiry
  split
  · exact SameBut.refl _ _
  · refine SameBut.chain (xs := [.clock, .lnc, .sp, .te]) ?_ (frame_settled _) (by decide) (by decide)
    exact (frame_reachMs _ _).chain (frame_setTe _ _) (by decide) (by decide)

theorem frame_matchCheck (s : State) : SameBut [.te, .arb] s s.matchCheck := by
  unfold State.matchCheck
  split
  · dsimp only
    refine frame_ite ?_ ((frame_setTe _ _).mono (by decide))
    split
    · exact (frame_setTe _ _).chain (frame_requestReplacement _ _ _) (by decide) (by decide)
    · exact (frame_setTe _ _).chain (frame_retrFetchFrom _ _) (by decide) (by decide)
  · exact SameBut.refl _ _

theorem frame_retrReadEnd (s : State) : SameBut [.mem, .te, .arb, .latches] s s.retrReadEnd := by
  unfold State.retrReadEnd
  split
  · exact SameBut.refl _ _
  · exact (frame_endOperation _ _).chain (frame_retrData _ _) (by decide) (by decide)

theorem frame_replacement (s : State) : SameBut [.te, .tb, .latches, .pub, .vw, .lnc, .sp] s s.replacement := by
  unfold State.replacement
  split
  · refine SameBut.chain (xs := .te :: tbParts) ?_ (frame_offered _) (by decide) (by decide)
    exact (frame_setTe _ _).chain (frame_replaceUnits _ _ _) (by decide) (by decide)
  · exact SameBut.refl _ _

/-! ## The dictionary store -/

theorem frame_duServiceStart (s : State) : SameBut duParts s s.duServiceStart := by
  unfold State.duServiceStart
  split
  · exact (frame_setDu _ _).chain (frame_planStart _ _ _ _) (by decide) (by decide)
  · exact SameBut.refl _ _

theorem frame_defOperationEnd (s : State) : SameBut (.mem :: goParts) s s.defOperationEnd := by
  unfold State.defOperationEnd
  split
  · exact SameBut.refl _ _
  · exact (frame_endOperation _ _).chain (frame_duData _ _) (by decide) (by decide)

theorem frame_fenceComplete (s : State) : SameBut (.du :: .sp :: teParts) s s.fenceComplete := by
  unfold State.fenceComplete
  split
  · dsimp only
    refine frame_ite (SameBut.chain (xs := [.cache, .te, .du, .latches, .pub]) ?_ (frame_settled _) (by decide) (by decide)) ?_
    · refine SameBut.chain (xs := [.cache, .te, .du]) ?_ (frame_finishEntry _ _ _) (by decide) (by decide)
      exact (frame_fence _ _).chain (frame_setDu _ _) (by decide) (by decide)
    · exact (frame_fence _ _).chain (frame_setDu _ _) (by decide) (by decide)
  · exact SameBut.refl _ _

theorem frame_deliverDefine (s : State) : SameBut [.lnc, .roster, .du] s s.deliverDefine :=
  frame_deliver _ _ (fun _ _ => (frame_refreshSlot _ _).chain (frame_defineAtDu _ _) (by decide) (by decide)) (by decide) s

theorem frame_exportOperationEnd (s : State) : SameBut [.mem, .arb, .lcp] s s.exportOperationEnd := by
  unfold State.exportOperationEnd
  split
  · exact SameBut.refl _ _
  · exact (frame_endOperation _ _).chain (frame_exportData _ _) (by decide) (by decide)

/-! ## The courtroom line -/

theorem frame_characterReceived (s : State) (h : Bool) (b : Byte) (ok : Bool) :
    SameBut [.clock, .lnc, .sp, .latches, .tb, .pub, .vw] s (s.characterReceived h b ok) := by
  unfold State.characterReceived
  dsimp only
  have e : SameBut [.clock, .lnc, .sp, .pub, .vw] s ((s.characterEnd ok).echo h b ok) :=
    (frame_characterEnd _ _).chain (frame_echo _ _ _ _) (by decide) (by decide)
  have a : SameBut [.clock, .lnc, .sp, .latches, .tb, .pub, .vw] s (((s.characterEnd ok).echo h b ok).assemble h b ok) :=
    e.chain (frame_assemble _ _ _ _) (by decide) (by decide)
  refine frame_ite (frame_ite a ?_) ((frame_characterEnd _ _).mono (by decide))
  exact a.chain (frame_choose _) (by decide) (by decide)

theorem frame_startBitSeen (s : State) (a : Bool) : SameBut [.lnc] s (s.startBitSeen a) := by
  unfold State.startBitSeen
  split
  · exact frame_setLnc _ _
  · exact frame_ite (SameBut.refl _ _) (frame_setLnc _ _)
  · exact SameBut.refl _ _

theorem frame_frameEnd (s : State) : SameBut [.clock, .lnc, .sp, .latches, .tb] s s.frameEnd := by
  unfold State.frameEnd
  split
  · dsimp only
    refine SameBut.chain (xs := [.clock, .lnc, .sp]) ?_ (frame_finishFrame _ _) (by decide) (by decide)
    exact (frame_advance _ _).chain (frame_setLnc _ _) (by decide) (by decide)
  · exact SameBut.refl _ _

theorem frame_guardExpiry (s : State) : SameBut [.clock, .lnc, .sp] s s.guardExpiry := by
  unfold State.guardExpiry
  split
  · exact SameBut.refl _ _
  · exact (frame_reachChars _ _).chain (frame_setLnc _ _) (by decide) (by decide)

theorem frame_transmitStart (s : State) : SameBut [.clock, .lnc, .sp, .pub] s s.transmitStart := by
  unfold State.transmitStart
  split
  · dsimp only
    refine frame_ite ?_ (SameBut.refl _ _)
    split
    · refine SameBut.chain (xs := [.clock, .lnc, .sp, .pub]) ?_ (frame_choose _) (by decide) (by decide)
      exact (frame_advance _ _).chain (frame_startDriving _ _ _) (by decide) (by decide)
    · exact SameBut.refl _ _
  · exact SameBut.refl _ _

/-! ## Publisher -/

theorem frame_creditReach (s : State) : SameBut [.clock, .lnc, .sp, .pub] s s.creditReach := by
  unfold State.creditReach
  split
  · exact SameBut.refl _ _
  · refine frame_ite (SameBut.refl _ _) ?_
    exact SameBut.chain ((frame_reachChars _ _).chain (frame_updateCredit _) (zs := [.clock, .lnc, .sp, .pub]) (by decide) (by decide))
      (frame_choose _) (by decide) (by decide)

theorem frame_beaconExpiry (s : State) : SameBut [.clock, .lnc, .sp, .pub] s s.beaconExpiry := by
  unfold State.beaconExpiry
  split
  · exact SameBut.refl _ _
  · dsimp only
    refine SameBut.chain (xs := [.clock, .lnc, .sp, .pub]) ?_ (frame_choose _) (by decide) (by decide)
    exact (frame_reachMs _ _).chain ((frame_stationReady _).trans (frame_setPub _ _)) (by decide) (by decide)

theorem frame_refreshExpiry (s : State) : SameBut [.clock, .lnc, .sp, .pub] s s.refreshExpiry := by
  unfold State.refreshExpiry
  split
  · exact SameBut.refl _ _
  · dsimp only
    refine SameBut.chain (xs := [.clock, .lnc, .sp, .pub]) ?_ (frame_choose _) (by decide) (by decide)
    exact (frame_reachMs _ _).chain ((frame_setPub _ _).trans (frame_buildTail _)) (by decide) (by decide)

theorem frame_deliverAsk (s : State) : SameBut [.lnc, .pub] s s.deliverAsk :=
  frame_deliver _ _ (fun _ _ => SameBut.chain (frame_takeBody (xs := [.pub]) _ _ fun _ => frame_takeAsk _ _) (frame_choose _)
    (by decide) (by decide)) (by decide) s

/-! ## Roster and custody -/

theorem frame_deliverStation (s : State) : SameBut (.sp :: stationParts) s s.deliverStation :=
  frame_deliver _ _ (fun _ _ => (frame_stationAtRoster _ _).chain (frame_offered _) (by decide) (by decide)) (by decide) s

theorem frame_deliverClaim (s : State) : SameBut (.roster :: .sp :: .lnc :: cuParts) s s.deliverClaim := by
  refine frame_deliver _ _ (fun t f => ?_) (by decide) s
  refine SameBut.chain (xs := .roster :: .lnc :: cuParts) ?_ (frame_offered _) (by decide) (by decide)
  exact (frame_refreshSlot _ _).chain (frame_takeBody _ _ fun _ => frame_claimAtCu _ _) (by decide) (by decide)

theorem frame_deliverRelease (s : State) : SameBut (.roster :: .sp :: .lnc :: recordParts) s s.deliverRelease := by
  refine frame_deliver _ _ (fun t f => ?_) (by decide) s
  refine SameBut.chain (xs := .roster :: .lnc :: recordParts) ?_ (frame_offered _) (by decide) (by decide)
  refine (frame_refreshSlot _ _).chain (frame_takeBody (xs := recordParts) _ _ fun _ => ?_) (by decide) (by decide)
  exact (frame_releaseAtCu _ _).chain (frame_releaseAtViewer _ _) (by decide) (by decide)

theorem frame_deliverRefuse (s : State) : SameBut (.sp :: .lnc :: cuParts) s s.deliverRefuse :=
  frame_deliver _ _ (fun _ _ => SameBut.chain (frame_takeBody (xs := cuParts) _ _ fun _ => frame_refuseAtCu _ _) (frame_offered _)
    (by decide) (by decide)) (by decide) s

theorem frame_lapseExpiry (s : State) (i : Nat) :
    SameBut (.clock :: .roster :: .sp :: .lnc :: cuParts) s (s.lapseExpiry i) := by
  unfold State.lapseExpiry
  split
  · exact SameBut.refl _ _
  · split
    · exact SameBut.refl _ _
    · dsimp only
      refine SameBut.chain (xs := .clock :: .roster :: .sp :: .lnc :: cuParts) ?_ (frame_offered _) (by decide) (by decide)
      refine SameBut.chain (xs := [.clock, .lnc, .sp, .roster, .vw, .latches]) ?_ (frame_tellLeft _ _) (by decide) (by decide)
      refine SameBut.chain (xs := [.clock, .lnc, .sp, .roster, .vw]) ?_ (frame_latch _ _) (by decide) (by decide)
      refine SameBut.chain (xs := [.clock, .lnc, .sp, .roster]) ?_ (frame_setVw _ _) (by decide) (by decide)
      exact (frame_reachMs _ _).chain (frame_setSlot _ _ _) (by decide) (by decide)

theorem frame_freeExpiry (s : State) (i : Nat) :
    SameBut (.clock :: .roster :: .sp :: .lnc :: cuParts) s (s.freeExpiry i) := by
  unfold State.freeExpiry
  split
  · exact SameBut.refl _ _
  · split
    · exact SameBut.refl _ _
    · refine SameBut.chain (xs := .clock :: .roster :: .sp :: .lnc :: cuParts) ?_ (frame_offered _) (by decide) (by decide)
      refine SameBut.chain (xs := [.clock, .lnc, .sp, .roster, .vw, .latches]) ?_ (frame_tellLeft _ _) (by decide) (by decide)
      exact (frame_reachMs _ _).chain (frame_removeSlot _ _ _) (by decide) (by decide)

theorem frame_claimExpiry (s : State) : SameBut (.clock :: .sp :: .lnc :: recordParts) s s.claimExpiry := by
  unfold State.claimExpiry
  split
  · exact SameBut.refl _ _
  · dsimp only
    refine SameBut.chain (xs := .clock :: .sp :: .lnc :: recordParts) ?_ (frame_offered _) (by decide) (by decide)
    split
    · exact (frame_reachMs _ _).chain (frame_endClaim _ _ _ _) (by decide) (by decide)
    · exact (frame_reachMs _ _).chain (frame_takeOver _) (by decide) (by decide)

theorem frame_settleExpiry (s : State) : SameBut (.clock :: .sp :: teParts) s s.settleExpiry := by
  unfold State.settleExpiry
  split
  · exact SameBut.refl _ _
  · dsimp only
    refine SameBut.chain (xs := [.clock, .lnc, .sp, .te, .cu]) ?_ (frame_settled _) (by decide) (by decide)
    refine SameBut.chain (xs := [.clock, .lnc, .sp, .cu]) ?_ (frame_handOverToBest _) (by decide) (by decide)
    exact (frame_reachMs _ _).chain (frame_setCu _ _) (by decide) (by decide)

theorem frame_commitAll (s : State) : SameBut (.sp :: .lnc :: recordParts) s s.commitAll := by
  have h : SameBut recordParts s ((s.setCu { s.cu with commitAllDue := false }).commitAllLines) :=
    (frame_setCu _ _).chain (frame_commitAllLines _) (by decide) (by decide)
  unfold State.commitAll
  dsimp only
  refine frame_ite ?_ (SameBut.refl _ _)
  refine SameBut.chain (xs := .lnc :: recordParts) ?_ (frame_offered _) (by decide) (by decide)
  split
  · exact h.chain (frame_completeRelease _ _) (by decide) (by decide)
  · exact h.mono (by decide)

/-! ## Viewing -/

theorem frame_deliverTail (s : State) : SameBut [.lnc, .roster, .vw, .sp] s s.deliverTail := by
  refine frame_deliver _ _ (fun t f => ?_) (by decide) s
  refine SameBut.chain (xs := [.roster, .vw]) ?_ (frame_compose _) (by decide) (by decide)
  exact (frame_refreshSlot _ _).chain (frame_takeBody (xs := [.vw]) _ _ fun _ => frame_tailAtViewer _ _) (by decide) (by decide)

theorem frame_deliverLine (s : State) : SameBut [.lnc, .roster, .vw, .latches, .sp] s s.deliverLine := by
  refine frame_deliver _ _ (fun t f => ?_) (by decide) s
  refine SameBut.chain (xs := [.roster, .vw, .latches]) ?_ (frame_compose _) (by decide) (by decide)
  exact (frame_refreshSlot _ _).chain (frame_takeBody (xs := [.vw, .latches]) _ _ fun _ => frame_lineAtViewer _ _) (by decide)
    (by decide)

theorem frame_gapExpiry (s : State) (n : Nat) : SameBut [.clock, .lnc, .sp, .vw, .pub, .latches] s (s.gapExpiry n) := by
  unfold State.gapExpiry
  split
  · dsimp only
    refine frame_ite ?_ ?_
    · refine SameBut.chain (xs := [.clock, .lnc, .sp, .vw]) ?_ (frame_offered _) (by decide) (by decide)
      rename_i gapAt st _
      exact (frame_reachMs s gapAt).chain
        ((SameBut.foldl _ (fun s n => frame_askedAgain s n) _ _).trans (frame_makeAsk _ _ _ _)) (by decide) (by decide)
    · refine SameBut.chain (xs := [.clock, .lnc, .sp, .vw, .latches]) ?_ (frame_compose _) (by decide) (by decide)
      exact (frame_reachMs _ _).chain (frame_loseLine _ _) (by decide) (by decide)
  · exact SameBut.refl _ _

theorem frame_rowSendStart (s : State) : SameBut [.sp] s s.rowSendStart := by
  unfold State.rowSendStart
  split
  · exact frame_ite (SameBut.refl _ _) (frame_setSp _ _)
  · exact SameBut.refl _ _

theorem frame_busyChange (s : State) (h : Bool) : SameBut [.sp] s (s.busyChange h) := frame_ite (SameBut.refl _ _) (frame_setSp _ _)

theorem frame_rowSendComplete (s : State) : SameBut [.sp] s s.rowSendComplete := by
  unfold State.rowSendComplete
  split
  · exact SameBut.refl _ _
  · exact frame_ite (SameBut.refl _ _) (frame_setSp _ _)

/-! ## Host commands -/

theorem frame_commandTakeBusy (s : State) : SameBut [.lcp] s s.commandTakeBusy := frame_ite (frame_give _ _) (SameBut.refl _ _)

theorem frame_shortCommand (s : State) (bs : List Byte) : SameBut [.lcp] s (s.shortCommand bs) := frame_give _ _

theorem frame_responseRead (s : State) (n : Nat) : SameBut [.lcp] s (s.responseRead n) := by
  unfold State.responseRead
  split
  · refine frame_ite ?_ (frame_give _ _)
    simp [SameBut, State.give]
  · exact frame_give _ _

theorem frame_unknownCommand (s : State) (c : Byte) (ps : List Byte) : SameBut [.lcp] s (s.unknownCommand c ps) :=
  frame_takeCommand _ _ _ (fun _ => frame_reply _ _ _) (by decide) s

theorem frame_configure (s : State) (ps : List Byte) : SameBut [.lcp, .kcu] s (s.configure ps) := by
  refine frame_takeCommand _ _ _ (fun t => frame_checked _ _ (fun g => ?_) (by decide)) (by decide) s
  simp [SameBut, State.configureWith, State.adoptSettings, State.ok, State.reply]

theorem frame_load (s : State) (ps : List Byte) : SameBut [.lcp, .arb] s (s.load ps) :=
  frame_takeCommand _ _ _ (fun _ => frame_checked _ _ (fun _ => frame_loadOn _ _ _) (by decide)) (by decide) s

theorem frame_readDict (s : State) (ps : List Byte) : SameBut [.lcp, .arb] s (s.readDict ps) :=
  frame_takeCommand _ _ _ (fun _ => frame_checked _ _ (fun _ => frame_readOn _ _ _ _) (by decide)) (by decide) s

theorem frame_goTaken (s : State) : SameBut goParts s s.goTaken := by
  unfold State.goTaken
  split
  · exact (frame_reply _ _ _).mono (by decide)
  · exact frame_goDirectory _ _

theorem frame_go (s : State) (ps : List Byte) : SameBut goParts s (s.go ps) :=
  frame_takeCommand _ _ _ (fun _ => frame_checked _ _ (fun _ => frame_goTaken _) (by decide)) (by decide) s

/-- What RESTART may change: everything but the clocks, the notes and the event latches. -/
abbrev restartParts : List Part := [.kcu, .sq, .mem, .du, .cache, .arb, .te, .tb, .lnc, .pub, .roster, .cu, .vw, .sp, .lcp]

theorem frame_restarted (s : State) : SameBut restartParts s s.restarted := by
  simp [SameBut, State.restarted, State.blocksRestarted, State.restartCapture, State.ok, State.reply]

theorem frame_restart (s : State) (ps : List Byte) : SameBut restartParts s (s.restart ps) :=
  frame_takeCommand _ _ _ (fun _ => frame_checked _ _ (fun _ => frame_restarted _) (by decide)) (by decide) s

theorem frame_queueEntry (s : State) (e : DefEntry) : SameBut [.lcp, .du] s (s.queueEntry e) :=
  frame_ite ((frame_setDu _ _).chain (frame_reply _ _ _) (by decide) (by decide)) ((frame_reply _ _ _).mono (by decide))

theorem frame_hostDefine (s : State) (ps : List Byte) : SameBut [.lcp, .du] s (s.hostDefine ps) := by
  refine frame_takeCommand _ _ _ (fun t => frame_checked _ _ (fun p => ?_) (by decide)) (by decide) s
  exact frame_queueEntry _ _

theorem frame_hostForget (s : State) (ps : List Byte) : SameBut [.lcp, .du] s (s.hostForget ps) := by
  refine frame_takeCommand _ _ _ (fun t => frame_checked _ _ (fun p => ?_) (by decide)) (by decide) s
  exact frame_queueEntry _ _

theorem frame_hostFence (s : State) (f : FenceScope) : SameBut (.lcp :: .du :: .sp :: teParts) s (s.hostFence f) := by
  refine frame_ite ((frame_reply _ _ _).mono (by decide)) ?_
  refine SameBut.chain (xs := [.lcp, .du, .cache, .te]) ?_ (frame_settled _) (by decide) (by decide)
  refine SameBut.chain (xs := [.du, .cache, .te]) ?_ (frame_reply _ _ _) (by decide) (by decide)
  exact (frame_fence _ _).chain (frame_raiseGeneration _) (by decide) (by decide)

theorem frame_flushCache (s : State) (k : Byte) (rs : List Byte) (f : Option FenceScope) :
    SameBut (.lcp :: .du :: .sp :: teParts) s (s.flushCache k rs f) :=
  frame_takeCommand _ _ _ (fun _ => frame_checked _ _ (fun _ => frame_hostFence _ _) (by decide)) (by decide) s

theorem frame_flushFor (s : State) (q : CustodyRequest) : SameBut teParts s (s.flushFor q) := by
  unfold State.flushFor
  split
  · exact frame_teRun _
  · exact SameBut.refl _ _

theorem frame_hostRequest (s : State) (q : CustodyRequest) : SameBut (.lcp :: .sp :: teParts) s (s.hostRequest q) := by
  refine frame_ite ?_ ((frame_reply _ _ _).mono (by decide))
  refine SameBut.chain (xs := .lcp :: teParts) ?_ (frame_offered _) (by decide) (by decide)
  refine SameBut.chain (xs := teParts) ?_ (frame_reply _ _ _) (by decide) (by decide)
  exact (frame_takeRequest _ _).chain (frame_flushFor _ _) (by decide) (by decide)

theorem frame_custody (s : State) (k : Byte) (rs : List Byte) (q : CustodyRequest) :
    SameBut (.lcp :: .sp :: teParts) s (s.custody k rs q) := by
  refine frame_takeCommand _ _ _ (fun t => frame_checked _ _ (fun p => ?_) (by decide)) (by decide) s
  exact frame_hostRequest _ _

theorem frame_setPane (s : State) (p : Bool × PaneSource × Nat × Bool) : SameBut [.lcp, .vw, .sp] s (s.setPane p) := by
  unfold State.setPane
  dsimp only
  refine SameBut.chain (xs := [.vw, .sp]) ?_ (frame_reply _ _ _) (by decide) (by decide)
  refine SameBut.chain (xs := [.vw]) ?_ (frame_compose _) (by decide) (by decide)
  exact (frame_setVw _ _).trans (frame_releasePins _)

theorem frame_paneCommand (s : State) (ps : List Byte) : SameBut [.lcp, .vw, .sp] s (s.paneCommand ps) :=
  frame_takeCommand _ _ _ (fun _ => frame_checked _ _ (fun _ => frame_setPane _ _) (by decide)) (by decide) s

theorem frame_giveLines (s : State) (a : Bool) (n : Nat) : SameBut [.lcp] s (s.giveLines a n) := by
  simp [SameBut, State.giveLines, State.reply]

theorem frame_readLines (s : State) (k : Byte) (rs : List Byte) (a : Bool) : SameBut [.lcp] s (s.readLines k rs a) :=
  frame_takeCommand _ _ _ (fun _ => frame_checked _ _ (fun _ => frame_giveLines _ _ _) (by decide)) (by decide) s

theorem frame_giveNotes (s : State) (a : Bool) (n : Nat) : SameBut [.lcp, .notes] s (s.giveNotes a n) := by
  unfold State.giveNotes
  dsimp only
  exact SameBut.chain (frame_ite (xs := [.notes]) (frame_setNotes _ _) (SameBut.refl _ _)) (frame_reply _ _ _) (by decide) (by decide)

theorem frame_readNotes (s : State) (k : Byte) (rs : List Byte) (a : Bool) : SameBut [.lcp, .notes] s (s.readNotes k rs a) :=
  frame_takeCommand _ _ _ (fun _ => frame_checked _ _ (fun _ => frame_giveNotes _ _ _) (by decide)) (by decide) s

theorem frame_readStatus (s : State) (ps : List Byte) : SameBut [.lcp, .pub, .lnc] s (s.readStatus ps) := by
  refine frame_takeCommand _ _ _ (fun t => frame_checked _ _ (fun _ => ?_) (by decide)) (by decide) s
  exact SameBut.chain ((frame_updateCredit _).chain (frame_reply _ _ _) (zs := [.pub, .lcp]) (by decide) (by decide)) (frame_choose _)
    (by decide) (by decide)

theorem frame_readRoster (s : State) (ps : List Byte) : SameBut [.lcp] s (s.readRoster ps) :=
  frame_takeCommand _ _ _ (fun _ => frame_checked _ _ (fun _ => frame_reply _ _ _) (by decide)) (by decide) s

theorem frame_giveEvent (s : State) : SameBut [.lcp, .latches] s s.giveEvent := by
  unfold State.giveEvent
  split
  · exact (frame_setLcp _ _).chain (frame_reply _ _ _) (by decide) (by decide)
  · exact (frame_reply _ _ _).mono (by decide)

theorem frame_readEvent (s : State) (ps : List Byte) : SameBut [.lcp, .latches] s (s.readEvent ps) :=
  frame_takeCommand _ _ _ (fun _ => frame_checked _ _ (fun _ => frame_giveEvent _) (by decide)) (by decide) s

theorem frame_setMask (s : State) (ps : List Byte) : SameBut [.lcp] s (s.setMask ps) := by
  refine frame_takeCommand _ _ _ (fun t => frame_checked _ _ (fun m => ?_) (by decide)) (by decide) s
  simp [SameBut, State.ok, State.reply]

end Sys2Proof.Machine
end

