-- ==== Sys2Proof/Laws/Memory.lean ====
section
/-! SUPPORT. Dictionary memory: every operation keeps the canonical form, and reads after writes. -/

namespace Sys2Proof.Machine

/-! ## Reads after writes -/

theorem byteAt_setByte (m : Memory) (a : Nat) (v : Byte) (b : Nat) :
    Memory.wfFrom 0 m = true → Memory.byteAt (Memory.setByte m a v) b = if b = a then v else Memory.byteAt m b := by
  suffices h : ∀ lo, Memory.wfFrom lo m = true →
      Memory.byteAt (Memory.setByte m a v) b = if b = a then v else Memory.byteAt m b from h 0
  induction m with
  | nil =>
    intro lo _
    by_cases hv : v = Memory.unlisted
    · subst hv; simp [Memory.setByte, Memory.byteAt]
    · simp [Memory.setByte, Memory.byteAt, hv]
  | cons c rest ih =>
    intro lo h
    obtain ⟨x, w⟩ := c
    have low : ∀ (l : Memory) (k y : Nat), Memory.wfFrom k l = true → y < k → Memory.byteAt l y = Memory.unlisted := by
      intro l
      induction l with
      | nil => intro k y _ _; rfl
      | cons d r ihr =>
        intro k y hk hy
        obtain ⟨z, u⟩ := d
        simp only [Memory.wfFrom, Bool.and_eq_true, decide_eq_true_eq] at hk
        simp only [Memory.byteAt]
        rw [if_neg (by omega)]
        exact ihr (z + 1) y hk.2 (by omega)
    simp only [Memory.wfFrom, Bool.and_eq_true, decide_eq_true_eq] at h
    have below := fun y hy => low rest (x + 1) y h.2 hy
    simp only [Memory.setByte]
    by_cases h1 : a < x
    · rw [if_pos h1]
      by_cases hv : v = Memory.unlisted
      · rw [if_pos hv]
        by_cases hb : b = a
        · rw [if_pos hb, hb, hv]
          simp only [Memory.byteAt]
          rw [if_neg (by omega)]
          exact below a (by omega)
        · rw [if_neg hb]
      · rw [if_neg hv]
        simp only [Memory.byteAt]
    · rw [if_neg h1]
      by_cases h2 : a = x
      · rw [if_pos h2]
        by_cases hv : v = Memory.unlisted
        · rw [if_pos hv]
          by_cases hb : b = a
          · rw [if_pos hb, hb, hv]
            exact below a (by omega)
          · rw [if_neg hb]
            simp only [Memory.byteAt]
            rw [if_neg (by omega)]
        · rw [if_neg hv]
          simp only [Memory.byteAt]
          by_cases hb : b = a
          · rw [if_pos hb, if_pos hb]
          · rw [if_neg hb, if_neg hb, if_neg (by omega)]
      · rw [if_neg h2]
        simp only [Memory.byteAt]
        by_cases hb : b = x
        · rw [if_pos hb, if_neg (by omega), if_pos hb]
        · rw [if_neg hb, if_neg hb]
          exact ih (x + 1) h.2

/-! ## The canonical form -/

theorem wfFrom_mono (m : Memory) {lo hi : Nat} (h : Memory.wfFrom hi m = true) (hl : lo ≤ hi) : Memory.wfFrom lo m = true := by
  cases m with
  | nil => rfl
  | cons c rest =>
    obtain ⟨x, w⟩ := c
    simp only [Memory.wfFrom, Bool.and_eq_true, decide_eq_true_eq] at h ⊢
    exact ⟨⟨⟨by omega, h.1.1.2⟩, h.1.2⟩, h.2⟩

theorem wfFrom_setByte (m : Memory) (a : Nat) (v : Byte) (lo : Nat) (hm : Memory.wfFrom lo m = true) (hl : lo ≤ a)
    (ha : a < memSize) : Memory.wfFrom lo (Memory.setByte m a v) = true := by
  induction m generalizing lo with
  | nil =>
    by_cases hv : v = Memory.unlisted
    · simp [Memory.setByte, hv, Memory.wfFrom]
    · simp [Memory.setByte, hv, Memory.wfFrom, hl, ha]
  | cons c rest ih =>
    obtain ⟨x, w⟩ := c
    have hm' := hm
    simp only [Memory.wfFrom, Bool.and_eq_true, decide_eq_true_eq] at hm
    simp only [Memory.setByte]
    by_cases h1 : a < x
    · rw [if_pos h1]
      by_cases hv : v = Memory.unlisted
      · rw [if_pos hv]; exact hm'
      · rw [if_neg hv]
        simp only [Memory.wfFrom, Bool.and_eq_true, decide_eq_true_eq]
        exact ⟨⟨⟨hl, ha⟩, hv⟩, ⟨⟨by omega, hm.1.1.2⟩, hm.1.2⟩, hm.2⟩
    · rw [if_neg h1]
      by_cases h2 : a = x
      · rw [if_pos h2]
        by_cases hv : v = Memory.unlisted
        · rw [if_pos hv]; exact wfFrom_mono rest hm.2 (by omega)
        · rw [if_neg hv]
          simp only [Memory.wfFrom, Bool.and_eq_true, decide_eq_true_eq]
          exact ⟨⟨⟨hl, ha⟩, hv⟩, h2 ▸ hm.2⟩
      · rw [if_neg h2]
        simp only [Memory.wfFrom, Bool.and_eq_true, decide_eq_true_eq]
        exact ⟨hm.1, ih (x + 1) hm.2 (by omega)⟩

theorem wf_setBytes (m : Memory) (a : Nat) (bs : List Byte) (hm : m.wf = true) (ha : a + bs.length ≤ memSize) :
    (m.setBytes a bs).wf = true := by
  induction bs generalizing m a with
  | nil => exact hm
  | cons v rest ih =>
    simp only [List.length_cons] at ha
    exact ih _ _ (wfFrom_setByte m a v 0 hm (by omega) (by omega)) (by omega)

/-- A granted operation keeps the canonical form, whatever its addresses. -/
theorem wf_served (m : Memory) (op : MemOp) (hm : m.wf = true) : (m.served op).wf = true := by
  cases op with
  | read a n => exact hm
  | write a bs =>
    unfold Memory.served
    dsimp only
    split
    · exact wf_setBytes m a bs hm (by assumption)
    · exact hm

theorem wf_memAtReset (s : State) (hm : s.mem.wf = true) : s.memAtReset.wf = true := by
  unfold State.memAtReset
  split
  · exact wf_served _ _ hm
  · exact hm

/-- What memory holds after bytes are placed: the placed byte inside their range, the byte before outside it. -/
theorem byteAt_setBytes (m : Memory) (a : Nat) (bs : List Byte) (b : Nat) (hm : m.wf = true) (ha : a + bs.length ≤ memSize) :
    Memory.byteAt (m.setBytes a bs) b = if a ≤ b ∧ b < a + bs.length then bs.getD (b - a) 0 else Memory.byteAt m b := by
  induction bs generalizing m a with
  | nil => simp [Memory.setBytes]
  | cons v rest ih =>
    simp only [List.length_cons] at ha
    have hk : (Memory.setByte m a v).wf = true := wfFrom_setByte m a v 0 hm (by omega) (by omega)
    simp only [Memory.setBytes, List.length_cons]
    rw [ih (Memory.setByte m a v) (a + 1) hk (by omega), byteAt_setByte m a v b hm]
    by_cases h1 : b = a
    · subst h1
      rw [if_neg (by omega), if_pos rfl, if_pos (by omega)]
      simp
    · by_cases h2 : a + 1 ≤ b ∧ b < a + 1 + rest.length
      · rw [if_pos h2, if_pos (by omega)]
        have : b - a = (b - (a + 1)) + 1 := by omega
        rw [this, List.getD_cons_succ]
      · rw [if_neg h2, if_neg h1, if_neg (by omega)]

theorem served_read (m : Memory) (a n : Nat) : m.served (.read a n) = m := rfl

theorem bytesAt_length (m : Memory) (a n : Nat) : (m.bytesAt a n).length = n := by
  induction n generalizing a with
  | zero => rfl
  | succ n ih => simp [Memory.bytesAt, ih]

/-! ## The Store Arbiter -/

theorem request_idle (a : Arbiter) (r : Request) (h : a.inService = none) (hb : a.batch = []) :
    a.request r = { a with inService := some r } := by simp [Arbiter.request, h, hb]

theorem request_busy (a : Arbiter) (r : Request) (h : a.inService ≠ none) :
    a.request r = { a with stacked := stackRequest r a.stacked } := by simp [Arbiter.request, h]

theorem stackRequest_length (r : Request) (l : List Request) : (stackRequest r l).length = l.length + 1 := by
  induction l with
  | nil => rfl
  | cons q rest ih =>
    simp only [stackRequest]
    split
    · simp
    · simp [ih]

end Sys2Proof.Machine
end

