-- ==== Sys2Proof/Laws/Region.lean ====
section
/-! SUPPORT. Renderings of the open region: a line less at each commit, and the bounds of R90. -/

namespace Sys2Proof.Machine

/-! ## A line above (5.4) -/

/-- The pen with the line `x` above its lines. -/
def Pen.under (x : List Byte) (p : Pen) : Pen := { p with done := x :: p.done }

@[simp] theorem under_cur (x : List Byte) (p : Pen) : (p.under x).cur = p.cur := rfl
@[simp] theorem under_lineStart (x : List Byte) (p : Pen) : (p.under x).lineStart = p.lineStart := rfl
@[simp] theorem under_format (x : List Byte) (p : Pen) : (p.under x).format = p.format := rfl
@[simp] theorem under_done (x : List Byte) (p : Pen) : (p.under x).done = x :: p.done := rfl

theorem under_newLine (x : List Byte) (p : Pen) (s : List Byte) : (p.under x).newLine s = (p.newLine s).under x := rfl

theorem under_newLines (x : List Byte) (l : List (List Byte)) (p : Pen) : l.foldl Pen.newLine (p.under x) = (l.foldl Pen.newLine p).under x := by
  induction l generalizing p with
  | nil => rfl
  | cons a l ih => simp only [List.foldl_cons, under_newLine, ih]

theorem under_placePieces (x : List Byte) (p : Pen) (l : List (List Byte)) :
    (p.under x).placePieces l = (p.placePieces l).under x := by
  cases l with
  | nil => rfl
  | cons a l => exact under_newLines x l { p with cur := p.cur ++ a }

theorem under_placeWord (x : List Byte) (p : Pen) (w sep : Nat) (word : List Byte) :
    (p.under x).placeWord w sep word = (p.placeWord w sep word).under x := by
  unfold Pen.placeWord
  have e : (if (p.under x).lineStart = true then 0 else sep) = (if p.lineStart = true then 0 else sep) := rfl
  rw [e]
  generalize (if p.lineStart = true then 0 else sep) = sp
  by_cases h : p.cur.length + sp + word.length ≤ w
  · have h' : (p.under x).cur.length + sp + word.length ≤ w := h
    simp only [if_pos h, if_pos h']; rfl
  · have h' : ¬ (p.under x).cur.length + sp + word.length ≤ w := h
    by_cases k : word.length ≤ w
    · simp only [if_neg h, if_neg h', if_pos k]; rfl
    · simp only [if_neg h, if_neg h', if_neg k]
      by_cases e : p.cur.isEmpty = true
      · have e' : (p.under x).cur.isEmpty = true := e
        simp only [if_pos e, if_pos e', under_placePieces]; rfl
      · have e' : ¬ (p.under x).cur.isEmpty = true := e
        simp only [if_neg e, if_neg e', under_newLine, under_placePieces]; rfl

theorem under_wordLine (x : List Byte) (p : Pen) (w sep : Nat) (word : List Byte) :
    (p.under x).wordLine w sep word = p.wordLine w sep word + 1 := by
  unfold Pen.wordLine
  have e : (if (p.under x).lineStart = true then 0 else sep) = (if p.lineStart = true then 0 else sep) := rfl
  rw [e]
  generalize (if p.lineStart = true then 0 else sep) = sp
  by_cases h : p.cur.length + sp + word.length ≤ w
  · simp only [under_cur, under_done, List.length_cons, h, if_true]
  · by_cases k : word.length ≤ w
    · simp only [under_cur, under_done, List.length_cons, h, k, if_true, if_false]
    · by_cases c : p.cur.isEmpty = true
      · simp only [under_cur, under_done, List.length_cons, h, k, c, if_true, if_false]
      · simp only [under_cur, under_done, List.length_cons, h, k, c, if_false, Bool.false_eq_true]

theorem under_para (x : List Byte) (p : Pen) (n : Nat) : (p.under x).para n = (p.para n).under x := by
  unfold Pen.para
  by_cases h : p.lineStart = true
  · have h' : (p.under x).lineStart = true := h
    simp only [if_pos h, if_pos h']; rfl
  · have h' : ¬ (p.under x).lineStart = true := h
    simp only [if_neg h, if_neg h']; rfl

/-- The text so far with the line `x` above. -/
def TextPen.under (x : List Byte) (t : TextPen) : TextPen := { t with pen := t.pen.under x, first := t.first.map (· + 1) }

theorem under_getD (o : Option Nat) (n : Nat) : (o.map (· + 1)).getD (n + 1) = o.getD n + 1 := by cases o <;> rfl

theorem under_endWord (x : List Byte) (t : TextPen) (g : Setting) : (t.under x).endWord g = (t.endWord g).under x := by
  unfold TextPen.endWord
  by_cases h : t.word.isEmpty = true
  · have h' : (t.under x).word.isEmpty = true := h
    simp only [if_pos h, if_pos h']
  · have h' : ¬ (t.under x).word.isEmpty = true := h
    simp only [if_neg h, TextPen.under, under_placeWord, under_wordLine, under_getD, Option.map_some]
    rfl

theorem under_byte (x : List Byte) (t : TextPen) (g : Setting) (c : Bool) (b : Byte) :
    (t.under x).byte g c b = (t.byte g c b).under x := by
  simp only [TextPen.byte]
  split
  · exact under_endWord x t g
  · split
    · simp only [TextPen.char]
      split <;> rfl
    · split
      · rfl
      · split
        · rfl
        · split
          · simp only [TextPen.para, under_endWord]
            generalize t.endWord g = v
            simp only [TextPen.under, under_para, under_done, List.length_cons]
            split
            · rfl
            · simp only [under_getD, Option.map_some]
          · rfl

theorem under_bytes (x : List Byte) (g : Setting) (c : Bool) (bs : List Byte) (t : TextPen) :
    bs.foldl (fun (t : TextPen) (b : Byte) => t.byte g c b) (t.under x)
      = (bs.foldl (fun (t : TextPen) (b : Byte) => t.byte g c b) t).under x := by
  induction bs generalizing t with
  | nil => rfl
  | cons b bs ih => simp only [List.foldl_cons, under_byte, ih]

/-- Placement depends on nothing above the line of the insertion point. -/
theorem under_placeUnit (x : List Byte) (p : Pen) (w i : Nat) (u : TextUnit) :
    (p.under x).placeUnit w i u = ((p.placeUnit w i u).1.under x, (p.placeUnit w i u).2 + 1) := by
  simp only [Pen.placeUnit, under_format]
  have h := under_bytes x { width := w, indent := i, sep := firstSep p.format u.text } (decide (u.kind ≠ .untranslate)) u.text
    { pen := p, word := [], words := 0, first := none }
  simp only [TextPen.under, Option.map_none] at h
  rw [h]
  have k := under_endWord x
    (u.text.foldl (fun (t : TextPen) (b : Byte) => t.byte { width := w, indent := i, sep := firstSep p.format u.text }
      (decide (u.kind ≠ .untranslate)) b) { pen := p, word := [], words := 0, first := none })
    { width := w, indent := i, sep := firstSep p.format u.text }
  simp only [TextPen.under] at k
  rw [k]
  simp only [under_done, List.length_cons, under_getD, under_format]
  rfl

theorem under_renderUnits (x : List Byte) (w i : Nat) (us : List TextUnit) (p : Pen) :
    renderUnits w i (p.under x) us
      = ((renderUnits w i p us).1.under x, (renderUnits w i p us).2.map fun u => { u with anchor := u.anchor + 1 }) := by
  induction us generalizing p with
  | nil => rfl
  | cons u us ih => simp only [renderUnits, under_placeUnit, ih, under_format, List.map_cons]

/-! ## A rendering does not read snapshots and anchors (R88) -/

theorem placeUnit_shape (p : Pen) (w i : Nat) (u : TextUnit) (f : Format) (n : Nat) :
    p.placeUnit w i { u with snapshot := f, anchor := n } = p.placeUnit w i u := rfl

/-- The units of a rendering, rendered again from the same pen. -/
theorem renderUnits_again (w i : Nat) (us : List TextUnit) (p : Pen) :
    renderUnits w i p (renderUnits w i p us).2 = renderUnits w i p us := by
  induction us generalizing p with
  | nil => rfl
  | cons u us ih => simp only [renderUnits, placeUnit_shape, ih]

theorem renderUnits_anchors (w i : Nat) (us : List TextUnit) (p : Pen) (k : Nat) :
    renderUnits w i p (us.map fun u => { u with anchor := u.anchor + k }) = renderUnits w i p us := by
  induction us generalizing p with
  | nil => rfl
  | cons u us ih => simp only [List.map_cons, renderUnits, placeUnit_shape, ih]

theorem renderUnits_append (w i : Nat) (us vs : List TextUnit) (p : Pen) :
    renderUnits w i p (us ++ vs)
      = ((renderUnits w i (renderUnits w i p us).1 vs).1,
         (renderUnits w i p us).2 ++ (renderUnits w i (renderUnits w i p us).1 vs).2) := by
  induction us generalizing p with
  | nil => rfl
  | cons u us ih => simp only [List.cons_append, renderUnits, ih]

theorem renderUnits_length (w i : Nat) (us : List TextUnit) (p : Pen) : (renderUnits w i p us).2.length = us.length := by
  induction us generalizing p with
  | nil => rfl
  | cons u us ih => simp only [renderUnits, List.length_cons, ih]

/-- A rendering rendered again is the same. -/
theorem render_again (r : Region) (w i : Nat) : (r.render w i).render w i = r.render w i := by
  simp only [Region.render, renderUnits_again]

theorem render_units_length (r : Region) (w i : Nat) : (r.render w i).units.length = r.units.length :=
  renderUnits_length w i r.units r.lead.pen

theorem render_lead (r : Region) (w i : Nat) : (r.render w i).lead = r.lead := rfl

theorem pen_lines_pos (p : Pen) : 1 ≤ p.lines.length := by simp [Pen.lines]

theorem render_lines_pos (r : Region) (w i : Nat) : 1 ≤ (r.render w i).lines.length := pen_lines_pos _

/-! ## Lines only grow, and no unit is anchored beyond them -/

theorem newLines_done (l : List (List Byte)) (p : Pen) : (l.foldl Pen.newLine p).done.length = p.done.length + l.length := by
  induction l generalizing p with
  | nil => rfl
  | cons a l ih => simp only [List.foldl_cons, ih, Pen.newLine, List.length_append, List.length_cons, List.length_nil]; omega

theorem placePieces_done (p : Pen) (l : List (List Byte)) : (p.placePieces l).done.length = p.done.length + (l.length - 1) := by
  cases l with
  | nil => rfl
  | cons a l => simp only [Pen.placePieces, newLines_done, List.length_cons, Nat.add_sub_cancel]

theorem placeWord_grows (p : Pen) (w sep : Nat) (word : List Byte) :
    p.done.length ≤ p.wordLine w sep word ∧ p.wordLine w sep word ≤ (p.placeWord w sep word).done.length := by
  unfold Pen.wordLine Pen.placeWord
  dsimp only
  generalize (if p.lineStart = true then 0 else sep) = sp
  by_cases h : p.cur.length + sp + word.length ≤ w
  · simp only [if_pos h]; omega
  · by_cases k : word.length ≤ w
    · simp only [if_neg h, if_pos k, Pen.newLine, List.length_append, List.length_cons, List.length_nil]; omega
    · by_cases c : p.cur.isEmpty = true
      · simp only [if_neg h, if_neg k, if_pos c, placePieces_done]; omega
      · simp only [if_neg h, if_neg k, if_neg c, placePieces_done, Pen.newLine, List.length_append, List.length_cons,
          List.length_nil]
        omega

theorem para_grows (p : Pen) (n : Nat) : p.done.length ≤ (p.para n).done.length := by
  unfold Pen.para
  split
  · exact Nat.le_refl _
  · simp [Pen.newLine]

/-- The first line a text placed characters on is not below its pen. -/
def TextPen.Sound (t : TextPen) : Prop := ∀ n, t.first = some n → n ≤ t.pen.done.length

theorem endWord_sound (t : TextPen) (g : Setting) (h : t.Sound) :
    (t.endWord g).Sound ∧ t.pen.done.length ≤ (t.endWord g).pen.done.length := by
  unfold TextPen.endWord
  split
  · exact ⟨h, Nat.le_refl _⟩
  · dsimp only
    have k := placeWord_grows t.pen g.width (if t.words = 0 then g.sep else 1) t.word
    refine ⟨?_, by omega⟩
    intro n hn
    dsimp only at hn ⊢
    cases hf : t.first with
    | none => rw [hf] at hn; simp only [Option.getD_none, Option.some.injEq] at hn; omega
    | some m =>
      rw [hf] at hn
      simp only [Option.getD_some, Option.some.injEq] at hn
      have := h m hf
      omega

theorem byte_sound (t : TextPen) (g : Setting) (c : Bool) (b : Byte) (h : t.Sound) :
    (t.byte g c b).Sound ∧ t.pen.done.length ≤ (t.byte g c b).pen.done.length := by
  unfold TextPen.byte
  split
  · exact endWord_sound t g h
  · split
    · unfold TextPen.char
      split <;> exact ⟨h, Nat.le_refl _⟩
    · split
      · exact ⟨h, Nat.le_refl _⟩
      · split
        · exact ⟨h, Nat.le_refl _⟩
        · split
          · obtain ⟨h1, h2⟩ := endWord_sound t g h
            have k := para_grows (t.endWord g).pen g.indent
            refine ⟨?_, Nat.le_trans h2 k⟩
            intro n hn
            unfold TextPen.para at hn ⊢
            dsimp only at hn ⊢
            split at hn
            · exact Nat.le_trans (h1 n hn) k
            · cases hf : (t.endWord g).first with
              | none => rw [hf] at hn; simp only [Option.getD_none, Option.some.injEq] at hn; omega
              | some m =>
                rw [hf] at hn
                simp only [Option.getD_some, Option.some.injEq] at hn
                have := h1 m hf
                omega
          · exact ⟨h, Nat.le_refl _⟩

theorem bytes_sound (g : Setting) (c : Bool) (bs : List Byte) (t : TextPen) (h : t.Sound) :
    (bs.foldl (fun (t : TextPen) (b : Byte) => t.byte g c b) t).Sound
    ∧ t.pen.done.length ≤ (bs.foldl (fun (t : TextPen) (b : Byte) => t.byte g c b) t).pen.done.length := by
  induction bs generalizing t with
  | nil => exact ⟨h, Nat.le_refl _⟩
  | cons b bs ih =>
    obtain ⟨h1, h2⟩ := byte_sound t g c b h
    obtain ⟨k1, k2⟩ := ih (t.byte g c b) h1
    exact ⟨k1, Nat.le_trans h2 k2⟩

/-- A unit is anchored at or above the insertion point after it, which is at or below the one before it. -/
theorem placeUnit_grows (p : Pen) (w i : Nat) (u : TextUnit) :
    (p.placeUnit w i u).2 ≤ (p.placeUnit w i u).1.done.length ∧ p.done.length ≤ (p.placeUnit w i u).1.done.length := by
  unfold Pen.placeUnit
  dsimp only
  generalize hg : ({ width := w, indent := i, sep := firstSep p.format u.text } : Setting) = g
  obtain ⟨h1, h2⟩ := bytes_sound g (decide (u.kind ≠ .untranslate)) u.text { pen := p, word := [], words := 0, first := none }
    (fun n hn => by simp at hn)
  obtain ⟨k1, k2⟩ := endWord_sound _ g h1
  refine ⟨?_, Nat.le_trans h2 k2⟩
  generalize (TextPen.endWord _ g) = v at k1 k2
  cases hf : v.first with
  | none => exact Nat.le_refl _
  | some n => exact k1 n hf

theorem renderUnits_grows (w i : Nat) (us : List TextUnit) (p : Pen) :
    p.done.length ≤ (renderUnits w i p us).1.done.length
    ∧ ∀ u ∈ (renderUnits w i p us).2, u.anchor ≤ (renderUnits w i p us).1.done.length := by
  induction us generalizing p with
  | nil => exact ⟨Nat.le_refl _, by simp [renderUnits]⟩
  | cons u us ih =>
    obtain ⟨h1, h2⟩ := placeUnit_grows p w i u
    obtain ⟨k1, k2⟩ := ih (p.placeUnit w i u).1
    simp only [renderUnits]
    refine ⟨Nat.le_trans h2 k1, ?_⟩
    intro v hv
    rcases List.mem_cons.mp hv with rfl | hv
    · exact Nat.le_trans h1 k1
    · exact k2 v hv

/-! ## A unit that leaves the first line (R93 step 2) -/

theorem newLines_start (l : List (List Byte)) (p : Pen) (b : Bool) :
    l.foldl Pen.newLine { p with lineStart := b } = { l.foldl Pen.newLine p with lineStart := b } := by
  induction l generalizing p with
  | nil => rfl
  | cons a l ih => exact ih (p.newLine a)

/-- The pieces of an over-long word do not read line-start. -/
theorem placePieces_start (p : Pen) (b : Bool) (l : List (List Byte)) :
    ({ p with lineStart := b } : Pen).placePieces l = { p.placePieces l with lineStart := b } := by
  cases l with
  | nil => rfl
  | cons a l => exact newLines_start l { p with cur := p.cur ++ a } b

/-- A text placed from the end of a first line, beside the same text placed from a fresh line: it has not left the first line; or it
has, and only that line is more; or it is anchored in the first line. -/
def Leaves (t t' : TextPen) : Prop :=
  (t.pen.done = [] ∧ t'.pen = { done := [], cur := [], lineStart := true, format := t.pen.format } ∧ t'.word = t.word
    ∧ t'.words = t.words ∧ t.first = none ∧ t'.first = none)
  ∨ (∃ x, t = t'.under x) ∨ t.first = some 0

theorem leaves_endWord (t t' : TextPen) (g : Setting) (h : Leaves t t') : Leaves (t.endWord g) (t'.endWord g) := by
  rcases h with ⟨h1, h2, h3, h4, h5, h6⟩ | ⟨x, rfl⟩ | h
  · by_cases hw : t.word.isEmpty = true
    · have hw' : t'.word.isEmpty = true := by rw [h3]; exact hw
      simp only [TextPen.endWord, if_pos hw, if_pos hw']
      exact .inl ⟨h1, h2, h3, h4, h5, h6⟩
    · have hw' : ¬ t'.word.isEmpty = true := by rw [h3]; exact hw
      obtain ⟨⟨done, cur, ls, fm⟩, word, words, first⟩ := t
      obtain ⟨pen', word', words', first'⟩ := t'
      dsimp only at h1 h2 h3 h4 h5 h6 hw hw'
      subst h1 h2 h3 h4 h5 h6
      simp only [TextPen.endWord, if_neg hw]
      generalize (if words' = 0 then g.sep else 1) = sep
      by_cases a : cur.length + (if ls = true then 0 else sep) + word'.length ≤ g.width
      · right; right
        simp only [Pen.wordLine, if_pos a]
        rfl
      · by_cases b : word'.length ≤ g.width
        · right; left
          refine ⟨cur, ?_⟩
          simp only [TextPen.under, Pen.under, Pen.placeWord, Pen.wordLine, if_neg a, if_pos b, if_true, List.length_nil, Nat.zero_add,
            Pen.newLine]
          rfl
        · by_cases c : cur.isEmpty = true
          · right; right
            simp only [Pen.wordLine, if_neg a, if_neg b, if_pos c]
            rfl
          · right; left
            refine ⟨cur, ?_⟩
            have e : (({ done := [], cur := cur, lineStart := ls, format := fm } : Pen).newLine [])
                = ({ done := [], cur := [], lineStart := ls, format := fm } : Pen).under cur := rfl
            simp only [TextPen.under, Pen.placeWord, Pen.wordLine, if_neg a, if_neg b, if_neg c, if_true, List.length_nil, Nat.zero_add,
              e, under_placePieces, List.isEmpty_nil]
            rw [placePieces_start { done := [], cur := [], lineStart := ls, format := fm } true]
            rfl
  · rw [under_endWord]
    exact .inr (.inl ⟨x, rfl⟩)
  · right; right
    unfold TextPen.endWord
    split
    · exact h
    · simp only [h, Option.getD_some]

theorem leaves_byte (t t' : TextPen) (g : Setting) (c : Bool) (b : Byte) (h : Leaves t t') : Leaves (t.byte g c b) (t'.byte g c b) := by
  unfold TextPen.byte
  split
  · exact leaves_endWord t t' g h
  · split
    · rcases h with ⟨h1, h2, h3, h4, h5, h6⟩ | ⟨x, rfl⟩ | h
      · left
        unfold TextPen.char
        split
        · exact ⟨h1, by simp only [h2], by simp only [h2, h3], h4, h5, h6⟩
        · exact ⟨h1, h2, by simp only [h3], h4, h5, h6⟩
      · right; left
        refine ⟨x, ?_⟩
        unfold TextPen.char
        split <;> rfl
      · right; right
        unfold TextPen.char
        split <;> exact h
    · split
      · rcases h with ⟨h1, h2, h3, h4, h5, h6⟩ | ⟨x, rfl⟩ | h
        · exact .inl ⟨h1, by simp only [TextPen.setFormat, h2], h3, h4, h5, h6⟩
        · exact .inr (.inl ⟨x, rfl⟩)
        · exact .inr (.inr h)
      · split
        · rcases h with ⟨h1, h2, h3, h4, h5, h6⟩ | ⟨x, rfl⟩ | h
          · exact .inl ⟨h1, by simp only [TextPen.setFormat, h2], h3, h4, h5, h6⟩
          · exact .inr (.inl ⟨x, rfl⟩)
          · exact .inr (.inr h)
        · split
          · have k := leaves_endWord t t' g h
            unfold TextPen.para
            generalize t.endWord g = v at k ⊢
            generalize t'.endWord g = v' at k ⊢
            rcases k with ⟨h1, h2, h3, h4, h5, h6⟩ | ⟨x, rfl⟩ | k
            · obtain ⟨⟨done, cur, ls, fm⟩, word, words, first⟩ := v
              obtain ⟨pen', word', words', first'⟩ := v'
              dsimp only at h1 h2 h3 h4 h5 h6
              subst h1 h2 h3 h4 h5 h6
              cases ls with
              | true =>
                by_cases hi : g.indent = 0
                · left
                  simp only [Pen.para, hi, if_true]
                  and_intros <;> first | rfl | trivial
                · right; right
                  simp only [Pen.para, if_neg hi, if_true]
                  rfl
              | false =>
                right; left
                refine ⟨cur, ?_⟩
                by_cases hi : g.indent = 0
                · simp only [Pen.para, hi, if_true, Bool.false_eq_true, if_false]
                  rfl
                · simp only [Pen.para, if_neg hi, if_true, Bool.false_eq_true, if_false]
                  rfl
            · right; left
              refine ⟨x, ?_⟩
              simp only [TextPen.under, under_para, under_done, List.length_cons]
              split
              · rfl
              · simp only [under_getD, Option.map_some]
            · right; right
              simp only [k, Option.getD_some]
              split <;> rfl
          · exact h

theorem leaves_bytes (g : Setting) (c : Bool) (bs : List Byte) (t t' : TextPen) (h : Leaves t t') :
    Leaves (bs.foldl (fun (t : TextPen) (b : Byte) => t.byte g c b) t) (bs.foldl (fun (t : TextPen) (b : Byte) => t.byte g c b) t') := by
  induction bs generalizing t t' with
  | nil => exact h
  | cons b bs ih => exact ih _ _ (leaves_byte t t' g c b h)

/-- The pen of an empty region with a base state. -/
def freshPen (f : Format) : Pen := { done := [], cur := [], lineStart := true, format := f }

/-- A unit not anchored in the first line is placed as it is from a fresh line. -/
theorem placeUnit_leaves (p : Pen) (w i : Nat) (u : TextUnit) (hp : p.done = []) (h : (p.placeUnit w i u).2 ≠ 0) :
    ∃ x, p.placeUnit w i u = (((freshPen p.format).placeUnit w i u).1.under x, ((freshPen p.format).placeUnit w i u).2 + 1) := by
  unfold Pen.placeUnit at h ⊢
  dsimp only [freshPen] at h ⊢
  generalize ({ width := w, indent := i, sep := firstSep p.format u.text } : Setting) = g at h ⊢
  generalize decide (u.kind ≠ .untranslate) = c at h ⊢
  have k : Leaves
      ((u.text.foldl (fun (t : TextPen) (b : Byte) => t.byte g c b) { pen := p, word := [], words := 0, first := none }).endWord g)
      ((u.text.foldl (fun (t : TextPen) (b : Byte) => t.byte g c b)
        { pen := { done := [], cur := [], lineStart := true, format := p.format }, word := [], words := 0, first := none }).endWord g) :=
    leaves_endWord _ _ g (leaves_bytes g c u.text _ _ (.inl ⟨hp, rfl, rfl, rfl, rfl, rfl⟩))
  generalize (TextPen.endWord
    (u.text.foldl (fun (t : TextPen) (b : Byte) => t.byte g c b) { pen := p, word := [], words := 0, first := none }) g) = v at h k ⊢
  generalize (TextPen.endWord (u.text.foldl (fun (t : TextPen) (b : Byte) => t.byte g c b)
    { pen := { done := [], cur := [], lineStart := true, format := p.format }, word := [], words := 0, first := none }) g) = v' at k ⊢
  rcases k with ⟨h1, _, _, _, h5, _⟩ | ⟨x, rfl⟩ | k
  · exact absurd (by rw [h5, h1]; rfl) h
  · exact ⟨x, by simp only [TextPen.under, under_format, under_done, List.length_cons, under_getD]; rfl⟩
  · exact absurd (by rw [k]; rfl) h

/-! ## A commit takes one line (R93, R101) -/

theorem takeWhile_dropWhile_map {α : Type} (p : α → Bool) (l : List α) : l.takeWhile p ++ l.dropWhile p = l :=
  List.takeWhile_append_dropWhile

/-- The units of a rendering fall into those the first commit locks and those that stay, each rendered as they stand. -/
theorem renderUnits_split (w i : Nat) (p : Pen) (us ls ss : List TextUnit) (h : renderUnits w i p us = ((renderUnits w i p us).1, ls ++ ss)) :
    (renderUnits w i p ls).2 = ls
    ∧ renderUnits w i (renderUnits w i p ls).1 ss = ((renderUnits w i p us).1, ss) := by
  have a := renderUnits_again w i us p
  have hu : (renderUnits w i p us).2 = ls ++ ss := by rw [h]
  rw [hu, renderUnits_append] at a
  have b1 := congrArg Prod.fst a
  have b2 := congrArg Prod.snd a
  dsimp only at b1 b2
  rw [hu] at b2
  obtain ⟨c1, c2⟩ := List.append_inj b2 (renderUnits_length w i ls p)
  exact ⟨c1, Prod.ext b1 c2⟩

theorem pen_under_lines (x : List Byte) (p : Pen) : (p.under x).lines = x :: p.lines := rfl

theorem lead_pen_beyond (d : List Byte) (ds : List (List Byte)) (q : Pen) (h : q.done = d :: ds) :
    q = ((leadBeyond q).pen).under d := by
  obtain ⟨done, cur, ls, fm⟩ := q
  dsimp only at h
  subst h
  cases ds with
  | nil => rfl
  | cons e es =>
    have hl : ({ done := d :: e :: es, cur := cur, lineStart := ls, format := fm } : Pen).lines.drop 1 = e :: (es ++ [cur]) := rfl
    unfold leadBeyond
    rw [hl]
    simp only [Lead.pen, Pen.under]
    have h1 : (e :: (es ++ [cur])).dropLast = e :: es := by
      rw [show e :: (es ++ [cur]) = (e :: es) ++ [cur] from rfl, List.dropLast_concat]
    have h2 : (e :: (es ++ [cur])).getLastD [] = cur := by
      rw [show e :: (es ++ [cur]) = (e :: es) ++ [cur] from rfl, List.getLastD_eq_getLast?, List.getLast?_concat]
      rfl
    rw [h1, h2]

theorem lead_pen_fresh (q : Pen) (h : q.done = []) : (leadBeyond q).pen = freshPen q.format := by
  obtain ⟨done, cur, ls, fm⟩ := q
  dsimp only at h
  subst h
  rfl

/-- The commit of the first of several lines leaves the others as they stand; that of the only line leaves an empty region. -/
theorem dropFirst_render (r : Region) (w i : Nat) :
    (2 ≤ (r.render w i).lines.length → ((r.render w i).dropFirst w i).lines = (r.render w i).lines.drop 1)
    ∧ ((r.render w i).lines.length = 1 → ((r.render w i).dropFirst w i).units = [] ∧ ((r.render w i).dropFirst w i).lines = [[]]) := by
  have hs : (r.render w i).locking ++ (r.render w i).staying = (r.render w i).units := takeWhile_dropWhile_map _ _
  have hsplit := renderUnits_split w i r.lead.pen r.units (r.render w i).locking (r.render w i).staying (Prod.ext rfl hs.symm)
  obtain ⟨h1, h2⟩ := hsplit
  have hq : (r.render w i).lines = (renderUnits w i r.lead.pen r.units).1.lines := rfl
  have hlead : (r.render w i).lead = r.lead := rfl
  have hstay : ∀ u, (r.render w i).staying.head? = some u → u.anchor ≠ 0 := by
    intro u hu k
    have := List.head?_dropWhile_not (fun u : TextUnit => decide (u.anchor = 0)) (r.render w i).units
    unfold Region.staying at hu
    rw [hu] at this
    simp [k] at this
  have hgrow := (renderUnits_grows w i r.units r.lead.pen).2
  generalize (renderUnits w i r.lead.pen r.units).1 = q at h2 hq hgrow
  have hlines : ∀ x p', (leadBeyond (renderUnits w i r.lead.pen (r.render w i).locking).1).pen = p' →
      q = (renderUnits w i p' (r.render w i).staying).1.under x →
      ((r.render w i).dropFirst w i).lines = (r.render w i).lines.drop 1 := by
    intro x p' hp hx
    have e : ((r.render w i).dropFirst w i).lines
        = (renderUnits w i (leadBeyond (renderUnits w i r.lead.pen (r.render w i).locking).1).pen (r.render w i).staying).1.lines := rfl
    rw [e, hp, hq, hx, pen_under_lines]
    rfl
  refine ⟨?_, ?_⟩
  · intro hlen
    cases hd : (renderUnits w i r.lead.pen (r.render w i).locking).1.done with
    | cons d ds =>
      refine hlines d _ rfl ?_
      have e := lead_pen_beyond d ds _ hd
      rw [e, under_renderUnits] at h2
      exact (congrArg Prod.fst h2).symm
    | nil =>
      cases hst : (r.render w i).staying with
      | nil =>
        rw [hst] at h2
        have : q = (renderUnits w i r.lead.pen (r.render w i).locking).1 := (congrArg Prod.fst h2).symm
        rw [hq, this] at hlen
        simp [Pen.lines, hd] at hlen
      | cons u rest =>
        have hu : u.anchor ≠ 0 := hstay u (by rw [hst]; rfl)
        rw [hst] at h2
        have ha : ((renderUnits w i r.lead.pen (r.render w i).locking).1.placeUnit w i u).2 = u.anchor := by
          have := congrArg (fun z => (z.2.head?.map TextUnit.anchor)) h2
          simpa [renderUnits] using this
        obtain ⟨x, hx⟩ := placeUnit_leaves _ w i u hd (by rw [ha]; exact hu)
        refine hlines x _ (lead_pen_fresh _ hd) ?_
        rw [hst]
        have e := congrArg Prod.fst h2
        simp only [renderUnits, hx, under_renderUnits] at e
        simp only [renderUnits]
        exact e.symm
  · intro hlen
    have hd : q.done = [] := by
      rw [hq] at hlen
      simpa [Pen.lines] using hlen
    have hnil : (r.render w i).staying = [] := by
      cases hst : (r.render w i).staying with
      | nil => rfl
      | cons u rest =>
        refine absurd ?_ (hstay u (by rw [hst]; rfl))
        have hm : u ∈ (renderUnits w i r.lead.pen r.units).2 := by
          change u ∈ (r.render w i).units
          rw [← hs, hst]
          simp
        have := hgrow u hm
        rw [hd] at this
        exact Nat.le_zero.mp this
    rw [hnil] at h2
    have hq0 : q = (renderUnits w i r.lead.pen (r.render w i).locking).1 := (congrArg Prod.fst h2).symm
    have hp := lead_pen_fresh (renderUnits w i r.lead.pen (r.render w i).locking).1 (by rw [← hq0]; exact hd)
    have e : (r.render w i).dropFirst w i
        = Region.render { r.render w i with lead := leadBeyond (renderUnits w i r.lead.pen (r.render w i).locking).1, units := [] } w i := by
      unfold Region.dropFirst
      rw [hnil, hlead]
    rw [e]
    refine ⟨rfl, ?_⟩
    change (leadBeyond (renderUnits w i r.lead.pen (r.render w i).locking).1).pen.lines = [[]]
    rw [hp]
    rfl

/-! ## The region in the state -/

@[simp] theorem notified_tb (s t : State) : (s.notified t).tb = t.tb := by
  unfold State.notified
  split
  · unfold State.buildTail
    split <;> rfl
  · rfl

@[simp] theorem reportHorizon_region (s : State) (n : Nat) : (s.reportHorizon n).tb.region = s.tb.region := rfl

@[simp] theorem enterRing_region (s : State) (l : CommittedLine) : (s.enterRing l).tb.region = s.tb.region := by
  unfold State.enterRing
  split
  · rfl
  · dsimp only
    split
    · split <;> rfl
    · rfl

@[simp] theorem recordLine_region (s : State) (b c : Bool) (x : List Byte) (n : Nat) : (s.recordLine b c x n).tb.region = s.tb.region := by
  simp only [State.recordLine, (frame_ownLineToViewer _ _ _ _).tb (by decide), reportHorizon_region,
    (frame_queueLine _ _ _ _).tb (by decide), enterRing_region]
  rfl

@[simp] theorem jump_region (s : State) : s.jump.tb.region = s.tb.region := by
  unfold State.jump
  split <;> rfl

@[simp] theorem breakLine_region (s : State) : s.breakLine.tb.region = s.tb.region := by
  unfold State.breakLine
  split
  · rfl
  · exact recordLine_region _ _ _ _ _

@[simp] theorem jumpBreak_region (s : State) : s.jumpBreak.tb.region = s.tb.region := by
  unfold State.jumpBreak
  split
  · split
    · simp
    · simp
  · rfl

@[simp] theorem commitText_region (s : State) (c : Bool) (x : List Byte) (n : Nat) : (s.commitText c x n).tb.region = s.tb.region := by
  unfold State.commitText
  split
  · simp
  · dsimp only
    split
    · simp [State.discardLine]
    · simp

/-- A commit leaves the region without its first line. -/
theorem commitOldest_region (s : State) : s.commitOldest.tb.region = s.tb.region.dropFirst s.cfg.width s.cfg.indent := by
  simp [State.commitOldest, State.releaseFirst, Tb.setRegion]

theorem commitOldest_cfg (s : State) : s.commitOldest.cfg = s.cfg := (frame_commitOldest s).cfg (by decide)

theorem rendered_commitOldest (s : State) : Rendered s.commitOldest := by
  unfold Rendered
  rw [commitOldest_cfg, commitOldest_region]
  exact render_again _ _ _

theorem rendered_lines_pos (s : State) (h : Rendered s) : 1 ≤ s.tb.region.lines.length := by
  rw [← h]
  exact render_lines_pos _ _ _

theorem commitOldest_lines (s : State) (h : Rendered s) (k : 2 ≤ s.tb.region.lines.length) :
    s.commitOldest.tb.region.lines = s.tb.region.lines.drop 1 := by
  have := (dropFirst_render s.tb.region s.cfg.width s.cfg.indent).1
  unfold Rendered at h
  rw [h] at this
  rw [commitOldest_region]
  exact this k

theorem commitOldest_last (s : State) (h : Rendered s) (k : s.tb.region.lines.length = 1) :
    s.commitOldest.tb.region.units = [] ∧ s.commitOldest.tb.region.lines = [[]] := by
  have := (dropFirst_render s.tb.region s.cfg.width s.cfg.indent).2
  unfold Rendered at h
  rw [h] at this
  rw [commitOldest_region]
  exact this k

theorem dropFirst_units_length (r : Region) (w i : Nat) : (r.dropFirst w i).units.length = r.staying.length := render_units_length _ _ _

theorem staying_length (r : Region) : r.staying.length ≤ r.units.length := (List.dropWhile_sublist _).length_le

theorem commitOldest_units (s : State) : s.commitOldest.tb.region.units.length ≤ s.tb.region.units.length := by
  rw [commitOldest_region, dropFirst_units_length]
  exact staying_length _

theorem rendered_commitWhile (p : Region → Bool) (n : Nat) (s : State) (h : Rendered s) : Rendered (State.commitWhile p n s) := by
  induction n generalizing s with
  | zero => exact h
  | succ n ih =>
    unfold State.commitWhile
    split
    · exact ih _ (rendered_commitOldest s)
    · exact h

theorem commitWhile_units (p : Region → Bool) (n : Nat) (s : State) :
    (State.commitWhile p n s).tb.region.units.length ≤ s.tb.region.units.length := by
  induction n generalizing s with
  | zero => exact Nat.le_refl _
  | succ n ih =>
    unfold State.commitWhile
    split
    · exact Nat.le_trans (ih _) (commitOldest_units s)
    · exact Nat.le_refl _

/-- Commits while more than four lines are open leave four at most (R89). -/
theorem commitOver_lines (s : State) (h : Rendered s) : s.commitOver.tb.region.lines.length ≤ 4 := by
  have key : ∀ n (t : State), Rendered t → t.tb.region.lines.length ≤ n →
      (State.commitWhile (fun r => decide (4 < r.lines.length)) n t).tb.region.lines.length ≤ 4 := by
    intro n
    induction n with
    | zero => intro t _ hn; exact Nat.le_trans hn (Nat.zero_le _)
    | succ n ih =>
      intro t ht hn
      unfold State.commitWhile
      split
      · rename_i hc
        have hc' : 4 < t.tb.region.lines.length := of_decide_eq_true hc
        refine ih _ (rendered_commitOldest t) ?_
        rw [commitOldest_lines t ht (by omega), List.length_drop]
        omega
      · rename_i hc
        have hc' : ¬ 4 < t.tb.region.lines.length := fun k => hc (decide_eq_true k)
        omega
  exact key _ s h (Nat.le_refl _)

/-- Commits while 96 units are open leave fewer (R90). -/
theorem commitFull_units (s : State) (h : Rendered s) :
    (State.commitWhile (fun r => decide (96 ≤ r.units.length)) s.tb.region.lines.length s).tb.region.units.length < 96 := by
  have key : ∀ n (t : State), Rendered t → t.tb.region.lines.length = n + 1 →
      (State.commitWhile (fun r => decide (96 ≤ r.units.length)) (n + 1) t).tb.region.units.length < 96 := by
    intro n
    induction n with
    | zero =>
      intro t ht hn
      unfold State.commitWhile
      split
      · change t.commitOldest.tb.region.units.length < 96
        rw [(commitOldest_last t ht hn).1]
        decide
      · rename_i hc
        exact Nat.lt_of_not_le fun k => hc (decide_eq_true k)
    | succ n ih =>
      intro t ht hn
      unfold State.commitWhile
      split
      · refine ih _ (rendered_commitOldest t) ?_
        rw [commitOldest_lines t ht (by omega), List.length_drop]
        omega
      · rename_i hc
        exact Nat.lt_of_not_le fun k => hc (decide_eq_true k)
  have hp := rendered_lines_pos s h
  obtain ⟨n, hn⟩ : ∃ n, s.tb.region.lines.length = n + 1 := ⟨s.tb.region.lines.length - 1, by omega⟩
  rw [hn]
  exact key n s h hn

theorem setUnits_region (s : State) (us : List TextUnit) :
    (s.setUnits us).tb.region = Region.render { s.tb.region with units := us } s.cfg.width s.cfg.indent := by
  simp [State.setUnits, Tb.setRegion]

theorem rendered_setUnits (s : State) (us : List TextUnit) : Rendered (s.setUnits us) := by
  unfold Rendered
  rw [(frame_setUnits s us).cfg (by decide), setUnits_region]
  exact render_again _ _ _

theorem setUnits_length (s : State) (us : List TextUnit) : (s.setUnits us).tb.region.units.length = us.length := by
  rw [setUnits_region, render_units_length]

/-- An emission into a rendered region leaves at most four open lines and 96 open units (R89, R90). -/
theorem emitUnit_bounds (s : State) (u : TextUnit) (h : Rendered s) :
    Rendered (s.emitUnit u) ∧ (s.emitUnit u).tb.region.lines.length ≤ 4 ∧ (s.emitUnit u).tb.region.units.length ≤ 96 := by
  unfold State.emitUnit
  dsimp only
  have hu := commitFull_units s h
  generalize (State.commitWhile (fun r => decide (96 ≤ r.units.length)) s.tb.region.lines.length s) = t at hu ⊢
  have hr := rendered_setUnits t (t.tb.region.units ++ [u])
  refine ⟨rendered_commitWhile _ _ _ hr, commitOver_lines _ hr, ?_⟩
  refine Nat.le_trans (commitWhile_units _ _ _) ?_
  rw [setUnits_length, List.length_append, List.length_cons, List.length_nil]
  omega

/-! ## The newest unit (R89, R66) -/

theorem renderUnits_kinds (w i : Nat) (us : List TextUnit) (p : Pen) :
    (renderUnits w i p us).2.map TextUnit.kind = us.map TextUnit.kind := by
  induction us generalizing p with
  | nil => rfl
  | cons u us ih => simp only [renderUnits, List.map_cons, ih]

theorem commitOldest_kinds (s : State) : s.commitOldest.tb.region.units.map TextUnit.kind <:+ s.tb.region.units.map TextUnit.kind := by
  rw [commitOldest_region]
  have : ((s.tb.region.dropFirst s.cfg.width s.cfg.indent).units).map TextUnit.kind
      = s.tb.region.staying.map TextUnit.kind := renderUnits_kinds _ _ _ _
  rw [this]
  exact (List.dropWhile_suffix _).map _

theorem commitWhile_kinds (p : Region → Bool) (n : Nat) (s : State) :
    (State.commitWhile p n s).tb.region.units.map TextUnit.kind <:+ s.tb.region.units.map TextUnit.kind := by
  induction n generalizing s with
  | zero => exact List.suffix_refl _
  | succ n ih =>
    unfold State.commitWhile
    split
    · exact (ih _).trans (commitOldest_kinds s)
    · exact List.suffix_refl _

/-- The newest open unit after an emission is of the emitted kind, or none is left (R89). -/
theorem emitUnit_newest (s : State) (u x : TextUnit) (h : (s.emitUnit u).tb.region.units.getLast? = some x) : x.kind = u.kind := by
  unfold State.emitUnit at h
  dsimp only at h
  generalize State.commitWhile (fun r => decide (96 ≤ r.units.length)) s.tb.region.lines.length s = v at h
  have k := commitWhile_kinds (fun r => decide (4 < r.lines.length)) (v.setUnits (v.tb.region.units ++ [u])).tb.region.lines.length
    (v.setUnits (v.tb.region.units ++ [u]))
  have e : (v.setUnits (v.tb.region.units ++ [u])).tb.region.units.map TextUnit.kind
      = v.tb.region.units.map TextUnit.kind ++ [u.kind] := by
    rw [setUnits_region]
    exact (renderUnits_kinds _ _ _ _).trans (by simp)
  rw [e] at k
  unfold State.commitOver at h
  obtain ⟨ys, hy⟩ := List.getLast?_eq_some_iff.1 h
  rw [hy] at k
  simp only [List.map_append, List.map_cons, List.map_nil] at k
  obtain ⟨zs, hz⟩ := k
  rw [← List.append_assoc] at hz
  have := congrArg List.getLast? hz
  simpa using this

theorem undoable_emitDrop (s : State) : (s.emitUnit (newUnit .drop [] dropText)).tb.region.undoable = none := by
  unfold Region.undoable
  split
  · rename_i x hx
    have : x.kind = .drop := emitUnit_newest s _ x hx
    rw [if_pos this]
  · rfl

end Sys2Proof.Machine
end

