-- ==== Sys2Proof/Laws/Pending.lean ====
section
/-! SUPPORT. The pending buffer of the Translation Engine: what leaves it as it is, and what keeps it at 8 strokes at most (R77). -/

namespace Sys2Proof.Machine

/-! ## What leaves the buffer and its walk -/

/-- The pending buffer, its walk and the stroke counts of `q` are those of `p`. -/
def SameBuffer (p q : Te) : Prop :=
  q.pendingBuf = p.pendingBuf ∧ q.phase = p.phase ∧ q.rewalkDue = p.rewalkDue ∧ q.inHand = p.inHand ∧ q.taken = p.taken
  ∧ q.consumed = p.consumed ∧ q.walked = p.walked

theorem SameBuffer.refl (p : Te) : SameBuffer p p := ⟨rfl, rfl, rfl, rfl, rfl, rfl, rfl⟩

theorem SameBuffer.trans {p q r : Te} (h : SameBuffer p q) (k : SameBuffer q r) : SameBuffer p r := by
  unfold SameBuffer at *
  simp [k, h]

/-- A flush asked of the TE, and with it every request to the Custody Unit, leaves the pending buffer and its walk. -/
theorem requestFlush_buffer (s : State) : SameBuffer s.te s.requestFlush.te := by
  unfold State.requestFlush
  split
  · rw [(frame_flushReport s).te (by decide)]; exact SameBuffer.refl _
  · exact ⟨rfl, rfl, rfl, rfl, rfl, rfl, rfl⟩
  · exact ⟨rfl, rfl, rfl, rfl, rfl, rfl, rfl⟩

theorem takeRequest_buffer (s : State) (q : CustodyRequest) : SameBuffer s.te (s.takeRequest q).te := by
  have same : ∀ t : State, t.te = s.te → SameBuffer s.te t.te := fun t h => h ▸ SameBuffer.refl _
  unfold State.takeRequest
  split
  · cases q with
    | claim => exact same _ ((frame_beginClaim s).te (by decide))
    | release =>
      change SameBuffer s.te (if s.cu.state = .onRecord then s.closeRecord else s.handOverToBest).te
      split
      · unfold State.closeRecord
        refine SameBuffer.trans (same _ ?_) (requestFlush_buffer _)
        have f : SameBut cuParts s ((s.setCu { s.cu with handOver := .handingOver 0 }).setCustody .releasing) :=
          (frame_setCu _ _).chain (frame_setCustody _ _) (by decide) (by decide)
        exact f.te (by decide)
      · unfold State.handOverToBest
        split
        · exact requestFlush_buffer _
        · exact SameBuffer.refl _
    | enterShadow => exact same _ ((frame_setCustody s _).te (by decide))
    | leaveShadow => exact same _ ((frame_setCustody s _).te (by decide))
    | hold => exact same _ ((frame_holdRequest s).te (by decide))
    | unhold => exact same _ ((frame_setHold s _).te (by decide))
  · exact SameBuffer.refl _

theorem handMarks_buffer (s : State) (x : List Byte) : SameBuffer s.te (s.handMarks x).te := by
  unfold State.handMarks
  generalize x.filterMap markRequest = l
  induction l generalizing s with
  | nil => exact SameBuffer.refl _
  | cons q l ih => exact (takeRequest_buffer s q).trans (ih _)

/-! ## The strokes of the open units -/

theorem renderUnits_strokes (w i : Nat) (us : List TextUnit) (p : Pen) :
    (renderUnits w i p us).2.map TextUnit.strokes = us.map TextUnit.strokes := by
  induction us generalizing p with
  | nil => rfl
  | cons u us ih => simp only [renderUnits, List.map_cons, ih]

/-- Every open unit of a region holds at most 8 strokes. -/
def Region.unitsSmall (r : Region) : Prop := ∀ x ∈ r.units, x.strokes.length ≤ 8

theorem small_iff (us : List TextUnit) : (∀ x ∈ us, x.strokes.length ≤ 8) ↔ ∀ y ∈ us.map TextUnit.strokes, y.length ≤ 8 := by simp

theorem small_render (r : Region) (w i : Nat) : (r.render w i).unitsSmall ↔ r.unitsSmall := by
  unfold Region.unitsSmall
  rw [small_iff, small_iff]
  rw [show (r.render w i).units.map TextUnit.strokes = r.units.map TextUnit.strokes from renderUnits_strokes _ _ _ _]

theorem small_commitOldest (s : State) (h : s.tb.region.unitsSmall) : s.commitOldest.tb.region.unitsSmall := by
  rw [commitOldest_region]
  unfold Region.dropFirst
  rw [small_render]
  intro x hx
  exact h x ((List.dropWhile_sublist _).subset hx)

theorem small_commitWhile (p : Region → Bool) (n : Nat) (s : State) (h : s.tb.region.unitsSmall) :
    (State.commitWhile p n s).tb.region.unitsSmall := by
  induction n generalizing s with
  | zero => exact h
  | succ n ih =>
    unfold State.commitWhile
    split
    · exact ih _ (small_commitOldest s h)
    · exact h

theorem small_setUnits (s : State) (us : List TextUnit) (h : ∀ x ∈ us, x.strokes.length ≤ 8) : (s.setUnits us).tb.region.unitsSmall := by
  rw [setUnits_region, small_render]
  exact h

theorem small_emitUnit (s : State) (u : TextUnit) (h : s.tb.region.unitsSmall) (hu : u.strokes.length ≤ 8) :
    (s.emitUnit u).tb.region.unitsSmall := by
  unfold State.emitUnit
  refine small_commitWhile _ _ _ (small_setUnits _ _ ?_)
  intro x hx
  rcases List.mem_append.1 hx with hx | hx
  · exact small_commitWhile _ _ _ h x hx
  · rcases List.mem_singleton.1 hx with rfl; exact hu

/-- The units of a run of `vs` hold one stroke each. -/
theorem isRunAt_strokes (vs : List Stroke) (us : List TextUnit) (h : isRunAt vs us = true) :
    ((us.take vs.length).flatMap TextUnit.strokes).length ≤ vs.length := by
  induction vs generalizing us with
  | nil => simp
  | cons v vs ih =>
    cases us with
    | nil => simp
    | cons u us =>
      simp only [isRunAt, Bool.and_eq_true, decide_eq_true_eq] at h
      have h1 : u.strokes.length = 1 := by have := congrArg List.length h.1.2; simpa using this
      have := ih us h.2
      simp only [List.length_cons, List.take_succ_cons, List.flatMap_cons, List.length_append, h1]
      omega

theorem small_replaceRuns (vs : List Stroke) (text : List Byte) (hv : vs.length ≤ 8) (us : List TextUnit) (n : Nat)
    (h : ∀ x ∈ us, x.strokes.length ≤ 8) : ∀ x ∈ replaceRuns vs text n us, x.strokes.length ≤ 8 := by
  induction us generalizing n with
  | nil => intro x hx; cases n <;> simp [replaceRuns] at hx
  | cons u us ih =>
    have ht := fun n => ih n fun x hx => h x (List.mem_cons_of_mem _ hx)
    cases n with
    | succ n => exact ht n
    | zero =>
      unfold replaceRuns
      split
      · rename_i hr
        intro x hx
        rcases List.mem_cons.1 hx with rfl | hx
        · exact Nat.le_trans (isRunAt_strokes vs _ hr) hv
        · exact ht _ x hx
      · intro x hx
        rcases List.mem_cons.1 hx with rfl | hx
        · exact h _ (List.mem_cons_self ..)
        · exact ht _ x hx

/-! ## The walk side's actions keep the buffer -/

/-- A buffer of at most 8 strokes that is to be walked from the roots. -/
theorem walkAgain_kept (p : List NumStroke) (s : State) (h : p.length ≤ 8) (hs : s.tb.region.unitsSmall) (hte : s.te.pendingBuf = p)
    (hph : s.te.phase = phaseFor p) : PendingKept s := by
  refine ⟨by rw [hte]; exact h, ?_, ?_, hs⟩
  · intro k; rw [hph] at k; unfold phaseFor at k; split at k <;> cases k
  · intro k; rw [hph] at k; unfold phaseFor at k; rw [hte]
    cases p with
    | nil => rfl
    | cons a l => simp at k

theorem undo_kept (s : State) (h : PendingKept s) : PendingKept s.undo := by
  obtain ⟨h1, h2, h3, h4⟩ := h
  unfold State.undo
  split
  · rename_i he
    have he' : s.te.pendingBuf = [] := by simpa using he
    unfold State.undoOpen
    split
    · rename_i u hu
      have hm : u ∈ s.tb.region.units := by
        unfold Region.undoable at hu
        split at hu
        · rename_i v hv
          split at hu
          · cases hu
          · cases hu; exact List.mem_of_getLast? hv
        · cases hu
      have := h4 u hm
      refine walkAgain_kept u.strokes.dropLast _ (by rw [List.length_dropLast]; omega) ?_ rfl rfl
      refine small_setUnits _ _ fun x hx => h4 x (List.mem_of_mem_dropLast hx)
    · exact ⟨h1, h2, h3, h4⟩
  · refine walkAgain_kept s.te.pendingBuf.dropLast _ (by rw [List.length_dropLast]; omega) ?_ rfl rfl
    exact h4

theorem handleStroke_kept (s : State) (r : StrokeRecord) (h : PendingKept s) (hl : s.te.pendingBuf.length < 8) :
    PendingKept (s.handleStroke r) := by
  unfold State.handleStroke
  dsimp only
  split
  · exact undo_kept _ h
  · refine ⟨?_, ?_, ?_, h.2.2.2⟩
    · simp; omega
    · intro k; simp at k
    · intro k; simp at k

theorem dropWork_kept (s : State) (r : StrokeRecord) (h : PendingKept s) (he : s.te.pendingBuf = []) :
    PendingKept (s.dropWork r) := by
  unfold State.dropWork
  dsimp only
  refine handleStroke_kept _ r ⟨?_, ?_, ?_, ?_⟩ ?_
  · simp [he]
  · simp [he]
  · simp [he]
  · exact small_emitUnit _ _ h.2.2.2 (by simp [newUnit])
  · simp [he]

theorem flushIfDone_kept (s : State) (h : PendingKept s) : PendingKept s.flushIfDone := by
  unfold State.flushIfDone
  split
  · rename_i hc
    have f := frame_flushReport (s.setTe { s.te with flushOwed := false, demand := .none, phase := .idle })
    unfold PendingKept
    rw [f.te (by decide), f.tb (by decide)]
    exact ⟨h.1, by simp, by simp [hc], h.2.2.2⟩
  · exact h

theorem afterUnit_kept (s : State) (k : Nat) (h : s.te.pendingBuf.length ≤ 8) (hs : s.tb.region.unitsSmall) :
    PendingKept (s.afterUnit k) := by
  unfold State.afterUnit
  dsimp only
  refine flushIfDone_kept _ ?_
  have hk : PendingKept (s.setTe { s.te.walkAgain (s.te.pendingBuf.drop k) with
      demand := if s.te.demand = .one then .none else s.te.demand }) :=
    walkAgain_kept (s.te.pendingBuf.drop k) _ (by rw [List.length_drop]; omega) hs rfl rfl
  generalize s.setTe { s.te.walkAgain (s.te.pendingBuf.drop k) with
    demand := if s.te.demand = .one then .none else s.te.demand } = u at hk ⊢
  cases u.te.inHand with
  | none => exact hk
  | some r =>
    dsimp only
    split
    · rename_i he
      exact dropWork_kept _ _ hk (by simpa using he)
    · exact hk

end Sys2Proof.Machine
end

