-- ==== Sys2Proof/Laws/PerInstr.lean ====
section
/-! SUPPORT. Of every command: what it is in a host transaction has a command code and a length the two length bytes can give. -/

namespace Sys2Proof

/-- The command, as the host sends it, begins no response transaction, and its parameter bytes fit the length field (11.3, R184, R185). -/
def Laws.Shape.Statement (i : Instr) : Prop :=
  ∀ (code : Byte) (ps : List Byte), i.hostCommand = some (code, ps) → i.wellFormed = true → code ≠ 0 ∧ ps.length ≤ 65535

/-- A row that is no command transaction. -/
theorem Laws.shape_of_none {i : Instr} (h : i.hostCommand = none) : Laws.Shape.Statement i := fun _ _ hc => by simp [h] at hc

/-- A row with a command code of its own. -/
theorem Laws.shape_of_params {i : Instr} {k : Byte} {ps : List Byte} (h : i.hostCommand = some (k, ps)) (hk : k ≠ 0)
    (hw : i.wellFormed = paramsOk ps) : Laws.Shape.Statement i := by
  intro c qs hc hwf
  rw [h] at hc
  obtain ⟨rfl, rfl⟩ : k = c ∧ ps = qs := by simpa using hc
  exact ⟨hk, by simpa [hw, paramsOk] using hwf⟩

/-- A row chosen by its command's first parameter byte. -/
theorem Laws.shape_of_rest {i : Instr} {k b : Byte} {rs : List Byte} (h : i.hostCommand = some (k, b :: rs)) (hk : k ≠ 0)
    (hw : i.wellFormed = restOk rs) : Laws.Shape.Statement i := by
  intro c qs hc hwf
  rw [h] at hc
  obtain ⟨rfl, rfl⟩ : k = c ∧ b :: rs = qs := by simpa using hc
  have : rs.length ≤ 65534 := by simpa [hw, restOk] using hwf
  exact ⟨hk, by simp; omega⟩

theorem Laws.Shape.fullReset (source : ResetSource) : Laws.Shape.Statement (.fullReset source) :=
  Laws.shape_of_none rfl

theorem Laws.Shape.rawLevelChange (contact : Nat) (down : Bool) : Laws.Shape.Statement (.rawLevelChange contact down) :=
  Laws.shape_of_none rfl

theorem Laws.Shape.settlingTimerExpiry (contact : Nat) : Laws.Shape.Statement (.settlingTimerExpiry contact) :=
  Laws.shape_of_none rfl

theorem Laws.Shape.stuckTimerExpiry (contact : Nat) : Laws.Shape.Statement (.stuckTimerExpiry contact) :=
  Laws.shape_of_none rfl

theorem Laws.Shape.takeStroke : Laws.Shape.Statement (.takeStroke) :=
  Laws.shape_of_none rfl

theorem Laws.Shape.walkReadEnd : Laws.Shape.Statement (.walkReadEnd) :=
  Laws.shape_of_none rfl

theorem Laws.Shape.resolveTimerExpiry : Laws.Shape.Statement (.resolveTimerExpiry) :=
  Laws.shape_of_none rfl

theorem Laws.Shape.retrReadEnd : Laws.Shape.Statement (.retrReadEnd) :=
  Laws.shape_of_none rfl

theorem Laws.Shape.matchCheck : Laws.Shape.Statement (.matchCheck) :=
  Laws.shape_of_none rfl

theorem Laws.Shape.replacement : Laws.Shape.Statement (.replacement) :=
  Laws.shape_of_none rfl

theorem Laws.Shape.duServiceStart : Laws.Shape.Statement (.duServiceStart) :=
  Laws.shape_of_none rfl

theorem Laws.Shape.defOperationEnd : Laws.Shape.Statement (.defOperationEnd) :=
  Laws.shape_of_none rfl

theorem Laws.Shape.exportOperationEnd : Laws.Shape.Statement (.exportOperationEnd) :=
  Laws.shape_of_none rfl

theorem Laws.Shape.characterReceived (heading : Bool) (byte : Byte) (stopIdle : Bool) : Laws.Shape.Statement (.characterReceived heading byte stopIdle) :=
  Laws.shape_of_none rfl

theorem Laws.Shape.frameEndBySilence : Laws.Shape.Statement (.frameEndBySilence) :=
  Laws.shape_of_none rfl

theorem Laws.Shape.turnaroundGuardExpiry : Laws.Shape.Statement (.turnaroundGuardExpiry) :=
  Laws.shape_of_none rfl

theorem Laws.Shape.transmitStart : Laws.Shape.Statement (.transmitStart) :=
  Laws.shape_of_none rfl

theorem Laws.Shape.creditReach : Laws.Shape.Statement (.creditReach) :=
  Laws.shape_of_none rfl

theorem Laws.Shape.deliverStation : Laws.Shape.Statement (.deliverStation) :=
  Laws.shape_of_none rfl

theorem Laws.Shape.deliverClaim : Laws.Shape.Statement (.deliverClaim) :=
  Laws.shape_of_none rfl

theorem Laws.Shape.deliverRelease : Laws.Shape.Statement (.deliverRelease) :=
  Laws.shape_of_none rfl

theorem Laws.Shape.deliverRefuse : Laws.Shape.Statement (.deliverRefuse) :=
  Laws.shape_of_none rfl

theorem Laws.Shape.deliverDefine : Laws.Shape.Statement (.deliverDefine) :=
  Laws.shape_of_none rfl

theorem Laws.Shape.deliverAsk : Laws.Shape.Statement (.deliverAsk) :=
  Laws.shape_of_none rfl

theorem Laws.Shape.deliverTail : Laws.Shape.Statement (.deliverTail) :=
  Laws.shape_of_none rfl

theorem Laws.Shape.deliverLine : Laws.Shape.Statement (.deliverLine) :=
  Laws.shape_of_none rfl

theorem Laws.Shape.beaconTimerExpiry : Laws.Shape.Statement (.beaconTimerExpiry) :=
  Laws.shape_of_none rfl

theorem Laws.Shape.refreshTimerExpiry : Laws.Shape.Statement (.refreshTimerExpiry) :=
  Laws.shape_of_none rfl

theorem Laws.Shape.lapseTimerExpiry (slot : Nat) : Laws.Shape.Statement (.lapseTimerExpiry slot) :=
  Laws.shape_of_none rfl

theorem Laws.Shape.freeTimerExpiry (slot : Nat) : Laws.Shape.Statement (.freeTimerExpiry slot) :=
  Laws.shape_of_none rfl

theorem Laws.Shape.claimTimerExpiry : Laws.Shape.Statement (.claimTimerExpiry) :=
  Laws.shape_of_none rfl

theorem Laws.Shape.settleTimerExpiry : Laws.Shape.Statement (.settleTimerExpiry) :=
  Laws.shape_of_none rfl

theorem Laws.Shape.commitAll : Laws.Shape.Statement (.commitAll) :=
  Laws.shape_of_none rfl

theorem Laws.Shape.gapTimerExpiry (line : Nat) : Laws.Shape.Statement (.gapTimerExpiry line) :=
  Laws.shape_of_none rfl

theorem Laws.Shape.rowSendStart : Laws.Shape.Statement (.rowSendStart) :=
  Laws.shape_of_none rfl

theorem Laws.Shape.busyChange (high : Bool) : Laws.Shape.Statement (.busyChange high) :=
  Laws.shape_of_none rfl

theorem Laws.Shape.rowSendComplete : Laws.Shape.Statement (.rowSendComplete) :=
  Laws.shape_of_none rfl

theorem Laws.Shape.commandTakeBusy (code : Byte) (params : List Byte) : Laws.Shape.Statement (.commandTakeBusy code params) :=
  Laws.shape_of_none rfl

theorem Laws.Shape.responseRead (clocked : Nat) : Laws.Shape.Statement (.responseRead clocked) :=
  Laws.shape_of_none rfl

theorem Laws.Shape.unknownCommand (code : Byte) (params : List Byte) : Laws.Shape.Statement (.unknownCommand code params) := by
  intro c qs hc hwf
  obtain ⟨rfl, rfl⟩ : code = c ∧ params = qs := by simpa [Instr.hostCommand] using hc
  simp only [Instr.wellFormed, unnamed, paramsOk, Bool.and_eq_true, decide_eq_true_eq] at hwf
  refine ⟨?_, hwf.2⟩
  rintro rfl
  exact absurd hwf.1 (by simp)

theorem Laws.Shape.configure (params : List Byte) : Laws.Shape.Statement (.configure params) :=
  Laws.shape_of_params rfl (by decide) rfl

theorem Laws.Shape.load (params : List Byte) : Laws.Shape.Statement (.load params) :=
  Laws.shape_of_params rfl (by decide) rfl

theorem Laws.Shape.readDict (params : List Byte) : Laws.Shape.Statement (.readDict params) :=
  Laws.shape_of_params rfl (by decide) rfl

theorem Laws.Shape.go (params : List Byte) : Laws.Shape.Statement (.go params) :=
  Laws.shape_of_params rfl (by decide) rfl

theorem Laws.Shape.restart (params : List Byte) : Laws.Shape.Statement (.restart params) :=
  Laws.shape_of_params rfl (by decide) rfl

theorem Laws.Shape.define (params : List Byte) : Laws.Shape.Statement (.define params) :=
  Laws.shape_of_params rfl (by decide) rfl

theorem Laws.Shape.forget (params : List Byte) : Laws.Shape.Statement (.forget params) :=
  Laws.shape_of_params rfl (by decide) rfl

theorem Laws.Shape.flushCacheAll (rest : List Byte) : Laws.Shape.Statement (.flushCacheAll rest) :=
  Laws.shape_of_rest rfl (by decide) rfl

theorem Laws.Shape.flushCacheLayer (rest : List Byte) : Laws.Shape.Statement (.flushCacheLayer rest) :=
  Laws.shape_of_rest rfl (by decide) rfl

theorem Laws.Shape.flushCacheStroke (rest : List Byte) : Laws.Shape.Statement (.flushCacheStroke rest) :=
  Laws.shape_of_rest rfl (by decide) rfl

theorem Laws.Shape.flushCacheStrokeLayer (rest : List Byte) : Laws.Shape.Statement (.flushCacheStrokeLayer rest) :=
  Laws.shape_of_rest rfl (by decide) rfl

theorem Laws.Shape.custodyClaim (rest : List Byte) : Laws.Shape.Statement (.custodyClaim rest) :=
  Laws.shape_of_rest rfl (by decide) rfl

theorem Laws.Shape.custodyRelease (rest : List Byte) : Laws.Shape.Statement (.custodyRelease rest) :=
  Laws.shape_of_rest rfl (by decide) rfl

theorem Laws.Shape.custodyEnterShadow (rest : List Byte) : Laws.Shape.Statement (.custodyEnterShadow rest) :=
  Laws.shape_of_rest rfl (by decide) rfl

theorem Laws.Shape.custodyLeaveShadow (rest : List Byte) : Laws.Shape.Statement (.custodyLeaveShadow rest) :=
  Laws.shape_of_rest rfl (by decide) rfl

theorem Laws.Shape.custodyHold (rest : List Byte) : Laws.Shape.Statement (.custodyHold rest) :=
  Laws.shape_of_rest rfl (by decide) rfl

theorem Laws.Shape.custodyUnhold (rest : List Byte) : Laws.Shape.Statement (.custodyUnhold rest) :=
  Laws.shape_of_rest rfl (by decide) rfl

theorem Laws.Shape.pane (params : List Byte) : Laws.Shape.Statement (.pane params) :=
  Laws.shape_of_params rfl (by decide) rfl

theorem Laws.Shape.readLinesAuto (rest : List Byte) : Laws.Shape.Statement (.readLinesAuto rest) :=
  Laws.shape_of_rest rfl (by decide) rfl

theorem Laws.Shape.readLinesPeek (rest : List Byte) : Laws.Shape.Statement (.readLinesPeek rest) :=
  Laws.shape_of_rest rfl (by decide) rfl

theorem Laws.Shape.readNotesAuto (rest : List Byte) : Laws.Shape.Statement (.readNotesAuto rest) :=
  Laws.shape_of_rest rfl (by decide) rfl

theorem Laws.Shape.readNotesPeek (rest : List Byte) : Laws.Shape.Statement (.readNotesPeek rest) :=
  Laws.shape_of_rest rfl (by decide) rfl

theorem Laws.Shape.readStatus (params : List Byte) : Laws.Shape.Statement (.readStatus params) :=
  Laws.shape_of_params rfl (by decide) rfl

theorem Laws.Shape.readRoster (params : List Byte) : Laws.Shape.Statement (.readRoster params) :=
  Laws.shape_of_params rfl (by decide) rfl

theorem Laws.Shape.readEvent (params : List Byte) : Laws.Shape.Statement (.readEvent params) :=
  Laws.shape_of_params rfl (by decide) rfl

theorem Laws.Shape.setMask (params : List Byte) : Laws.Shape.Statement (.setMask params) :=
  Laws.shape_of_params rfl (by decide) rfl

theorem Laws.Shape.fenceComplete : Laws.Shape.Statement (.fenceComplete) :=
  Laws.shape_of_none rfl

theorem Laws.Shape.startBitSeen (atStart : Bool) : Laws.Shape.Statement (.startBitSeen atStart) :=
  Laws.shape_of_none rfl

theorem Laws.Shape.shortCommandTransaction (sent : List Byte) : Laws.Shape.Statement (.shortCommandTransaction sent) :=
  Laws.shape_of_none rfl

end Sys2Proof
end

