-- ==== Sys2Proof/Laws/Plan.lean ====
section
/-! SUPPORT. The end of PLAN (R34): what the free-cell list gives, and when an entry starts WRITE or leaves service. -/

namespace Sys2Proof.Machine

/-! ## The free-cell list -/

/-- The run chosen stands in the list. -/
theorem lowestRun_mem (l : List Nat) (x : Nat) (h : lowestRun l = some x) : x ∈ l ∧ x + 16 ∈ l ∧ x + 32 ∈ l ∧ x + 48 ∈ l := by
  induction l using lowestRun.induct with
  | case1 a b c d rest hh =>
    rw [lowestRun, if_pos hh] at h
    obtain ⟨rfl, rfl, rfl⟩ := hh
    cases h; simp
  | case2 a b c d rest hh ih =>
    rw [lowestRun, if_neg hh] at h
    have := ih h
    grind
  | case3 l h' => 
    unfold lowestRun at h
    split at h
    · exact absurd rfl (h' _ _ _ _ _)
    · cases h

/-- In a rising list of cells, the cell 16 above the head, where it is listed, comes next. -/
theorem next_of_listed (a b : Nat) (l : List Nat) (hs : (a :: b :: l).Pairwise (fun x y => x < y))
    (h16 : ∀ x ∈ a :: b :: l, x % 16 = 0) (h : a + 16 ∈ a :: b :: l) : b = a + 16 := by
  have hb := h16 b (by simp)
  have ha := h16 a (by simp)
  obtain ⟨la, lb⟩ := List.pairwise_cons.1 hs
  have lab : a < b := la b (by simp)
  have above : ∀ z ∈ b :: l, b ≤ z := fun z hz =>
    (List.mem_cons.1 hz).elim (fun e => e ▸ Nat.le_refl _) fun m => Nat.le_of_lt ((List.pairwise_cons.1 lb).1 z m)
  have := above (a + 16) ((List.mem_cons.1 h).resolve_left (by omega))
  omega

/-- Of a list in address order, whose entries are cells, the run chosen is the lowest. -/
theorem lowestRun_le (l : List Nat) (hs : l.Pairwise (fun x y => x < y)) (h16 : ∀ x ∈ l, x % 16 = 0) (x : Nat)
    (h : lowestRun l = some x) : ∀ y ∈ l, y + 16 ∈ l → y + 32 ∈ l → y + 48 ∈ l → x ≤ y := by
  induction l using lowestRun.induct with
  | case1 a b c d rest hh =>
    rw [lowestRun, if_pos hh] at h
    cases h
    exact fun y hy _ _ _ => (List.mem_cons.1 hy).elim (fun e => e ▸ Nat.le_refl _) fun m =>
      Nat.le_of_lt ((List.pairwise_cons.1 hs).1 y m)
  | case2 a b c d rest hh ih =>
    rw [lowestRun, if_neg hh] at h
    intro y hy h1 h2 h3
    have tl := (List.pairwise_cons.1 hs).2
    have low : ∀ z ∈ b :: c :: d :: rest, a < z := (List.pairwise_cons.1 hs).1
    have inTail : ∀ z ∈ a :: b :: c :: d :: rest, a < z → z ∈ b :: c :: d :: rest := fun z hz lt =>
      (List.mem_cons.1 hz).resolve_left (by omega)
    have past : a < y := by
      refine Nat.lt_of_le_of_ne ((List.mem_cons.1 hy).elim (fun e => e ▸ Nat.le_refl _) fun m => Nat.le_of_lt (low y m)) ?_
      rintro rfl
      have e1 := next_of_listed a b _ hs h16 h1
      have m2 := inTail _ h2 (by omega)
      have m3 := inTail _ h3 (by omega)
      rw [show a + 32 = b + 16 by omega] at m2
      have e2 := next_of_listed b c _ tl (fun z hz => h16 z (List.mem_cons_of_mem _ hz)) m2
      rw [show a + 48 = c + 16 by omega] at m3
      have e3 := next_of_listed c d _ (List.pairwise_cons.1 tl).2
        (fun z hz => h16 z (List.mem_cons_of_mem _ (List.mem_cons_of_mem _ hz))) ((List.mem_cons.1 m3).resolve_left (by omega))
      exact hh ⟨e1, by omega, by omega⟩
    exact ih tl (fun z hz => h16 z (List.mem_cons_of_mem _ hz)) h y (inTail y hy past) (inTail _ h1 (by omega))
      (inTail _ h2 (by omega)) (inTail _ h3 (by omega))
  | case3 l h' =>
    unfold lowestRun at h
    split at h
    · exact absurd rfl (h' _ _ _ _ _)
    · cases h
/-- The tables taken are runs of the list; what is left keeps its order and lies outside them; nothing else is gone. -/
theorem takeTables_spec (t : Nat) : ∀ (free : List Nat) (r : List Nat × List Nat), free.Pairwise (fun x y => x < y) →
    takeTables t free = some r →
    r.1.length = t ∧ r.2.Pairwise (fun x y => x < y) ∧ (∀ x ∈ r.1, x ∈ free ∧ x + 16 ∈ free ∧ x + 32 ∈ free ∧ x + 48 ∈ free)
    ∧ (∀ x ∈ r.2, x ∈ free ∧ ∀ y ∈ r.1, x < y ∨ y + 48 < x) ∧ (∀ x ∈ free, x ∈ r.2 ∨ ∃ y ∈ r.1, y ≤ x ∧ x ≤ y + 48) := by
  induction t with
  | zero => intro free r hs h; simp [takeTables] at h; subst h; simp [hs]
  | succ n ih =>
    intro free r hs h
    unfold takeTables at h
    split at h
    · rename_i a ha
      split at h
      · rename_i q hq
        cases h
        have hs' : (free.filter fun x => decide (x < a) || decide (a + 48 < x)).Pairwise (fun x y => x < y) := hs.filter _
        obtain ⟨i1, i2, i3, i4, i5⟩ := ih _ _ hs' hq
        refine ⟨by simp [i1], i2, ?_, ?_, ?_⟩
        · intro x hx
          rcases List.mem_cons.1 hx with rfl | hx
          · exact lowestRun_mem _ _ ha
          · obtain ⟨j1, j2, j3, j4⟩ := i3 x hx
            exact ⟨(List.mem_filter.1 j1).1, (List.mem_filter.1 j2).1, (List.mem_filter.1 j3).1, (List.mem_filter.1 j4).1⟩
        · intro x hx
          obtain ⟨j1, j2⟩ := i4 x hx
          obtain ⟨j3, j4⟩ := List.mem_filter.1 j1
          refine ⟨j3, ?_⟩
          intro y hy
          rcases List.mem_cons.1 hy with rfl | hy
          · simpa using j4
          · exact j2 y hy
        · intro x hx
          by_cases hm : x < a ∨ a + 48 < x
          · rcases i5 x (List.mem_filter.2 ⟨hx, by simpa using hm⟩) with h | ⟨y, hy, hh⟩
            · exact Or.inl h
            · exact Or.inr ⟨y, by simp [hy], hh⟩
          · exact Or.inr ⟨a, by simp, by omega, by omega⟩
      · cases h
    · cases h

/-! ## Capacity -/

/-- An entry leaves service: the Definition Unit is idle, the event is latched, and nothing else is new. -/
theorem leaveService_leaves (s : State) (ev : Event) : LeavesService s (s.leaveService ev) ev := by
  simp [LeavesService, State.leaveService, SameBut, State.latch, Lcp.latched]

/-- With the cells and the heap room, WRITE begins with the writes chosen. -/
theorem claimSpace_room (s : State) (e : DefEntry) (t c : Nat) (w : Alloc → List PlannedWrite) (a : Alloc) (x : PlannedWrite)
    (xs : List PlannedWrite) (h1 : allocate t c s.du.freeCells = some a) (h2 : HeapTakes s e) (h3 : w a = x :: xs) :
    BeginsWrite s (s.claimSpace e t c w) e (s.newRef e) a.free (some (s.heapTop + e.text.length)) (w a) := by
  simp only [HeapTakes] at h2
  simp [State.claimSpace, h1, h2, h3, BeginsWrite, State.writeOn, State.request, SameBut, State.newRef]

/-- Without the cells or the heap room, the entry is FULL. -/
theorem claimSpace_full (s : State) (e : DefEntry) (t c : Nat) (w : Alloc → List PlannedWrite)
    (h : allocate t c s.du.freeCells = none ∨ ¬ HeapTakes s e) :
    LeavesService s (s.claimSpace e t c w) (e.event .full .full) := by
  have : s.claimSpace e t c w = s.leaveService (e.event .full .full) := by
    unfold State.claimSpace
    rcases h with h | h
    · rw [h]
    · unfold HeapTakes at h
      cases allocate t c s.du.freeCells <;> simp [h]
  rw [this]
  exact leaveService_leaves s _

/-! ## Faults (R26, log 9) -/

/-- Where a structure shows faults, one of them is reported. -/
theorem pickFault_mem (l : List Damage) (h : l ≠ []) : ∃ d ∈ l, pickFault l = some d := by
  match l with
  | [d] => exact ⟨d, by simp, rfl⟩
  | d :: e :: r =>
    refine ⟨_, ?_, rfl⟩
    rw [List.getD_eq_getElem?_getD]
    cases hh : (d :: e :: r)[Config.faultChoice ((d :: e :: r).map fun x => x.1.code) d.2 % ((e :: r).length + 1)]? with
    | none => simp
    | some x => exact List.mem_of_getElem? hh

end Sys2Proof.Machine
end

