-- ==== Sys2Proof/Laws/Text.lean ====
section
/-! SUPPORT. The text of units: the pieces of a cut word, a word of plain characters, untranslate runs (R75, R81 to R86). -/

namespace Sys2Proof.Machine

/-! ## Runs (R75, R76) -/

/-- A run stands at the front of some units. -/
theorem isRunAt_iff (vs : List Stroke) (us : List TextUnit) :
    isRunAt vs us = true ↔ ∃ run post, us = run ++ post ∧ IsRun vs run := by
  induction vs generalizing us with
  | nil => 
    simp only [isRunAt, true_iff]
    exact ⟨[], us, rfl, rfl⟩
  | cons v vs ih =>
    cases us with
    | nil =>
      simp only [isRunAt, Bool.false_eq_true, false_iff]
      rintro ⟨run, post, h, k⟩
      have := (List.append_eq_nil_iff.1 h.symm).1
      subst this
      cases k
    | cons u us =>
      simp only [isRunAt, Bool.and_eq_true, decide_eq_true_eq, ih]
      constructor
      · rintro ⟨⟨h1, h2⟩, run, post, rfl, k⟩
        refine ⟨u :: run, post, rfl, ?_⟩
        unfold IsRun at *
        simp [h1, h2, k]
      · rintro ⟨run, post, h, k⟩
        cases run with
        | nil => cases k
        | cons x run =>
          unfold IsRun at k
          simp only [List.map_cons, List.cons.injEq, Prod.mk.injEq] at k
          simp only [List.cons_append, List.cons.injEq] at h
          obtain ⟨rfl, rfl⟩ := h
          exact ⟨⟨k.1.1, k.1.2⟩, run, post, rfl, k.2⟩

theorem IsRun.length {vs : List Stroke} {us : List TextUnit} (h : IsRun vs us) : us.length = vs.length := by
  have := congrArg List.length h; simpa using this

/-- The units of the run last taken are passed over. -/
theorem replaceRuns_skip (vs : List Stroke) (text : List Byte) (xs us : List TextUnit) :
    replaceRuns vs text xs.length (xs ++ us) = replaceRuns vs text 0 us := by
  induction xs with
  | nil => rfl
  | cons x xs ih => simp only [List.length_cons, List.cons_append, replaceRuns, ih]

/-! ## Words (R81, R84 to R86) -/

theorem casedChar_ge (f : Format) (b : Byte) (h : 33 ≤ b.toNat) : 33 ≤ (casedChar f b).1.toNat := by
  unfold casedChar isLetter upper lower isUpper isLower
  by_cases h1 : 65 ≤ b.toNat <;> by_cases h2 : b.toNat ≤ 90 <;> by_cases h3 : 97 ≤ b.toNat <;> by_cases h4 : b.toNat ≤ 122 <;>
    cases f with | mk c l a g => cases c <;> cases l <;> simp [h1, h2, h3, h4, BitVec.toNat_sub, BitVec.toNat_add] <;> omega

/-- Plain characters gather into one word. -/
theorem plain_fold (g : Setting) (bs : List Byte) (t : TextPen) (h : ∀ b ∈ bs, 33 ≤ b.toNat) :
    bs.foldl (fun (t : TextPen) (b : Byte) => t.byte g false b) t = { t with word := t.word ++ bs } := by
  induction bs generalizing t with
  | nil => simp
  | cons b bs ih =>
    have hb := h b (List.mem_cons_self ..)
    have : ¬ b = 32 := by rintro rfl; revert hb; decide
    have e : t.byte g false b = { t with word := t.word ++ [b] } := by
      unfold TextPen.byte TextPen.char
      rw [if_neg this, if_pos hb]
      rfl
    rw [List.foldl_cons, e, ih _ fun x hx => h x (List.mem_cons_of_mem _ hx)]
    simp
theorem placeWord_format (p : Pen) (w sep : Nat) (x : List Byte) : (p.placeWord w sep x).format = p.format := by
  have nl : ∀ (l : List (List Byte)) (q : Pen), (l.foldl Pen.newLine q).format = q.format := by
    intro l
    induction l with
    | nil => intro q; rfl
    | cons a l ih => intro q; rw [List.foldl_cons, ih]; rfl
  have hp : ∀ (q : Pen) (l : List (List Byte)), (q.placePieces l).format = q.format := by
    intro q l
    cases l with
    | nil => rfl
    | cons a l => exact nl _ _
  unfold Pen.placeWord
  dsimp only
  generalize (if p.lineStart = true then 0 else sep) = sp
  split
  · rfl
  · split
    · rfl
    · show (Pen.placePieces _ _).format = _
      rw [hp]; split <;> rfl

/-- The pieces of a word that is cut (R86). -/
theorem cutPieces_spec (w : Nat) (hw : 0 < w) (fuel : Nat) (cs : List Byte) (h1 : cs ≠ []) (h2 : cs.length ≤ fuel) :
    ∃ ps x, cutPieces w fuel cs = ps ++ [x] ∧ cs = ps.flatten ++ x ∧ (∀ y ∈ ps, y.length = w) ∧ 1 ≤ x.length
      ∧ x.length ≤ w := by
  induction fuel generalizing cs with
  | zero => exact absurd (List.length_eq_zero_iff.1 (Nat.le_zero.1 h2)) h1
  | succ n ih =>
    unfold cutPieces
    split
    · refine ⟨[], cs, rfl, rfl, by simp, ?_, by assumption⟩
      exact List.length_pos_iff.2 h1
    · rename_i hn
      obtain ⟨ps, x, e, f, g, k⟩ := ih (cs.drop w) (by intro hh; have := congrArg List.length hh; simp at this; omega) (by simp; omega)
      refine ⟨cs.take w :: ps, x, by rw [e]; rfl, ?_, ?_, k⟩
      · rw [List.flatten_cons, List.append_assoc, ← f, List.take_append_drop]
      · intro y hy
        rcases List.mem_cons.1 hy with rfl | hy
        · rw [List.length_take]; omega
        · exact g y hy

theorem newLines_spec (q : Pen) (l : List (List Byte)) (z : List Byte) : 
    (l ++ [z]).foldl Pen.newLine q = { q with done := q.done ++ [q.cur] ++ l, cur := z } := by
  induction l generalizing q with
  | nil => simp [Pen.newLine]
  | cons a l ih => rw [List.cons_append, List.foldl_cons, ih]; simp [Pen.newLine]

theorem placePieces_spec (q : Pen) (l : List (List Byte)) (x : List Byte) (hq : q.cur = []) :
    q.placePieces (l ++ [x]) = { q with done := q.done ++ l, cur := x } := by
  cases l with
  | nil => simp [Pen.placePieces, hq]
  | cons a l =>
    unfold Pen.placePieces
    simp only [List.cons_append]
    rw [newLines_spec]
    simp [hq]

end Sys2Proof.Machine
end

