-- ==== Sys2Proof/Tests/Slice0.lean ====
section
/-! SUPPORT. The model's own tests: ill-formed commands, the worked examples of the spec, one step of each command on a small state,
and, for every statement with hypotheses, a state and operands that meet them. -/

namespace Sys2Proof.Tests

open Sys2Proof.Machine

set_option Elab.async false

/-! ## Ill-formed commands -/

theorem test_contact_0_is_refused : (Instr.rawLevelChange 0 true).wellFormed = false := by decide
theorem test_contact_29_is_refused :
    (Instr.settlingTimerExpiry 29).wellFormed = false ∧ (Instr.stuckTimerExpiry 29).wellFormed = false := by decide
theorem test_contacts_1_and_28_are_sound :
    (Instr.rawLevelChange 1 true).wellFormed = true ∧ (Instr.stuckTimerExpiry 28).wellFormed = true := by decide
theorem test_slot_16_is_refused :
    (Instr.lapseTimerExpiry 16).wellFormed = false ∧ (Instr.freeTimerExpiry 16).wellFormed = false
    ∧ (Instr.freeTimerExpiry 15).wellFormed = true := by decide
theorem test_line_numbers_end_at_16777215 :
    (Instr.gapTimerExpiry 0).wellFormed = false ∧ (Instr.gapTimerExpiry 16777216).wellFormed = false
    ∧ (Instr.gapTimerExpiry 16777215).wellFormed = true := by decide
theorem test_code_0_is_no_command :
    (Instr.commandTakeBusy 0 []).wellFormed = false ∧ (Instr.unknownCommand 0 []).wellFormed = false := by decide
theorem test_a_named_code_is_not_unknown :
    (Instr.unknownCommand 4 []).wellFormed = false ∧ (Instr.unknownCommand 8 [3]).wellFormed = false
    ∧ (Instr.unknownCommand 9 [5]).wellFormed = false ∧ (Instr.unknownCommand 12 [1]).wellFormed = false := by decide
theorem test_a_code_or_selector_without_row_is_unknown :
    (Instr.unknownCommand 17 []).wellFormed = true ∧ (Instr.unknownCommand 8 [4]).wellFormed = true
    ∧ (Instr.unknownCommand 9 [6]).wellFormed = true ∧ (Instr.unknownCommand 11 [2]).wellFormed = true
    ∧ (Instr.unknownCommand 12 []).wellFormed = true := by decide
theorem test_a_response_is_read_with_one_byte_at_least :
    (Instr.responseRead 0).wellFormed = false ∧ (Instr.responseRead 1).wellFormed = true := by decide
theorem test_a_whole_transaction_is_not_short :
    (Instr.shortCommandTransaction [4, 0, 0]).wellFormed = false ∧ (Instr.shortCommandTransaction []).wellFormed = false
    ∧ (Instr.shortCommandTransaction [0]).wellFormed = false ∧ (Instr.shortCommandTransaction [4]).wellFormed = true
    ∧ (Instr.shortCommandTransaction [2, 1, 0]).wellFormed = true := by decide
theorem test_parameter_blocks_end_at_65535_bytes :
    (Instr.load (List.replicate 65536 0)).wellFormed = false ∧ (Instr.load (List.replicate 65535 0)).wellFormed = true
    ∧ (Instr.custodyHold (List.replicate 65535 0)).wellFormed = false
    ∧ (Instr.custodyHold (List.replicate 65534 0)).wellFormed = true := by
  refine ⟨?_, ?_, ?_, ?_⟩ <;> (simp only [Instr.wellFormed, paramsOk, restOk, List.length_replicate]; decide)

theorem test_no_word_spells_a_command : decodeTableWord 8 4 = none := rfl

/-! ## The worked examples of the spec -/

/-- 02, Worked sequence: defining a place name. -/
theorem test_fold_and_bucket_of_TEUL_and_PHAOER :
    fold 68610#23 = 68643 ∧ bucketOf 68610#23 6 = 35 ∧ fold 9640#23 = 9644 ∧ bucketOf 9640#23 4 = 12 := by decide

/-- The list 0x1000F0, then 0x100160 on: one table and two cells. -/
theorem test_allocation_of_TEUL_PHAOER :
    allocate 1 2 [0x1000F0, 0x100160, 0x100170, 0x100180, 0x100190, 0x1001A0, 0x1001B0]
      = some { tables := [0x100160], cells := [0x1000F0, 0x1001A0], free := [0x1001B0] } := by decide

/-- 03, Worked sequence: filling and replacing in one set. -/
theorem test_cache_sets_of_the_worked_sequence :
    cacheSetOf 160#23 0x100000 = 0 ∧ cacheSetOf 272#23 0x080000 = 0 ∧ cacheSetOf 160#23 0x000040 = 8
    ∧ cacheSetOf 1048576#23 0x100000 = 0 ∧ cacheSetOf 1048576#23 0x000040 = 8 := by decide

def jobEntry (v : Stroke) : CacheEntry :=
  { layer := 1, table := 0x080000, stroke := v, content := { cell := 64, fixed := false, text := none, next := none } }

def fourInSet : CacheSet :=
  (((CacheSet.reset.fill (jobEntry 160)).fill (jobEntry 272)).fill (jobEntry 1024)).fill (jobEntry 384)

theorem test_fills_take_the_lowest_way_then_the_least_recent :
    fourInSet.recency = [3, 2, 1, 0] ∧ touch fourInSet.recency 2 = [2, 3, 1, 0]
    ∧ (fourInSet.fill (jobEntry 1048576)).ways[0] = some (jobEntry 1048576)
    ∧ (fourInSet.fill (jobEntry 1048576)).recency = [0, 3, 2, 1] := by decide

/-- 05, Worked sequence: wrapping at width 40, its units U1 to U10. -/
def wrapUnits : List TextUnit :=
  [newUnit .translation [] (7 :: bytesOf "Q." ++ [6]), newUnit .translation [] (bytesOf "did"),
   newUnit .translation [] (bytesOf "you"), newUnit .translation [] (bytesOf "ever"), newUnit .translation [] (bytesOf "visit"),
   newUnit .translation [] (bytesOf "Tillmere"), newUnit .translation [] (1 :: bytesOf ","),
   newUnit .translation [] (bytesOf "in the"), newUnit .untranslate [] (stenoNotation 0x4001E#23),
   newUnit .translation [] (bytesOf "CV-2031-00417-TILLMERE-HARBOUR-FREIGHT-DOCKET")]

def wrapRegion : Region :=
  Region.render { Region.empty { Format.clear with cap := true } with units := wrapUnits } 40 5

theorem test_lines_of_the_wrapping_sequence :
    wrapRegion.lines = [bytesOf "     Q. Did you ever visit Tillmere, in", bytesOf "the TKPW-T",
      bytesOf "CV-2031-00417-TILLMERE-HARBOUR-FREIGHT-D", bytesOf "OCKET"] := by decide +kernel

theorem test_anchors_of_the_wrapping_sequence :
    wrapRegion.units.map TextUnit.anchor = [0, 0, 0, 0, 0, 0, 0, 0, 1, 2] := by decide +kernel

theorem test_steno_notation :
    stenoNotation 0x4001E#23 = bytesOf "TKPW-T" ∧ stenoNotation 512#23 = bytesOf "*"
    ∧ stenoNotation 0x400000#23 = bytesOf "#" ∧ stenoNotation 68610#23 = bytesOf "TEUL" := by decide +kernel

/-- 06, Worked sequence: checking a directed ASK. -/
def askOf1240 : Frame := Ask.frame { target := 4, first := 1240, count := 3, attempts := 0 } { Settings.default with station := 9 }

theorem test_characters_of_the_worked_ASK :
    askOf1240.chars = (true, 224) :: [4, 9, 216, 4, 0, 3, 205, 221].map fun b => (false, b) := by decide +kernel

/-- 07, Worked example: two signatures. -/
theorem test_signatures :
    Settings.default.signature = (96, 147) ∧ { Settings.default with shareMode := .static }.signature = (97, 148) := by decide

/-- 07, Worked example: credit at the holder. -/
theorem test_credit_of_the_worked_example :
    creditAfter 136 0 640 22 = (150, 80) ∧ reachTime 150 80 640 332 = 285 ∧ creditAfter 150 80 640 285 = (332, 480)
    ∧ creditAfter 332 480 640 32 = (352, 960) ∧ reachTime 20 960 640 332 = 486 := by decide

/-- 00: record line 1,234 is 50:9, record line 25 is 1:25. -/
theorem test_page_and_line : pageLine 1234 = bytesOf "50:9" ∧ pageLine 25 = bytesOf "1:25" := by decide +kernel

theorem test_a_damaged_character_sum_fails_the_check :
    (checkSums [224, 4, 9, 217, 4, 0, 3]) = (206, 225) ∧ (checkSums [224, 4, 9, 216, 4, 0, 3]) = (205, 221) := by decide

theorem test_memory_keeps_no_unlisted_byte :
    Memory.setByte (Memory.setByte [] 16777215 5) 16777215 0 = [] ∧ Memory.wf (Memory.setByte (Memory.setByte [] 9 1) 3 2) = true
    ∧ Memory.wf [(9, 1), (3, 2)] = false ∧ Memory.wf [(3, 0)] = false := by decide

/-! ## Small states -/

/-- The node 5, writer, of rank 2. -/
def g5 : Settings := { Settings.default with station := 5, writer := true, rank := 2 }

/-- State.reset ONLINE with a configuration. -/
def onWith (g : Settings) : State :=
  { State.reset with
    lcp := { Lcp.reset with online := true, config := some g },
    pub := { Pub.reset with signature := g.signature } }

def on : State := onWith g5

/-- The node 5 as writer and viewer, with one pane of two rows, at work. -/
def viewing : State :=
  { onWith { g5 with viewer := true } with
    vw := { Viewer.reset with paneA := some { rows := 2, source := .auto, offset := 0, pfx := true } } }

/-- Station 7, ADMITTED, of rank 2. -/
def peer : RosterSlot :=
  { RosterSlot.entered 7 0 with state := .admitted, newer := some (96, 147), older := some (96, 147), rank := 2, lapseAt := some 3000 }

/-- Slot 0 holds `q`. -/
def withSlot (s : State) (q : RosterSlot) : State := s.setRoster (s.roster.setSlot 0 (some q))

/-- The receive queue holds one frame. -/
def received (s : State) (k : FrameKind) (body : List Byte) : State :=
  s.setLnc { s.lnc with queue := [{ heading := headingByte k 1#5, body := body }] }

/-- The contact `n` takes `c`. -/
def withContact (s : State) (n : Nat) (c : Contact) : State := s.setKcu (s.kcu.setContact n c)

/-- One stroke record in the Stroke Queue. -/
def aRecord (number : Nat) (value : Stroke) (afterDrop : Bool) : StrokeRecord :=
  { number := number, value := value, openTime := 0, closeTime := 20, notTranslated := false, afterDrop := afterDrop }

def withStroke (s : State) (r : StrokeRecord) : State := s.setSq { s.sq with records := [r] }

/-- An operation is in service. -/
def serving (s : State) (c : MemClass) (op : MemOp) : State := s.setArb { s.arb with inService := some { cls := c, op := op } }

/-- ON_RECORD from line 100. -/
def onRecord (s : State) : State :=
  (s.setCu { s.cu with state := .onRecord }).setTb { s.tb with series := .record, nextRecord := some 100, horizon := 99 }

/-- GATHERING, with the claim of station 7. -/
def gathering (s : State) : State :=
  ((onRecord s).setCu
    { s.cu with state := .releasing, handOver := .gathering, claims := [{ station := 7, rank := 2, horizon := 99 }], settleAt := some 250 })

/-- CLAIMING, from IDLE. -/
def claiming (s : State) : State := s.setCu { s.cu with state := .claiming, prior := some .idle, claimAt := some 3000 }

/-- A command is in flight. -/
def busy (s : State) : State := s.setLcp { s.lcp with inFlight := some { code := 13, params := [] } }

/-- The state after a command. -/
def ran (c : Instr) (s : State) : State :=
  match exec c s with
  | .next t => t
  | _ => s

/-- The code of the READY response. -/
def answered (s : State) : Option Byte := s.lcp.response.map Response.code

/-! ## One step of each command -/

/-- Contact 2 of the chord of 01's worked sequence: down at 103, accepted at 108. -/
theorem test_RAW_LEVEL_CHANGE :
    (ran (.rawLevelChange 2 true) { on with clock := { on.clock with ms := 103 } }).kcu.contact 2
      = some { Contact.reset with rawDown := true, settleAt := some 108 } := by decide +kernel

def settling2 : State :=
  withContact { on with clock := { on.clock with ms := 103 } } 2 { Contact.reset with rawDown := true, settleAt := some 108 }

theorem test_SETTLING_TIMER_EXPIRY_down :
    (ran (.settlingTimerExpiry 2) settling2).kcu.chord = some { keys := 2, openTime := 108 }
    ∧ (ran (.settlingTimerExpiry 2) settling2).kcu.contact 2
      = some { rawDown := true, acceptedDown := true, settleAt := none, mark := .none, stuckAt := some 4108 } := by decide +kernel

/-- Contact 2 up again after the chord `T` opened at 108: a stroke at 155. -/
def releasing2 : State :=
  (withContact { on with clock := { on.clock with ms := 150 } } 2
    { rawDown := false, acceptedDown := true, settleAt := some 155, mark := .none, stuckAt := some 4108 }) |> fun s =>
    s.setKcu { s.kcu with chord := some { keys := 2, openTime := 108 } }

theorem test_SETTLING_TIMER_EXPIRY_up :
    (ran (.settlingTimerExpiry 2) releasing2).sq.records
      = [{ number := 1, value := 2, openTime := 108, closeTime := 155, notTranslated := false, afterDrop := false }]
    ∧ (ran (.settlingTimerExpiry 2) releasing2).kcu.nextStroke = 2 := by decide +kernel

theorem test_STUCK_TIMER_EXPIRY :
    (ran (.stuckTimerExpiry 2) releasing2).kcu.chord = none
    ∧ (ran (.stuckTimerExpiry 2) releasing2).lcp.latch 8 = some { event := .keyStuck 2 2, count := 1 } := by decide +kernel

theorem test_TAKE_STROKE :
    (ran .takeStroke (withStroke on (aRecord 1 2 false))).sq.records = []
    ∧ (ran .takeStroke (withStroke on (aRecord 1 2 false))).tb.region.lines = [bytesOf "T"] := by decide +kernel

theorem test_TAKE_STROKE_after_a_drop :
    (ran .takeStroke (withStroke on (aRecord 1 2 true))).tb.region.lines = [bytesOf "[?] T"] := by decide +kernel

/-- A directory with CASE root 256, cells from 256 to 1279 and a heap of 256 bytes from 2048. -/
def dir1 : Directory :=
  { caseRoot := 256, jobRoot := 0, mainRoot := 0, cellFirst := 256, cellCount := 64, heapStart := 2048, heapSize := 256,
    jobTextStart := 0, jobTextSize := 0, mainTextStart := 0, mainTextSize := 0 }

/-- A lookup of `T` in CASE at the cell at 1024. -/
def lookupT : Lookup :=
  { layer := 0, table := 256, stroke := 2, duRules := false, stage := .cell, exponent := 0, cellCount := 1, headAddr := 264,
    head := 1024, cellAddr := 1024, place := 1, prev := none }

def marks0 : ReqMarks := { generation := 0, raiseSeen := false, fenceSeen := false }

/-- The cell of `T`, with the text at 2048 of 3 bytes. -/
def cellT : List Byte := newCellBytes (fun _ => 0) 2 (some { addr := 2048, len := 3 }) none 0 0

/-- `T` is pending, its lookup in flight at the cell at 1024, which memory holds. -/
def walkingT : State :=
  { serving on .walk (.read 1024 16) with
    mem := Memory.setBytes [] 1024 cellT,
    du := { Du.reset with dir := some dir1, heapTop := some 2051 },
    te := { Te.reset with pendingBuf := [{ number := 1, value := 2 }], phase := .step, walkReq := some (.lookup lookupT marks0) } }

theorem test_WALK_READ_END :
    (ran .walkReadEnd walkingT).cache.lookup 0 256 2
      = some { cell := 1024, fixed := false, text := some { addr := 2048, len := 3 }, next := none }
    ∧ (ran .walkReadEnd walkingT).arb.inService = some { cls := .walk, op := .read 2048 3 } := by decide +kernel

/-- HOLD with `T` pending and its resolve timer at 600. -/
def holdingT : State :=
  { on with te := { Te.reset with pendingBuf := [{ number := 1, value := 2 }], walked := 1, phase := .hold, resolveAt := some 600 } }

theorem test_RESOLVE_TIMER_EXPIRY :
    (ran .resolveTimerExpiry holdingT).tb.region.lines = [bytesOf "T"] ∧ (ran .resolveTimerExpiry holdingT).clock.ms = 600 := by
  decide +kernel

def handingT : Handing := { strokes := [2], ref := { addr := 2048, len := 3 } }

/-- `T` stands untranslated in the open region, and the text `the` at 2048 is handed for it. -/
def untranslatedT : State :=
  { on with
    mem := Memory.setBytes [] 2048 (bytesOf "the"),
    tb := { Tb.reset with
      region := Region.render
        { Region.empty Format.clear with units := [newUnit .untranslate [{ number := 1, value := 2 }] (stenoNotation 2)] } 56 5 },
    te := { Te.reset with handings := [handingT] } }

theorem test_MATCH_CHECK :
    (ran .matchCheck untranslatedT).te.retr = .fetch handingT [] marks0
    ∧ (ran .matchCheck untranslatedT).arb.inService = some { cls := .retr, op := .read 2048 3 } := by decide +kernel

def retrieving : State :=
  { serving untranslatedT .retr (.read 2048 3) with te := { Te.reset with retr := .fetch handingT [] marks0 } }

theorem test_RETR_READ_END : (ran .retrReadEnd retrieving).te.retr = .requested [2] (bytesOf "the") := by decide +kernel

def replacing : State := { untranslatedT with te := { Te.reset with retr := .requested [2] (bytesOf "the") } }

theorem test_REPLACEMENT : (ran .replacement replacing).tb.region.lines = [bytesOf "the"] := by decide +kernel

/-- A local definition of `T` as `the`. -/
def defineT : DefEntry :=
  { kind := .define, source := 0, rank := 2, defNumber := none, strokes := [2], text := bytesOf "the", share := true }

def definable : State := { on with du := { Du.reset with dir := some dir1, heapTop := some 2048, queue := [defineT], freeCells := [1024] } }

theorem test_DU_SERVICE_START :
    (ran .duServiceStart definable).arb.inService = some { cls := .defn, op := .read 256 8 }
    ∧ (ran .duServiceStart definable).du.queue = [] := by decide +kernel

/-- The last write of an entry is in service. -/
def writingLast : State :=
  { serving definable .defn (.write 264 [0, 4, 0]) with
    du := { definable.du with queue := [], work := .write defineT { addr := 2048, len := 3 } [aWrite 264 [0, 4, 0]] } }

theorem test_DEF_OPERATION_END :
    Memory.byteAt (ran .defOperationEnd writingLast).mem 265 = 4
    ∧ (ran .defOperationEnd writingLast).du.work = .finish defineT { addr := 2048, len := 3 } [2] := by decide +kernel

def finishing : State :=
  { definable with du := { definable.du with queue := [], work := .finish defineT { addr := 2048, len := 3 } [2] } }

theorem test_FENCE_COMPLETE :
    (ran .fenceComplete finishing).du.generation = 1 ∧ (ran .fenceComplete finishing).te.handings = [handingT]
    ∧ (ran .fenceComplete finishing).lcp.latch 10 = some { event := .defineResult .done 2, count := 1 }
    ∧ (ran .fenceComplete finishing).pub.nextDefine = 1 := by decide +kernel

/-- The last operation of a LOAD of two bytes. -/
def loading : State :=
  (serving (busy State.reset) .host (.write 100 [1, 2])) |> fun s => s.setLcp { s.lcp with job := some (.load 100 [1, 2]) }

theorem test_EXPORT_OPERATION_END :
    (ran .exportOperationEnd loading).mem = [(100, 1), (101, 2)] ∧ answered (ran .exportOperationEnd loading) = some 0 := by
  decide +kernel

theorem test_CHARACTER_RECEIVED_opens_a_frame :
    (ran (.characterReceived true 224 true) on).lnc.assembly = some { bytes := [224], count := 1, damaged := false, own := false } := by
  decide +kernel

/-- The worked ASK of station 9 to station 4, assembled whole at a node whose number is 4. -/
def assembledAsk (g : Settings) : State :=
  (onWith g).setLnc
    { Lnc.reset with
      silence := 1,
      assembly := some { bytes := [224, 4, 9, 216, 4, 0, 3, 205, 221], count := 9, damaged := false, own := false } }

theorem test_FRAME_END_BY_SILENCE :
    (ran .frameEndBySilence (assembledAsk { g5 with station := 4 })).lnc.queue = [askOf1240]
    ∧ (ran .frameEndBySilence (assembledAsk g5)).lnc.queue = [] := by decide +kernel

def guarding : State := on.setLnc { Lnc.reset with silence := 2, guardAt := some 2 }

theorem test_TURNAROUND_GUARD_EXPIRY :
    (ran .turnaroundGuardExpiry guarding).lnc.quiet = some 4 ∧ (ran .turnaroundGuardExpiry guarding).lnc.guardAt = none := by
  decide +kernel

/-- A STATION waits in the slot of node 5, the quiet point at 4: it starts at silence 4 + 2 + 5. -/
def waitingStation : State :=
  (on.setLnc { Lnc.reset with silence := 4, quiet := some 4, slot := .waiting .station }).setPub
    { on.pub with stationWaiting := some 0 }

theorem test_TRANSMIT_START :
    (ran .transmitStart waitingStation).lnc.silence = 11 ∧ (ran .transmitStart waitingStation).clock.chars = 7
    ∧ (ran .transmitStart waitingStation).pub.stationInFlight = some 0
    ∧ (ran .transmitStart waitingStation).lnc.slot.inFlight = some .station := by decide +kernel

/-- The first character of the frame driven is read back. -/
def drivingStation : State := ran .transmitStart waitingStation

theorem test_CHARACTER_RECEIVED_as_echo :
    (ran (.characterReceived true 31 true) drivingStation).lnc.slot
      = .driving .station (drivingStation.stationFrame).chars 1
    ∧ (ran (.characterReceived true 30 true) drivingStation).lnc.aborted = 1
    ∧ (ran (.characterReceived true 30 true) drivingStation).pub.stationWaiting = some 1 := by decide +kernel

theorem test_START_BIT_SEEN :
    (ran (.startBitSeen true) on).lnc.busySince = some 0
    ∧ (ran (.startBitSeen false) (ran (.startBitSeen true) on)).lnc.busySince = none := by decide +kernel

/-- A LINE of cost 12 and a credit of 0 at share 800. -/
def shortOfCredit : State :=
  on.setPub { on.pub with share := 800, ownWeight := 8,
                          lineQueue := [{ number := 100, brk := false, text := [65], attempts := 0 }] }

theorem test_CREDIT_REACH :
    (ran .creditReach shortOfCredit).pub.credit = 12 ∧ (ran .creditReach shortOfCredit).clock.chars = 15
    ∧ (ran .creditReach shortOfCredit).lnc.slot = .waiting .line := by decide +kernel

/-- A STATION of station 7: writer, rank 2, ON_RECORD, signature 96, 147, horizon 99, share 640. -/
def station7 : List Byte := [7, 1, 2, 3, 0, 96, 147, 99, 0, 0, 128, 2]

theorem test_DELIVER_STATION_enters_a_slot :
    (ran .deliverStation (received on .station station7)).roster.indexOf 7 = some 0
    ∧ ((ran .deliverStation (received on .station station7)).roster.slot 0).map RosterSlot.state = some .heard := by decide +kernel

theorem test_DELIVER_STATION_admits_at_the_second :
    ((ran .deliverStation (received (ran .deliverStation (received on .station station7)) .station station7)).roster.slot 0).map
      RosterSlot.state = some .admitted := by decide +kernel

theorem test_DELIVER_CLAIM :
    (ran .deliverClaim (received (withSlot (onRecord on) peer) .claim [7, 2, 99, 0, 0])).cu.handOver = .gathering
    ∧ (ran .deliverClaim (received (withSlot (onRecord on) peer) .claim [7, 2, 99, 0, 0])).cu.settleAt = some 250 := by
  decide +kernel

/-- A RELEASE of station 7 to station 5, with last line 99 and next line 100. -/
theorem test_DELIVER_RELEASE :
    (ran .deliverRelease (received on .release [7, 5, 99, 0, 0, 100, 0, 0, 0])).cu.state = .onRecord
    ∧ (ran .deliverRelease (received on .release [7, 5, 99, 0, 0, 100, 0, 0, 0])).tb.nextRecord = some 100 := by decide +kernel

theorem test_DELIVER_REFUSE :
    (ran .deliverRefuse (received (claiming on) .refuse [5, 7, 1])).cu.state = .idle
    ∧ (ran .deliverRefuse (received (claiming on) .refuse [5, 7, 1])).lcp.latch 5
      = some { event := .claimOutcome .refused 7 1, count := 1 } := by decide +kernel

/-- A DEFINE of station 7, number 3, rank 2: `T` as `A`. -/
def define7 : List Byte := [7, 3, 2, 1, 2, 0, 0, 1, 0, 65]

theorem test_DELIVER_DEFINE :
    (ran .deliverDefine (received (withSlot on peer) .define define7)).du.queue
      = [{ kind := .define, source := 7, rank := 2, defNumber := some 3, strokes := [2], text := [65], share := false }]
    ∧ (ran .deliverDefine (received on .define define7)).du.queue = [] := by decide +kernel

theorem test_DELIVER_ASK :
    (ran .deliverAsk (received on .ask [5, 9, 216, 4, 0, 2])).pub.answers
      = [{ number := 1240, form := .gone, attempts := 0 }, { number := 1241, form := .gone, attempts := 0 }] := by decide +kernel

/-- A RECORD TAIL of station 7: committed 99, first open line 100, one line `A`. -/
def tail7 : List Byte := [7, 1, 3, 99, 0, 0, 100, 0, 0, 1, 1, 65]

theorem test_DELIVER_TAIL :
    ((ran .deliverTail (received (withSlot viewing peer) .tail tail7)).vw.tail 0).map TailImage.lines = some [[65]] := by
  decide +kernel

theorem test_DELIVER_LINE :
    (ran .deliverLine (received (withSlot viewing peer) .line [7, 100, 0, 0, 0, 1, 65])).vw.stateOf 100
      = some (.held false [65]) := by decide +kernel

theorem test_BEACON_TIMER_EXPIRY :
    (ran .beaconTimerExpiry (on.setPub { on.pub with beaconAt := some 500 })).pub.stationWaiting = some 0
    ∧ (ran .beaconTimerExpiry (on.setPub { on.pub with beaconAt := some 500 })).pub.beaconAt = some 1000 := by decide +kernel

theorem test_REFRESH_TIMER_EXPIRY :
    ((ran .refreshTimerExpiry (on.setPub { on.pub with refreshAt := some 0, ownWeight := 2 })).pub.tailWaiting).map TailImage.lines
      = some [[]]
    ∧ (ran .refreshTimerExpiry (on.setPub { on.pub with refreshAt := some 0 })).pub.tailWaiting = none := by decide +kernel

theorem test_LAPSE_TIMER_EXPIRY :
    ((ran (.lapseTimerExpiry 0) (withSlot on peer)).roster.slot 0).map RosterSlot.freeAt = some (some 33000)
    ∧ (ran (.lapseTimerExpiry 0) (withSlot on peer)).lcp.latch 15
      = some { event := .rosterChanged 7 .lapsed, count := 1 } := by decide +kernel

def lapsedPeer : RosterSlot := { peer with state := .lapsed, lapseAt := none, lapsedAt := some 3000, freeAt := some 33000 }

theorem test_FREE_TIMER_EXPIRY : (ran (.freeTimerExpiry 0) (withSlot on lapsedPeer)).roster.slot 0 = none := by decide +kernel

theorem test_CLAIM_TIMER_EXPIRY_takes_over :
    (ran .claimTimerExpiry (claiming on)).cu.state = .onRecord ∧ (ran .claimTimerExpiry (claiming on)).tb.nextRecord = some 1 := by
  decide +kernel

theorem test_SETTLE_TIMER_EXPIRY :
    (ran .settleTimerExpiry (gathering on)).cu.handOver = .handingOver 7
    ∧ (ran .settleTimerExpiry (gathering on)).cu.commitAllDue = true := by decide +kernel

def handingOver7 : State := (gathering on).setCu { (gathering on).cu with handOver := .handingOver 7, claims := [], settleAt := none, commitAllDue := true }

theorem test_COMMIT_ALL :
    (ran .commitAll handingOver7).cu.state = .shadow
    ∧ (ran .commitAll handingOver7).lnc.custodyList
      = [{ kind := .release, frame := { heading := headingByte .release 31#5, body := [5, 7, 99, 0, 0, 100, 0, 0, 0] }, attempts := 0 }] := by
  decide +kernel

/-- Line 100 waits for station 7. -/
def missing100 : State := viewing.setVw (viewing.vw.put 100 (.waiting 0 300 7))

theorem test_GAP_TIMER_EXPIRY :
    (ran (.gapTimerExpiry 100) missing100).vw.asks = [{ target := 7, first := 100, count := 1, attempts := 0 }]
    ∧ (ran (.gapTimerExpiry 100) missing100).vw.stateOf 100 = some (.waiting 1 ((ran (.gapTimerExpiry 100) missing100).clock.ms + 2000) 7) := by
  decide +kernel

def oneDirty : State := viewing.setSp { Screen.reset with rows := [[65], []], dirty := [0] }

theorem test_ROW_SEND_START : (ran .rowSendStart oneDirty).sp.send = some { row := 0, record := [0, 1, 65], given := 0 } := by
  decide +kernel

def sendingRow (given : Nat) : State :=
  viewing.setSp { Screen.reset with rows := [[65], []], send := some { row := 0, record := [0, 1, 65], given := given } }

theorem test_BUSY_CHANGE :
    (ran (.busyChange true) (sendingRow 0)).sp.busyPin = true
    ∧ ((ran (.busyChange true) (sendingRow 0)).sp.send).map RowSend.given = some 1 := by decide +kernel

theorem test_ROW_SEND_COMPLETE : (ran .rowSendComplete (sendingRow 3)).sp.send = none := by decide +kernel

/-! ## One transaction of each host command -/

theorem test_COMMAND_TAKE_BUSY : (ran (.commandTakeBusy 4 []) (busy on)).lcp.given = [3, 2] := by decide +kernel

theorem test_SHORT_COMMAND_TRANSACTION :
    (ran (.shortCommandTransaction [4]) on).lcp.given = [1] ∧ (ran (.shortCommandTransaction [4]) on).lcp.inFlight = none := by
  decide +kernel

theorem test_RESPONSE_READ :
    (ran (.responseRead 4) (ran (.go []) State.reset)).lcp.given = [6, 6, 1, 0]
    ∧ (ran (.responseRead 5) (ran (.go []) State.reset)).lcp.given = [6, 6, 1, 0, 1]
    ∧ (ran (.responseRead 5) (ran (.go []) State.reset)).lcp.inFlight = none := by decide +kernel

theorem test_UNKNOWN_COMMAND :
    answered (ran (.unknownCommand 200 []) on) = some 4 ∧ answered (ran (.unknownCommand 9 [6]) State.reset) = some 3 := by
  decide +kernel

/-- The record of a CONFIGURE with the default settings and station 5, writer. -/
def record5 : List Byte :=
  [5, 1, 1, 31, 31, 9, 56, 5] ++ leBytes 2 800 ++ [0, 3, 3, 3] ++ leBytes 2 250 ++ [1, 3, 5, 12, 4] ++ leBytes 2 600
    ++ leBytes 3 512 ++ (defaultKeyMap.toList.map fun k => BitVec.ofNat 8 k) ++ [25, 0, 0, 0, 1] ++ [0, 0, 0, 0, 1] ++ leBytes 2 65535

theorem test_CONFIGURE :
    (ran (.configure record5) State.reset).lcp.config = some { Settings.default with station := 5, writer := true, releaseToIdle := true }
    ∧ answered (ran (.configure [5]) State.reset) = some 4 := by decide +kernel

theorem test_LOAD :
    (ran (.load [100, 0, 0, 2, 0, 1, 2]) State.reset).arb.inService = some { cls := .host, op := .write 100 [1, 2] }
    ∧ answered (ran (.load [255, 255, 255, 2, 0, 1, 2]) State.reset) = some 4 := by decide +kernel

theorem test_READ_DICT :
    (ran (.readDict [255, 255, 255, 1, 0]) on).arb.inService = some { cls := .host, op := .read 16777215 1 } := by decide +kernel

theorem test_GO :
    (ran (.go []) (State.reset.setLcp { Lcp.reset with config := some g5 })).arb.inService = some { cls := .defn, op := .read 0 16 }
    ∧ (ran (.go []) State.reset).lcp.response = some { code := 6, data := [1] } := by decide +kernel

theorem test_RESTART :
    (ran (.restart []) (onRecord on)).lcp.online = false ∧ (ran (.restart []) (onRecord on)).cu = Cu.reset
    ∧ (ran (.restart []) (onRecord on)).lcp.config = some g5 := by decide +kernel

theorem test_FULL_RESET :
    (ran (.fullReset .pin) (serving (onRecord on) .defn (.write 100 [1, 2]))).mem = [(100, 1), (101, 2)]
    ∧ (ran (.fullReset .powerUp) (serving (onRecord on) .defn (.write 100 [1, 2]))) = State.reset := by decide +kernel

theorem test_DEFINE :
    (ran (.define ([1, 2, 0, 0, 3] ++ bytesOf "the" ++ [1])) on).du.queue = [defineT]
    ∧ answered (ran (.define [1, 0, 0, 0, 1, 65, 0]) on) = some 4 := by decide +kernel

theorem test_FORGET :
    ((ran (.forget [1, 2, 0, 0]) on).du.queue.map DefEntry.kind) = [.forget] ∧ answered (ran (.forget [1, 2, 0, 0]) on) = some 1 := by
  decide +kernel

/-- The Path Cache holds `T` of layer 1 under 64, FIXED or not. -/
def cached (fixed : Bool) : State :=
  on.setCache (Cache.reset.fill { layer := 1, table := 64, stroke := 2, content := { cell := 80, fixed := fixed, text := none, next := none } })

theorem test_FLUSH_CACHE_ALL :
    (ran (.flushCacheAll [0, 0, 0, 0]) (cached true)).cache.lookup 1 64 2 = none
    ∧ (ran (.flushCacheAll [0, 0, 0, 0]) (cached true)).du.generation = 1 := by decide +kernel

theorem test_FLUSH_CACHE_LAYER :
    (ran (.flushCacheLayer [1, 0, 0, 0]) (cached false)).cache.lookup 1 64 2 = none
    ∧ ((ran (.flushCacheLayer [1, 0, 0, 0]) (cached true)).cache.lookup 1 64 2).isSome = true := by decide +kernel

theorem test_FLUSH_CACHE_STROKE :
    (ran (.flushCacheStroke [0, 2, 0, 0]) (cached true)).cache.lookup 1 64 2 = none
    ∧ (ran (.flushCacheStroke [0, 0, 0, 0]) (cached true)).du.generation = 0 := by decide +kernel

theorem test_FLUSH_CACHE_STROKE_LAYER :
    (ran (.flushCacheStrokeLayer [1, 2, 0, 0]) (cached true)).cache.lookup 1 64 2 = none
    ∧ ((ran (.flushCacheStrokeLayer [0, 2, 0, 0]) (cached true)).cache.lookup 1 64 2).isSome = true := by decide +kernel

theorem test_CUSTODY_CLAIM :
    (ran (.custodyClaim []) on).cu.state = .claiming ∧ (ran (.custodyClaim []) on).cu.claimAt = some 3000 := by decide +kernel

theorem test_CUSTODY_RELEASE :
    (ran (.custodyRelease []) (onRecord on)).cu.handOver = .handingOver 0
    ∧ (ran (.custodyRelease []) (gathering on)).cu.handOver = .handingOver 7 := by decide +kernel

theorem test_CUSTODY_ENTER_SHADOW : (ran (.custodyEnterShadow []) on).cu.state = .shadow := by decide +kernel

theorem test_CUSTODY_LEAVE_SHADOW :
    (ran (.custodyLeaveShadow []) (on.setCu { Cu.reset with state := .shadow })).cu.state = .idle
    ∧ answered (ran (.custodyLeaveShadow []) on) = some 3 := by decide +kernel

theorem test_CUSTODY_HOLD :
    (ran (.custodyHold []) (gathering on)).cu.state = .onRecord
    ∧ (ran (.custodyHold []) (gathering on)).lnc.custodyList.map CustodyFrame.kind = [.refuse 7] := by decide +kernel

theorem test_CUSTODY_UNHOLD :
    (ran (.custodyUnhold []) (on.setCu { Cu.reset with hold := true })).cu.hold = false
    ∧ (ran (.custodyUnhold []) (on.setCu { Cu.reset with hold := true })).pub.stationWaiting = some 0 := by decide +kernel

theorem test_PANE :
    (ran (.pane [0, 31, 255, 1, 0]) viewing).vw.paneA = some { rows := 2, source := .self, offset := 511, pfx := false }
    ∧ answered (ran (.pane [0, 31, 0, 2, 0]) viewing) = some 4 := by decide +kernel

/-- The ring holds DRAFT line 1 with the text `A`. -/
def oneLine : State :=
  on.setTb
    { Tb.reset with
      nextDraft := 2, nextOrdinal := 2,
      ring := [{ series := .draft, number := 1, ordinal := 1, station := 5, brk := false, carried := false, text := [65], strokes := 2 }] }

def oneLineData : List Byte :=
  [0, 0, 0, 0, 1, 1, 0, 0, 0, 0, 1, 0, 0, 1, 0, 0, 1, 5, 0, 2, 0, 1, 65]

theorem test_READ_LINES_auto :
    (ran (.readLinesAuto [4]) oneLine).lcp.response = some { code := 0, data := oneLineData }
    ∧ (ran (.readLinesAuto [4]) oneLine).lcp.lineCursor = 2 := by decide +kernel

theorem test_READ_LINES_peek :
    (ran (.readLinesPeek [4]) oneLine).lcp.response = some { code := 0, data := oneLineData }
    ∧ (ran (.readLinesPeek [4]) oneLine).lcp.lineCursor = 1 := by decide +kernel

def oneNote : State := on.setNotes { NotesLog.reset with entries := [aRecord 1 2 false], unexported := 1 }

theorem test_READ_NOTES_auto :
    (ran (.readNotesAuto [16]) oneNote).lcp.response
      = some { code := 0, data := [1, 1, 0, 0, 0, 2, 0, 0, 0, 0, 0, 0, 0, 20, 0, 0, 0, 0, 0, 0, 0, 0, 0] }
    ∧ (ran (.readNotesAuto [16]) oneNote).notes.unexported = 0 := by decide +kernel

theorem test_READ_NOTES_peek :
    (ran (.readNotesPeek [16]) oneNote).notes.unexported = 1 ∧ answered (ran (.readNotesPeek [17]) oneNote) = some 4 := by
  decide +kernel

theorem test_READ_STATUS : ((ran (.readStatus []) on).lcp.response).map (fun r => r.data.length) = some 208 := by decide +kernel

theorem test_READ_ROSTER :
    (ran (.readRoster []) (withSlot on peer)).lcp.response
      = some { code := 0, data := [1, 0, 7, 1, 0, 0, 2, 0, 0, 0, 0, 0, 0, 96, 147, 255, 255, 0, 0, 0, 0] } := by decide +kernel

theorem test_READ_EVENT :
    (ran (.readEvent []) (on.latch (.keyStuck 3 7))).lcp.response = some { code := 0, data := [8, 1, 3, 7, 0, 0, 0, 0] }
    ∧ (ran (.readEvent []) (on.latch (.keyStuck 3 7))).attn = false := by decide +kernel

theorem test_SET_MASK :
    (ran (.setMask [0, 128]) on).lcp.mask = 0x8000#16 ∧ answered (ran (.setMask [0]) on) = some 4 := by decide +kernel

/-! ## States and operands that meet the hypotheses of the statements -/

theorem test_met_AnIdleStepIsOneCharacterTime :
    let s := { State.reset with clock := { State.reset.clock with us := 999 } }
    s.pending = [] ∧ s.clock.us < 1000 := by decide +kernel

theorem test_met_FullResetLeavesTheResetState :
    let s := serving State.reset .defn (.write 16777215 [1])
    s.mem.wf = true ∧ s.arb.inService = some { cls := .defn, op := .write 16777215 [1] } ∧ 16777215 + [(1 : Byte)].length ≤ memSize
    ∧ (serving State.reset .walk (.read 0 16)).arb.inService = some { cls := .walk, op := .read 0 16 }
    ∧ State.reset.arb.inService = none := by decide +kernel

theorem test_met_MemoryKeepsItsForm :
    loading.mem.wf = true ∧ step (loading.setPending [.exportOperationEnd]) = .next (ran .exportOperationEnd loading)
    ∧ (ran .exportOperationEnd loading).mem ≠ [] := by
  refine ⟨by decide +kernel, ?_, by decide +kernel⟩
  rfl

/-- A DRAFT line of the ring. -/
def aLine : CommittedLine :=
  { series := .draft, number := 1, ordinal := 1, station := 5, brk := false, carried := false, text := [], strokes := 0 }

/-- Every queue and list at its bound. -/
def fullBlocks : State :=
  { on with
    sq := { StrokeQueue.reset with records := List.replicate 32 (aRecord 1 2 false) },
    notes := { NotesLog.reset with entries := List.replicate 8192 (aRecord 1 2 false), unexported := 8192 },
    du := { Du.reset with queue := List.replicate 8 defineT },
    te := { Te.reset with handings := List.replicate 8 handingT },
    tb := { Tb.reset with ring := List.replicate 256 aLine },
    lnc := { Lnc.reset with queue := List.replicate 8 askOf1240 },
    pub := { Pub.reset with
      credit := 800, lineQueue := List.replicate 8 { number := 1, brk := false, text := [], attempts := 0 },
      answers := List.replicate 32 { number := 1, form := .gone, attempts := 0 },
      defines := List.replicate 8 { number := 1, strokes := [2], text := [65], attempts := 0 } },
    cu := { Cu.reset with claims := List.replicate 4 { station := 7, rank := 2, horizon := 0 } },
    vw := { Viewer.reset with asks := List.replicate 4 { target := 7, first := 1, count := 1, attempts := 0 } } }

theorem test_met_BoundsAreKept : Bounded fullBlocks ∧ ∃ t, step fullBlocks = .next t := by
  refine ⟨?_, _, rfl⟩
  simp [Bounded, fullBlocks, Lnc.reset, -List.reduceReplicate]

theorem test_met_CustodyStaysCoherent :
    Coherent (gathering on) ∧ Coherent (claiming on) ∧ ∃ t, step (gathering on) = .next t := by
  refine ⟨?_, ?_, _, rfl⟩ <;>
    simp [Coherent, gathering, claiming, onRecord, on, onWith, State.setCu, State.setTb, CustodyState.holds, State.reset, Tb.reset,
      Cu.reset]

theorem test_met_PortStaysCoherent : PortCoherent loading ∧ PortCoherent State.reset ∧ ∃ t, step loading = .next t := by
  refine ⟨?_, ?_, _, rfl⟩ <;> unfold PortCoherent <;> decide +kernel

theorem test_met_EveryTransactionIsOneRow :
    (255 : Byte) ≠ 0 ∧ (List.replicate 65535 (0 : Byte)).length ≤ 65535
    ∧ (Instr.custodyHold []).wellFormed = true ∧ (Instr.custodyHold []).hostCommand = some (9, [4]) := by
  refine ⟨by decide, ?_, by decide, rfl⟩
  simp only [List.length_replicate]
  decide

/-- A frame of a kind with `n` body bytes. -/
def bodyOf (k : FrameKind) (n : Nat) : Frame := { heading := headingByte k 31#5, body := List.replicate n 5 }

theorem test_met_AFrameSentIsTheFrameReceived :
    (bodyOf .refuse 3).kind.minBody ≤ (bodyOf .refuse 3).body.length ∧ (bodyOf .refuse 3).body.length ≤ 360
    ∧ (bodyOf .tail 360).kind.minBody ≤ (bodyOf .tail 360).body.length ∧ (bodyOf .tail 360).body.length ≤ 360 := by decide +kernel

def walkRequest : Request := { cls := .walk, op := .read 256 8 }
def hostRequestA : Request := { cls := .host, op := .read 0 16 }

theorem test_met_TheArbiterServesBatches :
    (Arbiter.reset.inService = none ∧ Arbiter.reset.batch = [] ∧ Arbiter.reset.stacked = [])
    ∧ (let a : Arbiter := { Arbiter.reset with inService := some walkRequest, stacked := [hostRequestA] }
       (a.inService ≠ none ∨ a.batch ≠ []) ∧ a.batch = [] ∧ a.stacked = hostRequestA :: []
       ∧ a.stacked.Pairwise (fun x y => x.cls.priority ≤ y.cls.priority))
    ∧ (let a : Arbiter := { Arbiter.reset with inService := some walkRequest, batch := [hostRequestA] }
       a.batch = hostRequestA :: []) := by
  refine ⟨by decide, ⟨by decide, by decide, by decide, ?_⟩, by decide⟩
  simp

theorem test_met_AFenceRemovesItsScope :
    (cached true).cache.sets[10].ways[0]
      = some { layer := 1, table := 64, stroke := 2, content := { cell := 80, fixed := true, text := none, next := none } }
    ∧ (cached true).cache.sets[10].ways[1] = none := by decide +kernel

theorem test_met_WeightsGiveTheShare :
    on.cfg.shareMode = .dynamic ∧ (onWith { g5 with shareMode := .static }).cfg.shareMode = .static := by decide +kernel

theorem test_met_ALatchKeepsTheFirstDetail :
    on.lcp.latch (Event.keyStuck 3 7).priority = none
    ∧ (on.setLcp { on.lcp with latches := on.lcp.latches.setIfInBounds 7 (some { event := .keyStuck 1 1, count := 255 }) }).lcp.latch
        (Event.keyStuck 3 7).priority = some { event := .keyStuck 1 1, count := 255 }
    ∧ 1 ≤ 16 ∧ 16 ≠ (Event.keyStuck 3 7).priority := by decide +kernel

theorem test_met_ARawLevelChangeStartsOrEndsSettling :
    contactOk 1 = true ∧ contactOk 28 = true ∧ on.kcu.contact 1 = some Contact.reset ∧ on.kcu.contact 28 = some Contact.reset := by
  decide +kernel

theorem test_met_AnAcceptedDownOpensOrJoinsTheChord :
    settling2.kcu.contact 2 = some { Contact.reset with rawDown := true, settleAt := some 108 } ∧ settling2.kcu.keyOf 2 ≠ 0
    ∧ settling2.kcu.chord = none ∧ settling2.online = true ∧ settling2.cfg.writer = true ∧ settling2.kcu.exhausted = false
    ∧ (withContact settling2 28 { Contact.reset with rawDown := true, settleAt := some 108 }).kcu.keyOf 28 = 0
    ∧ (withContact settling2 28 { Contact.reset with rawDown := true, settleAt := some 108 }).kcu.contact 28
      = some { Contact.reset with rawDown := true, settleAt := some 108 } := by decide +kernel

theorem test_met_AnAcceptedUpClosesTheChord :
    (∀ m, 1 ≤ m → m ≤ 28 → m ≠ 2 → releasing2.kcu.live m = false) ∧ contactOk 2 = true
    ∧ releasing2.kcu.contact 2 = some { rawDown := false, acceptedDown := true, settleAt := some 155, mark := .none, stuckAt := some 4108 }
    ∧ releasing2.kcu.chord = some { keys := 2, openTime := 108 } ∧ releasing2.kcu.live 2 = true
    ∧ releasing2.kcu.graze ≤ ((ran (.settlingTimerExpiry 2) releasing2).clock.ms - 108).toNat
    ∧ ((ran (.settlingTimerExpiry 2) releasing2).clock.ms - 150).toNat < releasing2.kcu.graze
    ∧ releasing2.kcu.nextStroke < 4294967295 := by
  refine ⟨?_, by decide +kernel⟩
  intro m h1 h2 h3
  interval_cases m <;> first | rfl | exact absurd rfl h3

theorem test_met_AnAcceptedUpClosesTheChord_at_the_last_number :
    let s := releasing2.setKcu { releasing2.kcu with nextStroke := 4294967295 }
    s.kcu.contact 2 = releasing2.kcu.contact 2 ∧ 4294967295 ≤ s.kcu.nextStroke
    ∧ (releasing2.setKcu { releasing2.kcu with chord := none }).kcu.chord = none
    ∧ (withContact releasing2 3 { Contact.reset with acceptedDown := true }).kcu.live 3 = true := by decide +kernel

theorem test_met_AStrokeReachesQueueAndLog :
    on.sq.records.length < 32 ∧ 32 ≤ fullBlocks.sq.records.length ∧ on.notes.entries.length < 8192
    ∧ 8192 ≤ fullBlocks.notes.entries.length ∧ 8192 ≤ fullBlocks.notes.unexported
    ∧ ({ fullBlocks.notes with unexported := 8191 } : NotesLog).unexported < 8192
    ∧ ({ on.notes with unexported := 7167 } : NotesLog).unexported = 7167 ∧ on.notes.unexported ≠ 7167 := by
  simp [fullBlocks, on, onWith, State.reset, StrokeQueue.reset, NotesLog.reset, -List.reduceReplicate]

theorem test_met_AStuckExpiryMarksTheContact :
    releasing2.kcu.contact 2 = some { rawDown := false, acceptedDown := true, settleAt := some 155, mark := .none, stuckAt := some 4108 }
    ∧ releasing2.kcu.chord = some { keys := 2, openTime := 108 }
    ∧ (withContact releasing2 3 { Contact.reset with acceptedDown := true }).kcu.live 3 = true
    ∧ releasing2.kcu.graze ≤ ((ran (.stuckTimerExpiry 2) releasing2).clock.ms - 108).toNat
    ∧ ((ran (.stuckTimerExpiry 2) releasing2).clock.ms - 4100).toNat < releasing2.kcu.graze := by decide +kernel

theorem test_met_TakeStrokeMovesTheOldestRecord :
    let s := withStroke on (aRecord 1 2 false)
    let d := withStroke holdingT (aRecord 2 2 true)
    let u := withStroke on (aRecord 2 512 false)
    (s.sq.records = aRecord 1 2 false :: [] ∧ s.te.free = true ∧ (aRecord 1 2 false).value ≠ s.cfg.undoStroke
      ∧ (aRecord 1 2 false).afterDrop = false)
    ∧ (d.sq.records = aRecord 2 2 true :: [] ∧ d.te.free = true ∧ (aRecord 2 2 true).afterDrop = true ∧ d.te.pendingBuf ≠ [])
    ∧ (u.te.free = true ∧ (aRecord 2 512 false).value = u.cfg.undoStroke ∧ u.te.pendingBuf = [] ∧ u.tb.region.units.getLast? = none)
    ∧ (withStroke holdingT (aRecord 2 512 false)).te.pendingBuf ≠ []
    ∧ ((withStroke on (aRecord 1 2 true)).te.free = true ∧ (withStroke on (aRecord 1 2 true)).te.pendingBuf = []
      ∧ (aRecord 1 2 true).value ≠ on.cfg.undoStroke)
    ∧ on.sq.records = [] := by decide +kernel

theorem test_met_TakeStroke_undo_of_open_units :
    untranslatedT.te.pendingBuf = [] ∧ untranslatedT.te.free = true
    ∧ (untranslatedT.tb.region.units.getLast?).map TextUnit.kind = some .untranslate
    ∧ (on.setUnits [newUnit .drop [] dropText]).tb.region.units.getLast?.map TextUnit.kind = some .drop := by decide +kernel

theorem test_met_AWalkReadEndsItsRequest_lookup :
    walkingT.arb.inService = some { cls := .walk, op := .read 1024 16 } ∧ walkingT.te.walkReq = some (.lookup lookupT marks0)
    ∧ lookupT.stage = .cell ∧ lookupT.cellAddr = 1024
    ∧ cellFaults walkingT.dir 0 1024 (CellData.ofBytes (walkingT.mem.bytesAt 1024 16)) = []
    ∧ (CellData.ofBytes (walkingT.mem.bytesAt 1024 16)).stroke = lookupT.stroke.toNat
    ∧ (CellData.ofBytes (walkingT.mem.bytesAt 1024 16)).stroke ≠ ({ lookupT with stroke := 3 } : Lookup).stroke.toNat
    ∧ (CellData.ofBytes (walkingT.mem.bytesAt 1024 16)).link = 0
    ∧ on.serving .walk = none := by decide +kernel

/-- A walk text fetch of the 3 bytes at 2048. -/
def fetchingT (text : List Byte) : State :=
  { serving on .walk (.read 2048 3) with
    mem := Memory.setBytes [] 2048 text,
    te := { Te.reset with
      pendingBuf := [{ number := 1, value := 2 }], walked := 1, phase := .fetch,
      walkReq := some (.fetch { layer := 0, ref := { addr := 2048, len := 3 } } 1 [] marks0) } }

theorem test_met_AWalkReadEndsItsRequest_fetch :
    (fetchingT (bytesOf "the")).arb.inService = some { cls := .walk, op := .read 2048 3 }
    ∧ (∀ b ∈ (fetchingT (bytesOf "the")).mem.bytesAt 2048 3, inTextCode b = true) ∧ 3 ≤ ([] : List Byte).length + 3
    ∧ inTextCode (Memory.byteAt (fetchingT (bytesOf "th")).mem (2048 + 2)) = false
    ∧ (∀ j, j < 2 → inTextCode (Memory.byteAt (fetchingT (bytesOf "th")).mem (2048 + j)) = true) ∧ 2 < 3
    ∧ marks0.raiseSeen = false := by decide +kernel

theorem test_met_TheResolveTimerDemandsOneResolution : holdingT.te.resolveAt = some 600 := by decide +kernel

theorem test_met_AMatchCheckStartsARetranslation :
    untranslatedT.te.retr = .idle ∧ untranslatedT.te.handings = handingT :: [] ∧ hasRun handingT.strokes untranslatedT.tb.region.units = true
    ∧ untranslatedT.te.kept = none
    ∧ hasRun handingT.strokes ({ untranslatedT with tb := Tb.reset } : State).tb.region.units = false
    ∧ ({ untranslatedT.te with kept := some { ref := handingT.ref, text := bytesOf "the" } } : Te).kept
      = some { ref := handingT.ref, text := bytesOf "the" }
    ∧ replacing.te.retr ≠ .idle ∧ on.te.handings = [] := by decide +kernel

theorem test_met_RetranslationFetchesAndReplaces :
    retrieving.arb.inService = some { cls := .retr, op := .read 2048 3 } ∧ retrieving.te.retr = .fetch handingT [] marks0
    ∧ (∀ b ∈ retrieving.mem.bytesAt 2048 3, inTextCode b = true) ∧ handingT.ref.len ≤ ([] : List Byte).length + 3
    ∧ replacing.te.retr = .requested [2] (bytesOf "the") ∧ hasRun [2] replacing.tb.region.units = true
    ∧ hasRun [3] replacing.tb.region.units = false
    ∧ (Region.render { replacing.tb.region with units := replaceRuns [2] (bytesOf "the") 0 replacing.tb.region.units }
        replacing.cfg.width replacing.cfg.indent).lines.length ≤ 4 := by decide +kernel

theorem test_met_ADefinitionIsServedByOperations :
    (definable.du.work = .idle ∧ definable.du.queue = defineT :: [] ∧ definable.dir.caseRoot % 8 = 0
      ∧ definable.dir.inCells definable.dir.caseRoot 8 = true)
    ∧ (let s := definable.setDu { definable.du with dir := some { dir1 with caseRoot := 4096 } }
       ¬ (s.dir.caseRoot % 8 = 0 ∧ s.dir.inCells s.dir.caseRoot 8 = true))
    ∧ (writingLast.mem.wf = true ∧ writingLast.du.work = .write defineT { addr := 2048, len := 3 } (aWrite 264 [0, 4, 0] :: [])
      ∧ writingLast.arb.inService = some { cls := .defn, op := .write 264 [0, 4, 0] } ∧ 264 + [(0 : Byte), 4, 0].length ≤ memSize)
    ∧ on.du.queue = [] ∧ on.serving .defn = none := by decide +kernel

/-- PLAN of `defineT` waits for the root header, of exponent 12 or 0. -/
def planningT (exponent : Byte) : State :=
  { serving definable .defn (.read 256 8) with
    mem := Memory.setByte [] 256 exponent,
    du := { definable.du with
      queue := [], dir := some { dir1 with cellCount := 1024, heapStart := 32768 },
      work := .plan defineT { lookupT with duRules := true, stage := .header, cellCount := 0, headAddr := 0, head := 0, cellAddr := 0,
                                           place := 0 } [] } }

theorem test_met_ADefinitionIsServedByOperations_plan :
    (Memory.byteAt (planningT 12).mem 256).toNat = 12 ∧ 256 + tableBytes 12 ≤ memSize
    ∧ (planningT 12).dir.inCells 256 (tableBytes 12) = true
    ∧ (planningT 12).arb.inService = some { cls := .defn, op := .read 256 8 }
    ∧ (planningT 0).dir.inCells 256 (tableBytes 0) = true := by decide +kernel

def goingOnline : State :=
  { serving (busy State.reset) .defn (.write 256 (headerBytes 0 1)) with
    du := { Du.reset with dir := some dir1, heapTop := some 2048, work := .goCounts [aWrite 256 (headerBytes 0 1)] } }

theorem test_met_GoPutsTheNodeOnline :
    goingOnline.mem.wf = true ∧ goingOnline.du.work = .goCounts [aWrite 256 (headerBytes 0 1)]
    ∧ goingOnline.arb.inService = some { cls := .defn, op := .write 256 (headerBytes 0 1) }
    ∧ 256 + (headerBytes 0 1).length ≤ memSize := by decide +kernel

theorem test_GO_completes :
    (ran .defOperationEnd goingOnline).online = true ∧ answered (ran .defOperationEnd goingOnline) = some 0
    ∧ Memory.byteAt (ran .defOperationEnd goingOnline).mem 257 = 1 := by decide +kernel

theorem test_met_FinishFencesEveryStroke :
    (2 : Stroke) ≠ 0 ∧ finishing.du.work = .finish defineT { addr := 2048, len := 3 } [2]
    ∧ ({ finishing.du with work := .finish defineT { addr := 2048, len := 3 } [2, 4] } : Du).work
      = .finish defineT { addr := 2048, len := 3 } (2 :: 4 :: [])
    ∧ defineT.kind = .define ∧ ({ defineT with kind := .forget } : DefEntry).kind = .forget
    ∧ defineT.source = 0 ∧ defineT.share = true ∧ finishing.cfg.sharing.sends = true ∧ finishing.cu.conflict = false
    ∧ finishing.pub.defines.length < 8 ∧ ¬ ({ defineT with share := false } : DefEntry).share = true := by decide +kernel

theorem test_met_FinishFencesEveryStroke_idle : ∀ e ref v rest, on.du.work ≠ .finish e ref (v :: rest) := by
  intro e ref v rest h
  exact absurd (show DuWork.idle = _ from h) (by simp)

theorem test_met_AReceivedDefinitionIsQueued :
    let s := received (withSlot on peer) .define define7
    s.lnc.queue = { heading := headingByte .define 1#5, body := define7 } :: []
    ∧ ({ heading := headingByte .define 1#5, body := define7 } : Frame).kind = .define
    ∧ s.roster.indexOf 7 = some 0 ∧ s.roster.slot 0 = some peer ∧ peer.state = .admitted ∧ s.cfg.sharing.receives = true
    ∧ peer.lastDefine ≠ some (fieldAt define7 1 1) ∧ DefineBody.parse define7 = some { rank := 2, strokes := [2], text := [65] }
    ∧ s.du.queue.length < 8 ∧ DefineBody.parse [7, 3, 2, 1, 0, 0, 0, 1, 0, 65] = none
    ∧ (onWith { g5 with sharing := .off }).cfg.sharing.receives = false
    ∧ ({ peer with lastDefine := some 3 } : RosterSlot).lastDefine = some (fieldAt define7 1 1) := by decide +kernel

theorem test_met_CharactersAssembleToFrames :
    on.lnc.slot.isDriving = false ∧ State.reset.online = false ∧ on.online = true ∧ on.lnc.assembly = none
    ∧ (assembledAsk g5).lnc.assembly.isSome = true := by decide +kernel

/-- The assembly of the worked ASK, whole, and as damaged on the way. -/
def wholeAsk : Assembly := { bytes := [224, 4, 9, 216, 4, 0, 3, 205, 221], count := 9, damaged := false, own := false }

theorem test_met_CharactersAssembleToFrames_verdicts :
    wholeAsk.verdict = .good askOf1240 ∧ ({ g5 with station := 4 } : Settings).accepts askOf1240 = true ∧ g5.accepts askOf1240 = false
    ∧ ({ wholeAsk with bytes := [224, 4, 9, 217, 4, 0, 3, 205, 221] } : Assembly).verdict = .bad .check
    ∧ ({ wholeAsk with own := true } : Assembly).verdict = .own := by decide +kernel

theorem test_met_TheEchoDecidesTheAttempt :
    drivingStation.online = true
    ∧ drivingStation.lnc.slot = .driving .station drivingStation.stationFrame.chars 0
    ∧ drivingStation.stationFrame.chars[0]? = some (true, 31) ∧ 0 + 1 < drivingStation.stationFrame.chars.length
    ∧ drivingStation.stationFrame.chars.length = 15 ∧ ¬ (drivingStation.stationFrame.chars[0]? = some (true, 30))
    ∧ (drivingStation.setLnc { drivingStation.lnc with slot := .driving .line [(true, 65)] 0 }).lnc.slot = .driving .line [(true, 65)] 0
    ∧ shortOfCredit.pub.lineQueue = { number := 100, brk := false, text := [65], attempts := 0 } :: [] := by decide +kernel

theorem test_met_StartBitsAndGuardsMoveTheQuietPoint : guarding.lnc.guardAt = some 2 := by decide +kernel

theorem test_met_AnEndedFrameIsFinished :
    (assembledAsk g5).lnc.assembly = some wholeAsk ∧ (assembledAsk g5).lnc.busySince = none ∧ wholeAsk.verdict = .good askOf1240
    ∧ (assembledAsk { g5 with station := 4 }).cfg.accepts askOf1240 = true ∧ (assembledAsk g5).cfg.accepts askOf1240 = false
    ∧ (assembledAsk g5).lnc.queue.length < 8
    ∧ ((assembledAsk g5).setLnc { (assembledAsk g5).lnc with queue := List.replicate 8 askOf1240 }).lnc.queue.length = 8 := by
  decide +kernel

theorem test_met_ATransmitStartDrivesTheFrame :
    waitingStation.lnc.slot = .waiting .station ∧ waitingStation.lnc.clearToSend = true
    ∧ waitingStation.frameOf .station = some waitingStation.stationFrame ∧ Source.station.metered = false
    ∧ Source.line.metered = true := by decide +kernel

theorem test_met_ThePublishersTimersActInTime :
    shortOfCredit.heldCosts.min? = some 12 ∧ shortOfCredit.pub.share ≠ 0 ∧ 12 ≤ 800 ∧ on.heldCosts = []
    ∧ (on.setPub { on.pub with lineQueue := [{ number := 100, brk := false, text := List.replicate 800 65, attempts := 0 }] }).heldCosts.min?
        = some 811
    ∧ (on.setPub { on.pub with beaconAt := some 500 }).pub.beaconAt = some 500
    ∧ (on.setPub { on.pub with refreshAt := some 0 }).pub.refreshAt = some 0 := by decide +kernel

theorem test_met_AnAskFillsTheAnswerSet :
    let s := received on .ask [5, 9, 255, 255, 255, 8]
    s.lnc.queue = { heading := headingByte .ask 1#5, body := [5, 9, 255, 255, 255, 8] } :: []
    ∧ ({ heading := headingByte .ask 1#5, body := [5, 9, 255, 255, 255, 8] } : Frame).kind = .ask
    ∧ AskBody.parse [5, 9, 255, 255, 255, 8] = some { target := 5, asker := 9, first := 16777215, count := 8 }
    ∧ s.cu.conflict = false ∧ s.pub.answers.length + 8 ≤ 32 ∧ 16777215 ≤ maxLine
    ∧ AskBody.parse [5, 9, 1, 0, 0, 9] = some { target := 5, asker := 9, first := 1, count := 9 }
    ∧ AskBody.parse [5, 9, 0, 0, 0, 1] = some { target := 5, asker := 9, first := 0, count := 1 } := by decide +kernel

/-- Sixteen other stations, 10 to 25, all ADMITTED, or slot 3 LAPSED. -/
def fullRoster (lapsed : Bool) : State :=
  (received on .station station7).setRoster
    { slots := Vector.ofFn fun i => some (if lapsed = true ∧ i.val = 3 then { lapsedPeer with station := 13 } else { peer with station := 10 + i.val }),
      refused := 0 }

def stationBody7 : StationBody :=
  { station := 7, roles := 1, rank := 2, custody := .onRecord, flags := 0, sig := (96, 147), horizon := 99, share := 640 }

theorem test_met_AStationIsTakenIntoItsSlot :
    (received on .station station7).lnc.queue = { heading := headingByte .station 1#5, body := station7 } :: []
    ∧ ({ heading := headingByte .station 1#5, body := station7 } : Frame).kind = .station
    ∧ StationBody.parse station7 = some stationBody7 ∧ stationBody7.station ≠ on.own
    ∧ (received (withSlot on peer) .station station7).roster.indexOf 7 = some 0
    ∧ (received (withSlot on peer) .station station7).roster.slot 0 = some peer
    ∧ (received (withSlot on lapsedPeer) .station station7).roster.slot 0 = some lapsedPeer
    ∧ on.roster.indexOf 7 = none ∧ on.roster.freeSlot = some 0
    ∧ (fullRoster true).roster.indexOf 7 = none ∧ (fullRoster true).roster.freeSlot = none
    ∧ (fullRoster true).roster.oldestLapsed (fullRoster true).clock.ms = some 3
    ∧ (fullRoster true).roster.slot 3 = some { lapsedPeer with station := 13 }
    ∧ (fullRoster false).roster.freeSlot = none
    ∧ (fullRoster false).roster.oldestLapsed (fullRoster false).clock.ms = none := by decide +kernel

theorem test_met_AStationWithTheOwnNumberIsAConflict :
    let s := received on .station (patch station7 0 [5])
    s.lnc.queue = { heading := headingByte .station 1#5, body := patch station7 0 [5] } :: []
    ∧ StationBody.parse (patch station7 0 [5]) = some { stationBody7 with station := 5 } ∧ s.own = 5 ∧ s.cu.conflict = false
    ∧ (s.setCu { Cu.reset with conflict := true }).cu.conflict = true ∧ (onRecord s).cu.state.holds = true := by decide +kernel

theorem test_met_SlotsLapseAndAreFreed :
    slotOk 0 = true ∧ slotOk 15 = true ∧ (withSlot on peer).roster.slot 0 = some peer ∧ peer.lapseAt = some 3000
    ∧ (withSlot on lapsedPeer).roster.slot 0 = some lapsedPeer ∧ lapsedPeer.freeAt = some 33000 := by decide +kernel

def claim7 : Frame := { heading := headingByte .claim 1#5, body := [7, 2, 99, 0, 0] }

theorem test_met_AClaimIsJudged :
    claim7.kind = .claim ∧ Claim.parse claim7.body = some { station := 7, rank := 2, horizon := 99 }
    ∧ (received on .claim claim7.body).lnc.queue = claim7 :: [] ∧ on.cfg.writer = true ∧ on.cu.conflict = false
    ∧ (onRecord on).cu.state = .onRecord ∧ ((gathering on).cu.state = .releasing ∧ (gathering on).cu.handOver = .gathering)
    ∧ (onRecord on).cu.hold = false ∧ (withSlot (onRecord on) peer).roster.admits 7 = true ∧ (onRecord on).roster.admits 7 = false
    ∧ (∀ x ∈ (onRecord on).cu.claims, x.station ≠ 7) ∧ (∃ x ∈ (gathering on).cu.claims, x.station = 7)
    ∧ (claiming on).cu.state = .claiming ∧ better 3 7 on.cfg.rank on.own = true ∧ better 2 7 on.cfg.rank on.own = false
    ∧ handingOver7.cu.state = .releasing ∧ handingOver7.cu.handOver ≠ .gathering := by decide +kernel

/-- A RELEASE of station 7, to a station, with a next line. -/
def release7 (target next : Byte) : Frame := { heading := headingByte .release 31#5, body := [7, target, 99, 0, 0, next, 0, 0, 0] }

theorem test_met_AReleaseHandsTheRecordOver :
    (release7 5 100).kind = .release
    ∧ (ReleaseBody.parse (release7 5 100).body).map (fun r => (r.station, r.target, r.next)) = some (7, 5, 100)
    ∧ on.cu.state.holds = false ∧ on.own ≠ 0 ∧ on.tb.series = .draft ∧ on.tb.horizon < 100
    ∧ (ReleaseBody.parse (release7 5 0).body).map ReleaseBody.next = some 0
    ∧ (let s := on.setTb { on.tb with horizon := 100 }
       100 ≤ s.tb.horizon ∧ s.tb.horizon < 16777215 ∧ s.tb.series = .draft)
    ∧ (ReleaseBody.parse (release7 0 100).body).map ReleaseBody.target = some 0
    ∧ (ReleaseBody.parse (release7 9 100).body).map ReleaseBody.target = some 9 ∧ (claiming on).cu.state = .claiming
    ∧ (on.setTb { on.tb with horizon := 16777214 }).tb.horizon < 16777215 := by decide +kernel

theorem test_met_AClaimEndsByRefusalOrTime :
    RefuseBody.parse [5, 7, 1] = some { addressee := 5, station := 7, reason := 1 } ∧ (claiming on).cu.state = .claiming
    ∧ (5 = on.own) ∧ (claiming on).cu.claimAt = some 3000 ∧ (claiming on).tb.series = .draft ∧ (claiming on).roster.holder = none
    ∧ (withSlot (claiming on) { peer with custody := .onRecord }).roster.holder = some { peer with custody := .onRecord }
    ∧ on.cu.state ≠ .claiming ∧ on.tb.horizon < 16777215 := by decide +kernel

theorem test_met_AHandOverFlushesCommitsAndReleases :
    (gathering on).cu.settleAt = some 250
    ∧ (gathering on).cu.claims.foldl betterClaim none = some { station := 7, rank := 2, horizon := 99 }
    ∧ handingOver7.cu.commitAllDue = true ∧ handingOver7.cu.handOver = .handingOver 7 ∧ on.cu.commitAllDue = false := by decide +kernel

def tailBody7 : TailBody :=
  { station := 7,
    image := { series := .record, custody := .onRecord, committed := 99, firstOpen := 100, lines := [[65]], attempts := 0 } }

theorem test_met_TailsAndLinesReachTheViewer :
    TailBody.parse tail7 = some tailBody7 ∧ (withSlot viewing peer).roster.indexOf 7 = some 0
    ∧ (viewing.setVw { viewing.vw with followed := some (.station 7) }).vw.followed = some (.station 7)
    ∧ viewing.vw.followed ≠ some (.station 7)
    ∧ LineBody.parse [7, 100, 0, 0, 0, 1, 65] = some { station := 7, number := 100, brk := false, gone := false, text := [65] }
    ∧ LineBody.parse [7, 100, 0, 0, 4, 0] = some { station := 7, number := 100, brk := false, gone := true, text := [] }
    ∧ viewing.roster.admits 7 = false ∧ (withSlot viewing peer).roster.admits 7 = true
    ∧ viewing.vw.stateOf 100 = none ∧ viewing.vw.takes 100 = true ∧ missing100.vw.stateOf 100 = some (.waiting 0 300 7)
    ∧ (viewing.vw.put 100 .lost).stateOf 100 = some .lost
    ∧ (viewing.vw.put 100 (.held false [65])).stateOf 100 = some (.held false [65]) := by decide +kernel

theorem test_met_AGapIsAskedForOrLost :
    lineOk 100 = true ∧ lineOk 16777215 = true ∧ missing100.vw.stateOf 100 = some (.waiting 0 300 7)
    ∧ (viewing.vw.put 100 (.waiting 2 300 7)).stateOf 100 = some (.waiting 2 300 7)
    ∧ (viewing.vw.put 100 (.waiting 3 300 7)).stateOf 100 = some (.waiting 3 300 7)
    ∧ missing100.cu.conflict = false ∧ missing100.vw.asks.length < 4
    ∧ 4 ≤ ({ missing100.vw with asks := List.replicate 4 { target := 7, first := 1, count := 1, attempts := 0 } } : Viewer).asks.length := by
  decide +kernel

theorem test_met_RowsAreSentOneAtATime :
    oneDirty.sp.send = none ∧ oneDirty.sp.dirty = 0 :: [] ∧ oneDirty.sp.busyPin = false
    ∧ (sendingRow 3).sp.send = some { row := 0, record := [0, 1, 65], given := 3 } ∧ (sendingRow 3).sp.busyPin = false
    ∧ viewing.sp.dirty = [] := by decide +kernel

theorem test_met_TransactionsGiveWhatThePortHolds :
    (Instr.go []).hostCommand = some (4, []) ∧ (busy on).lcp.inFlight.isSome = true ∧ isShort [4] = true ∧ on.lcp.response = none
    ∧ (let s := ran (.go []) State.reset
       s.lcp.response = some { code := 6, data := [1] }
       ∧ (s.lcp.status :: 6 :: (leBytes 2 1 ++ [1])).length = 5) := by decide +kernel

theorem test_met_RefusedCommandsOnlyAnswer :
    (Instr.load (List.replicate 265 0)).hostCommand = some (2, List.replicate 265 0) ∧ on.lcp.inFlight = none
    ∧ 264 < (List.replicate 265 (0 : Byte)).length ∧ on.online = true ∧ State.reset.online = false ∧ unnamed 17 [] = true
    ∧ unnamed 8 [4] = true ∧ (Instr.define []).hostCommand = some (6, []) := by decide +kernel

theorem test_met_ConfigureHoldsTheRecord :
    State.reset.lcp.inFlight = none ∧ State.reset.online = false ∧ record5.length ≤ 264
    ∧ Settings.parse record5 = some { Settings.default with station := 5, writer := true, releaseToIdle := true }
    ∧ Settings.parse [5] = none := by decide +kernel

theorem test_met_LoadAndReadRunByExportOperations :
    loadParams [255, 255, 255, 1, 0, 9] = some (16777215, [9]) ∧ loadParams [255, 255, 255, 2, 0, 1, 2] = none
    ∧ readDictParams [0, 255, 255, 0, 1] = some (16776960, 256) ∧ readDictParams [1, 255, 255, 0, 1] = none
    ∧ loading.mem.wf = true ∧ loading.lcp.job = some (.load 100 [1, 2])
    ∧ loading.arb.inService = some { cls := .host, op := .write 100 (([1, 2] : List Byte).take 16) } ∧ on.serving .host = none := by
  decide +kernel

theorem test_met_LoadAndRead_jobs :
    let s := (serving (busy on) .host (.read 100 (min 16 17))).setLcp { (busy on).lcp with job := some (.read 100 17 []) }
    s.lcp.job = some (.read 100 17 []) ∧ s.arb.inService = some { cls := .host, op := .read 100 (min 16 17) } := by decide +kernel

theorem test_met_GoChecksTheRecordAndTheDirectory :
    let c := State.reset.setLcp { Lcp.reset with config := some g5 }
    State.reset.lcp.config = none ∧ c.lcp.config = some g5 ∧ c.lcp.inFlight = none ∧ c.online = false
    ∧ (1 ≤ g5.station ∧ g5.station ≤ 30 ∧ g5.writer = true) ∧ Settings.default.station = 0
    ∧ ({ g5 with writer := false } : Settings).writer = false ∧ ({ g5 with writer := false } : Settings).viewer = false := by
  decide +kernel

/-- The 64 bytes of a sound directory, with the roots and regions of `dir1`. -/
def directoryBytes : List Byte :=
  leBytes 4 0x5D1C7A60 ++ leBytes 4 256 ++ leBytes 8 0 ++ leBytes 16 0 ++ leBytes 4 256 ++ leBytes 4 64 ++ leBytes 4 2048
    ++ leBytes 4 256 ++ leBytes 16 0

/-- The fourth directory read of GO is in service; memory holds `bs`. -/
def readingDirectory (bs : List Byte) : State :=
  { serving (busy State.reset) .defn (.read 48 16) with
    mem := Memory.setBytes [] 0 bs, du := { Du.reset with work := .goDirectory (bs.take 48) } }

theorem test_met_GoChecks_directory_reads :
    (readingDirectory directoryBytes).arb.inService = some { cls := .defn, op := .read 48 16 }
    ∧ 64 ≤ (directoryBytes.take 48).length + 16 ∧ ([] : List Byte).length + 16 < 64 ∧ directoryOk directoryBytes = true
    ∧ caseBoundsOk (Directory.ofBytes directoryBytes) = true
    ∧ directoryOk (List.replicate 64 0) = false
    ∧ directoryOk (patch directoryBytes 36 [0, 0]) = true
    ∧ caseBoundsOk (Directory.ofBytes (patch directoryBytes 36 [0, 0])) = false := by decide +kernel

theorem test_GO_begins_the_CASE_scan :
    (ran .defOperationEnd (readingDirectory directoryBytes)).arb.inService = some { cls := .defn, op := .read 256 8 }
    ∧ (ran .defOperationEnd (readingDirectory (List.replicate 64 0))).lcp.response = some { code := 6, data := [4] } := by
  decide +kernel

theorem test_met_RestartReturnsToStart :
    on.lcp.inFlight = none ∧ on.mem.wf = true ∧ on.arb.inService = none
    ∧ (serving on .defn (.write 16777215 [1])).arb.inService = some { cls := .defn, op := .write 16777215 [1] }
    ∧ 16777215 + [(1 : Byte)].length ≤ memSize ∧ [(0 : Byte)] ≠ [] := by decide +kernel

theorem test_met_DefineAndForgetJoinTheQueue :
    on.lcp.inFlight = none ∧ on.online = true
    ∧ defineParams ([1, 2, 0, 0, 3] ++ bytesOf "the" ++ [1]) = some ([2], bytesOf "the", true) ∧ on.du.queue.length < 8
    ∧ ({ on.du with queue := List.replicate 8 defineT } : Du).queue.length = 8 ∧ defineParams [] = none
    ∧ forgetParams [1, 2, 0, 0] = some [2] ∧ forgetParams [] = none
    ∧ (defineParams ([8] ++ (List.replicate 8 [255, 255, 127]).flatten ++ [120] ++ List.replicate 120 65 ++ [0])).isSome = true := by
  decide +kernel

theorem test_met_AHostFlushFencesTheCache :
    (2 : Byte).toNat ≤ 2 ∧ 2 < (3 : Byte).toNat ∧ (127 : Byte).toNat < 128 ∧ 128 ≤ (128 : Byte).toNat
    ∧ BitVec.ofNat 23 (255 + 256 * 255 + 65536 * 127) ≠ (0 : Stroke) ∧ BitVec.ofNat 23 (0 + 256 * 0 + 65536 * 0) = (0 : Stroke)
    ∧ on.lcp.inFlight = none ∧ on.online = true := by decide +kernel

theorem test_met_CustodyRequestsActWhereTheyApply :
    on.lcp.inFlight = none ∧ on.online = true ∧ on.cfg.writer = true ∧ on.cu.conflict = false ∧ on.cu.state = .idle
    ∧ (on.setCu { Cu.reset with state := .shadow }).cu.state = .shadow
    ∧ ((gathering on).cu.state = .releasing ∧ (gathering on).cu.handOver = .gathering) ∧ (onRecord on).cu.state = .onRecord
    ∧ (gathering on).cu.claims.foldl betterClaim none = some { station := 7, rank := 2, horizon := 99 }
    ∧ (onWith { g5 with writer := false }).cfg.writer = false
    ∧ ((claiming on).cu.state ≠ .idle ∧ (claiming on).cu.state ≠ .shadow) ∧ holdingT.te.phase ≠ .idle ∧ on.te.phase = .idle := by
  decide +kernel

theorem test_met_APaneTakesItsThreeSettings :
    viewing.lcp.inFlight = none ∧ viewing.online = true ∧ paneParams [1, 31, 255, 1, 1] = some (true, .self, 511, true)
    ∧ paneParams [0, 30, 0, 0, 0] = some (false, .station 30, 0, false) ∧ paneParams [0, 32, 0, 0, 0] = none
    ∧ paneParams [2, 0, 0, 0, 0] = none := by decide +kernel

/-- The ring has lost line 1, and the cursor stands there still. -/
def leftBehind : State :=
  on.setTb
    { Tb.reset with
      nextDraft := 3, nextOrdinal := 3,
      ring := [{ series := .draft, number := 2, ordinal := 2, station := 5, brk := false, carried := false, text := [66], strokes := 1 }] }

theorem test_met_LinesAndNotesAreExported :
    oneLine.lcp.inFlight = none ∧ ordinalSteps oneLine.lcp.lineCursor oneLine.tb.nextOrdinal = 1 ∧ 1 ≤ oneLine.tb.ring.length
    ∧ ordinalSteps leftBehind.lcp.lineCursor leftBehind.tb.nextOrdinal = 2 ∧ leftBehind.tb.ring.length < 2
    ∧ leftBehind.tb.ring ≠ [] ∧ (4 : Byte).toNat = 4 ∧ (16 : Byte).toNat = 16 := by decide +kernel

theorem test_met_StatusRosterAndEventsAreRead :
    let s := on.latch (.lineErrors 64)
    (∀ k, 1 ≤ k → k < 16 → s.lcp.latch k = none ∨ s.lcp.mask.getLsbD (k - 1) = false)
    ∧ s.lcp.inFlight = none ∧ s.lcp.latch 16 = some { event := .lineErrors 64, count := 1 } ∧ s.lcp.mask.getLsbD (16 - 1) = true
    ∧ on.attn = false := by
  refine ⟨?_, by decide +kernel⟩
  intro k h1 h2
  left
  interval_cases k <;> rfl

/-! ## States that meet the further clauses -/

theorem test_met_AStuckExpiryMarksTheContact_numbers :
    (∀ m, 1 ≤ m → m ≤ 28 → m ≠ 2 → releasing2.kcu.live m = false) ∧ releasing2.kcu.nextStroke < 4294967295
    ∧ 4294967295 ≤ (releasing2.setKcu { releasing2.kcu with nextStroke := 4294967295 }).kcu.nextStroke := by
  refine ⟨?_, by decide +kernel⟩
  intro m h1 h2 h3
  interval_cases m <;> first | rfl | exact absurd rfl h3

theorem test_met_TakeStroke_undo_after_a_drop :
    let s := withStroke on (aRecord 1 512 true)
    s.sq.records = aRecord 1 512 true :: [] ∧ s.te.free = true ∧ (aRecord 1 512 true).value = s.cfg.undoStroke
    ∧ (aRecord 1 512 true).afterDrop = true ∧ s.te.pendingBuf = [] := by decide +kernel

theorem test_TAKE_STROKE_undo_takes_the_unit_back :
    (ran .takeStroke (withStroke untranslatedT (aRecord 2 512 false))).tb.region.lines = [[]]
    ∧ (ran .takeStroke (withStroke on (aRecord 1 512 true))).te.lateUndo = 1
    ∧ (ran .takeStroke (withStroke on (aRecord 1 512 true))).tb.region.lines = [bytesOf "[?]"] := by decide +kernel

/-- FETCH with `T` pending and walked, its match in CASE where `hit`, its text at hand. -/
def resolving (hit : Bool) (text : List Byte) : State :=
  { on with
    te := { Te.reset with
      pendingBuf := [{ number := 1, value := 2 }], walked := 1, phase := .fetch, demand := .one,
      table := (Vector.replicate 8 []).setIfInBounds 0 (if hit then [{ layer := 0, ref := { addr := 2048, len := 3 } }] else []),
      kept := some { ref := { addr := 2048, len := 3 }, text := text } } }

theorem test_met_TheResolveTimerDemandsOneResolution_resolutions :
    let s := resolving true (bytesOf "the")
    let n := resolving false []
    (s.te.walkReq = none ∧ s.te.phase = .fetch ∧ s.te.rewalkDue = false ∧ s.te.inHand = none)
    ∧ s.te.best = some (1, { layer := 0, ref := { addr := 2048, len := 3 } })
    ∧ s.te.keptFor { addr := 2048, len := 3 } = some (bytesOf "the") ∧ withoutCommands (bytesOf "the") ≠ []
    ∧ withoutCommands [11] = [] ∧ (resolving true [11]).te.keptFor { addr := 2048, len := 3 } = some [11]
    ∧ n.te.best = none ∧ n.te.pendingBuf = { number := 1, value := 2 } :: [] := by decide +kernel

theorem test_met_TheResolveTimerDemandsOneResolution_units :
    Rendered on ∧ on.tb.region.units.length < 96
    ∧ (Region.render { on.tb.region with units := on.tb.region.units ++ [newUnit .drop [] dropText] } 56 5).lines.length ≤ 4
    ∧ on.cfg.width = 56 ∧ on.cfg.indent = 5 := by
  unfold Rendered
  decide +kernel

theorem test_met_TheResolveTimerDemandsOneResolution_pending :
    PendingKept holdingT ∧ PendingKept (withStroke holdingT (aRecord 2 2 false)) ∧ PendingKept replacing
    ∧ ([2] : List Stroke).length ≤ 8 ∧ (withStroke holdingT (aRecord 2 2 false)).te.free = true
    ∧ (resolving true (bytesOf "the")).teNext.isSome = true := by
  unfold PendingKept
  decide +kernel

/-- A RETR fetch of 20 bytes, of which memory holds 16 in the first operation. -/
def fetching20 (raised : Bool) (bad : Byte) : State :=
  { serving untranslatedT .retr (.read 2048 16) with
    mem := Memory.setBytes [] 2048 (List.replicate 15 65 ++ [bad]),
    te := { Te.reset with
      retr := .fetch { strokes := [2], ref := { addr := 2048, len := 20 } } [] { marks0 with raiseSeen := raised } } }

theorem test_met_RetranslationFetchesAndReplaces_fetches :
    (let s := fetching20 false 65
     s.arb.inService = some { cls := .retr, op := .read 2048 16 }
     ∧ (∀ b ∈ s.mem.bytesAt 2048 16, inTextCode b = true) ∧ (([] : List Byte) ++ s.mem.bytesAt 2048 16).length < 20)
    ∧ (let s := fetching20 true 200
       s.te.retr = .fetch { strokes := [2], ref := { addr := 2048, len := 20 } } [] { marks0 with raiseSeen := true }
       ∧ (∀ j, j < 15 → inTextCode (Memory.byteAt s.mem (2048 + j)) = true) ∧ inTextCode (Memory.byteAt s.mem (2048 + 15)) = false)
    ∧ ({ marks0 with raiseSeen := true } : ReqMarks).raiseSeen = true ∧ marks0.raiseSeen = false := by decide +kernel

theorem test_RETR_READ_END_further_and_bad :
    (ran .retrReadEnd (fetching20 false 65)).arb.inService = some { cls := .retr, op := .read 2064 4 }
    ∧ (ran .retrReadEnd (fetching20 false 200)).te.retr = .idle
    ∧ (ran .retrReadEnd (fetching20 false 200)).lcp.latch 9 = some { event := .dictFault 0 .textCode 2063, count := 1 }
    ∧ (ran .retrReadEnd (fetching20 true 200)).arb.inService = some { cls := .retr, op := .read 2048 16 } := by decide +kernel

/-- Three strokes `T` stand untranslated, and a text of 120 bytes is to replace each. -/
def replacingThree : State :=
  { on with
    tb := { Tb.reset with
      region := Region.render
        { Region.empty Format.clear with
          units := [1, 2, 3].map fun n => newUnit .untranslate [{ number := n, value := 2 }] (stenoNotation 2) } 56 5 },
    te := { Te.reset with retr := .requested [2] (List.replicate 120 65) } }

theorem test_met_RetranslationFetchesAndReplaces_commits :
    hasRun [2] replacingThree.tb.region.units = true
    ∧ 4 < (Region.render { replacingThree.tb.region with
            units := replaceRuns [2] (List.replicate 120 65) 0 replacingThree.tb.region.units }
          replacingThree.cfg.width replacingThree.cfg.indent).lines.length := by decide +kernel

theorem test_REPLACEMENT_commits_over_four_lines :
    (ran .replacement replacingThree).tb.region.lines.length = 4 ∧ (ran .replacement replacingThree).tb.ring.length = 5 := by
  decide +kernel

/-- The step of PLAN that found the cell of `T` at 1024 under the CASE root, after a predecessor where there is one. -/
def stepT (bytes : List Byte) (count : Nat) (prev : Option (Nat × List Byte)) : PlanStep :=
  { table := 256, exponent := 0, cellCount := count, headAddr := 264, cellAddr := 1024, bytes := bytes, prev := prev }

/-- The cell of `T` as station 7 defined it, and the one without text that the generation 0 leads into the table at 512. -/
def cellOf7 : List Byte := newCellBytes (fun _ => 0) 2 (some { addr := 2048, len := 3 }) none 0 7
def cellToTable : List Byte := newCellBytes (fun _ => 0) 2 none (some 512) 0 0

def receivedT : DefEntry := { defineT with source := 9, rank := 2 }

theorem test_met_ADefinitionIsServedByOperations_cells :
    let k : Lookup := { lookupT with duRules := true }
    let s := serving definable .defn (.read 1024 16)
    (fieldAt ((serving definable .defn (.read 264 3)).mem.bytesAt 264 3) 0 3 = 0 ∧ ({ k with stage := .head } : Lookup).stage = .head)
    ∧ (cellFaults s.dir 0 1024 (CellData.ofBytes cellT) = [] ∧ (CellData.ofBytes cellT).stroke = k.stroke.toNat
      ∧ (CellData.ofBytes cellT).hasNext = false ∧ defineT.strokes.length ≤ [stepT cellT 1 none].length)
    ∧ ((CellData.ofBytes cellT).stroke ≠ ({ k with stroke := 3 } : Lookup).stroke.toNat ∧ (CellData.ofBytes cellT).link = 0)
    ∧ (cellFaults s.dir 0 1024 (CellData.ofBytes cellToTable) = [] ∧ (CellData.ofBytes cellToTable).hasNext = true
      ∧ [stepT cellToTable 1 none].length < ({ defineT with strokes := [2, 4] } : DefEntry).strokes.length
      ∧ s.dir.inCells (CellData.ofBytes cellToTable).next 8 = true) := by decide +kernel

theorem test_met_ADefinitionIsServedByOperations_ends :
    let p := stepT cellT 1 none
    let c := CellData.ofBytes cellT
    defineT.kind = .define ∧ [p].length = defineT.strokes.length ∧ [p].getLast? = some p
    ∧ (c.hasText = true ∧ receivedT.source ≠ 0 ∧ c.origin = 0)
    ∧ (let t := withSlot definable { peer with rank := 3 }
       (CellData.ofBytes cellOf7).origin = 7 ∧ receivedT.rank < t.roster.rankOf 7 ∧ (withSlot definable peer).roster.rankOf 7 ≤ receivedT.rank)
    ∧ (CellData.ofBytes cellToTable).hasText = false
    ∧ HeapTakes definable defineT ∧ ¬ HeapTakes (definable.setDu { definable.du with heapTop := some 2302 }) defineT
    ∧ ({ defineT with kind := .forget } : DefEntry).kind = .forget ∧ [p].reverse = p :: [] := by
  unfold HeapTakes
  decide +kernel

theorem test_met_ADefinitionIsServedByOperations_room :
    let two : DefEntry := { defineT with strokes := [2, 4] }
    two.strokes.drop ([] : List PlanStep).length = 2 :: [4] ∧ two.strokes.drop [stepT cellT 1 none].length = 4 :: []
    ∧ (allocate 1 2 [512, 528, 544, 560, 576, 592]).isSome = true ∧ allocate 1 2 [512, 528, 544, 560, 576] = none
    ∧ (allocate 0 1 [512]).isSome = true
    ∧ [512, 528, 544, 560, 576, 592].Pairwise (fun x y => x < y) ∧ (∀ x ∈ [512, 528, 544, 560, 576, 592], x % 16 = 0) := by
  decide +kernel

theorem test_met_ADefinitionIsServedByOperations_pruning :
    let up := stepT cellToTable 2 none
    let p : PlanStep := { stepT cellT 1 none with table := 512, headAddr := 520, cellAddr := 768 }
    1 < up.cellCount ∧ (stepT cellT 1 none).table = 256 ∧ p.cellCount ≤ 1 ∧ p.table ≠ 256
    ∧ pruneWrites 256 [p, up]
      = [aWrite 520 [0, 0, 0], { addr := 512, bytes := headerBytes 0 0, freed := [768] },
         { addr := 1024, bytes := cellWithoutNext cellToTable, freed := [512] },
         aWrite 264 [0, 0, 0], { addr := 256, bytes := headerBytes 0 1, freed := [1024] }] := by decide +kernel

/-- The CASE scan of GO at work, one header read done: the root holds `count` cells, its chain begins at 1024. -/
def scanTable (count : Nat) : ScanTable :=
  { table := 256, exponent := 0, headerCount := count, bucket := 0, link := 1024, place := 0, found := 0, strokes := [] }

def scanAt (count : Nat) : Scan :=
  { tables := [scanTable count], want := .cell 1024, reached := [(256, 272)], textTop := none, fixes := [] }

def scanning (count : Nat) (cell : List Byte) : State :=
  { serving (busy State.reset) .defn (.read 1024 16) with
    mem := Memory.setBytes [] 1024 cell, du := { Du.reset with dir := some dir1, work := .goScan (scanAt count) } }

def scanDone (count : Nat) : Scan :=
  { tables := [], want := .cell 1024, reached := [(256, 272), (1024, 1040)], textTop := some 2051,
    fixes := if count = 1 then [] else [{ addr := 256, bytes := headerBytes 0 1, freed := [] }] }

theorem test_met_GoPutsTheNodeOnline_scan :
    (∃ sc, scanStep dir1 { scanAt 1 with want := .header 256, tables := [], reached := [] } (headerBytes 0 1) = .read 264 3 sc)
    ∧ scanStep dir1 (scanAt 1) cellT = .done (scanDone 1) ∧ (scanDone 1).fixes = []
    ∧ scanStep dir1 (scanAt 5) cellT = .done (scanDone 5)
    ∧ (scanDone 5).fixes = { addr := 256, bytes := headerBytes 0 1, freed := [] } :: []
    ∧ scanStep dir1 (scanAt 1) (patch cellT 3 [8]) = .fault (.spare, 1024)
    ∧ (scanning 1 cellT).mem.bytesAt 1024 16 = cellT :=
  ⟨⟨_, rfl⟩, by decide +kernel⟩

theorem test_met_GoPutsTheNodeOnline_cells :
    cellFaults dir1 0 1024 (CellData.ofBytes cellToTable) = [] ∧ (CellData.ofBytes cellToTable).hasNext = true
    ∧ (CellData.ofBytes cellToTable).next = 512 ∧ 512 % 16 = 0 ∧ dir1.inCells 512 8 = true
    ∧ overlaps [(256, 272), (1024, 1040)] 512 8 = false
    ∧ (CellData.ofBytes (patch cellT 11 (leBytes 3 768))).link = 768 ∧ dir1.inCells 768 16 = true
    ∧ overlaps [(256, 272), (1024, 1040)] 768 16 = false
    ∧ cellFaults dir1 0 1024 (CellData.ofBytes (patch cellT 11 (leBytes 3 768))) = []
    ∧ (scanTable 1).place + 1 < 24 ∧ (CellData.ofBytes cellT).stroke ∉ (scanTable 1).strokes
    ∧ (CellData.ofBytes cellT).stroke ∈ ({ scanTable 1 with strokes := [2] } : ScanTable).strokes
    ∧ ({ scanTable 1 with found := 1 } : ScanTable).found = 1 ∧ (scanTable 1).found ≠ (scanTable 1).headerCount := by decide +kernel

theorem test_GO_after_the_scan :
    (ran .defOperationEnd (scanning 1 cellT)).online = true
    ∧ (ran .defOperationEnd (scanning 5 cellT)).arb.inService = some { cls := .defn, op := .write 256 (headerBytes 0 1) }
    ∧ (ran .defOperationEnd (scanning 1 (patch cellT 3 [8]))).lcp.response = some { code := 6, data := [6] } := by decide +kernel

/-- A damaged character holds the input at the start level: the line stays busy until it comes back (R105, log 18). -/
theorem test_CHARACTER_RECEIVED_damaged_holds_the_line :
    let s := ran (.characterReceived true 224 false) on
    s.lnc.busySince = some 0 ∧ s.lnc.held = true ∧ (ran (.startBitSeen true) s).lnc = s.lnc
    ∧ (ran (.startBitSeen false) s).lnc.busySince = none ∧ (ran (.startBitSeen false) s).lnc.held = false := by decide +kernel

/-- A source drives the frame of the worked ASK and has had its first character read back. -/
def drivingAs (s : State) (x : Source) : State :=
  s.setLnc { s.lnc with
    slot := .driving x askOf1240.chars 1, busySince := some s.clock.chars, driver := true,
    assembly := some { bytes := [224], count := 1, damaged := false, own := true } }

/-- The state of node 5 with one frame at each source, on its `n`th attempt; a TAIL and a STATION are in flight. -/
def sourcesAt (n : Nat) : State :=
  { on with
    pub := { on.pub with
      share := 800, stationInFlight := some n, ownWeight := 8,
      tailInFlight := some { series := .draft, custody := .idle, committed := 0, firstOpen := 1, lines := [[]], attempts := n },
      lineQueue := [{ number := 100, brk := false, text := [65], attempts := n }],
      answers := [{ number := 9, form := .gone, attempts := n }],
      defines := [{ number := 0, strokes := [2], text := [65], attempts := n }] },
    lnc := { on.lnc with
      custodyList := [{ kind := .claim, frame := { heading := headingByte .claim 31#5, body := [5, 2, 0, 0, 0] }, attempts := n }] },
    vw := { on.vw with asks := [{ target := 7, first := 1, count := 1, attempts := n }] } }

theorem test_met_TheEchoDecidesTheAttempt_sources :
    let s := sourcesAt 0
    (drivingAs s .ask).online = true ∧ (drivingAs s .ask).lnc.slot = .driving .ask askOf1240.chars 1
    ∧ ¬ (askOf1240.chars[1]? = some (true, 224)) ∧ askOf1240.chars[1]? = some (false, 4)
    ∧ (drivingAs s .ask).lnc.assembly = some { bytes := [224], count := 1, damaged := false, own := true }
    ∧ s.pub.stationInFlight = some 0 ∧ (s.pub.answers.find? fun y => decide (y.number = 9)) = s.pub.answers.head?
    ∧ s.pub.answers.head?.isSome = true ∧ s.pub.tailInFlight.isSome = true ∧ s.pub.tailWaiting = none ∧ s.tailsAllowed = true
    ∧ (s.setPub { s.pub with ownWeight := 0 }).tailsAllowed = false ∧ (sourcesAt 5).pub.stationInFlight = some 5
    ∧ s.lnc.custodyList ≠ [] ∧ s.vw.asks ≠ [] ∧ s.pub.defines ≠ [] ∧ s.pub.lineQueue ≠ []
    ∧ (Source.answer 9).metered = true ∧ Source.define.metered = false
    ∧ ({ bytes := [224], count := 1, damaged := false, own := false } : Assembly).verdict = .bad .short
    ∧ wholeAsk.verdict = .good askOf1240 := by decide +kernel

/-- The abort that follows a mismatch, by its source: the sixth drops the frame, a custody frame stays (R120, R129). -/
theorem test_CHARACTER_RECEIVED_aborts :
    let t := fun n x => ran (.characterReceived false 5 true) (drivingAs (sourcesAt n) x)
    ((t 0 .ask).vw.asks.map Ask.attempts = [1] ∧ (t 5 .ask).vw.asks = [] ∧ (t 5 .ask).lnc.txDropped = 1)
    ∧ ((t 0 .define).pub.defines.map DefineSend.attempts = [1] ∧ (t 5 .define).pub.defines = [])
    ∧ ((t 0 .tail).pub.tailWaiting.map TailImage.attempts = some 1 ∧ (t 5 .tail).pub.tailWaiting = none)
    ∧ ((t 0 (.answer 9)).pub.answers.map Answer.attempts = [1] ∧ (t 5 (.answer 9)).pub.answers = [])
    ∧ ((t 5 .custody).lnc.custodyList.map CustodyFrame.attempts = [6] ∧ (t 5 .custody).lnc.txDropped = 0)
    ∧ (t 0 .station).pub.stationWaiting = some 1 := by decide +kernel

/-- A heading read back in the middle of an own frame: the characters so far end as another node's, SHORT here (R108, R119). -/
theorem test_CHARACTER_RECEIVED_heading_in_mid_drive :
    let t := ran (.characterReceived true 31 true) (drivingAs (sourcesAt 0) .ask)
    t.lnc.errors.short = 1 ∧ t.lnc.assembly = some { bytes := [31], count := 1, damaged := false, own := false }
    ∧ t.lnc.aborted = 1 := by decide +kernel

/-- A cut-off frame's driver stays on to the end of the character in progress (R121). -/
theorem test_DELIVER_STATION_cuts_a_frame_off :
    let s := drivingAs (received (sourcesAt 0) .station (patch station7 0 [5])) .ask
    let t := ran .deliverStation s
    t.lnc.cutOff = 1 ∧ t.lnc.slot.isDriving = false ∧ t.lnc.driver = true ∧ ran (.startBitSeen false) t = t
    ∧ (ran (.characterReceived false 4 true) t).lnc.driver = false := by decide +kernel

theorem test_met_StartBitsAndGuardsMoveTheQuietPoint_levels :
    (drivingAs on .ask).lnc.driver = true ∧ (drivingAs on .ask).lnc.busySince.isSome = true ∧ on.lnc.driver = false := by decide +kernel

theorem test_met_AStationIsTakenIntoItsSlot_custody :
    let b := stationBody7
    let s := (onRecord on)
    Coherent s ∧ Coherent (gathering on)
    ∧ better b.rank b.station 1 5 = true ∧ b.custody.holds = true ∧ s.cu.state.holds = true ∧ b.sig = s.pub.signature
    ∧ (gathering on).cu.handOver = .gathering ∧ (∃ x ∈ (gathering on).cu.claims, x.station = b.station)
    ∧ b.custody ≠ .claiming ∧ (gathering on).cu.claims.filter (fun x => decide (x.station ≠ b.station)) = []
    ∧ ([{ station := 7, rank := 2, horizon := 99 }, { station := 8, rank := 2, horizon := 99 }] : List Claim).filter
        (fun x => decide (x.station ≠ b.station)) ≠ [] := by
  refine ⟨?_, ?_, by decide +kernel⟩ <;>
    simp [Coherent, gathering, onRecord, on, onWith, State.setCu, State.setTb, CustodyState.holds, State.reset, Tb.reset, Cu.reset]

/-- The node 5 with rank 1 holds the record; station 7 of rank 2, ADMITTED, holds it too. -/
def outranked : State := received (withSlot (onRecord (onWith { g5 with rank := 1 })) peer) .station station7

theorem test_DELIVER_STATION_yields :
    (ran .deliverStation outranked).cu.state = .shadow ∧ (ran .deliverStation outranked).tb.series = .draft
    ∧ (ran .deliverStation outranked).lcp.latch 4 = some { event := .custodyChanged .yielded 7 0, count := 1 }
    ∧ (ran .deliverStation (received (withSlot (gathering on) { peer with station := 7, rank := 1 }) .station (patch station7 2 [1]))).cu.claims
      = []
    ∧ (ran .deliverStation (received (withSlot (gathering on) { peer with station := 7, rank := 1 }) .station (patch station7 2 [1]))).cu.state
      = .onRecord := by decide +kernel

/-- The node 5 as writer and viewer takes a RELEASE of station 7 that names it, last line 90, next line 100: it follows itself, and its
reach is its own committed-through (R169 to R171). -/
theorem test_DELIVER_RELEASE_at_a_viewer :
    let s := received (withSlot viewing peer) .release [7, 5, 90, 0, 0, 100, 0, 0, 0]
    (s.online = true ∧ s.cfg.viewer = true ∧ s.vw.followed ≠ some .self ∧ s.cfg.writer = true ∧ s.cu.state.holds = false)
    ∧ (ran .deliverRelease s).vw.followed = some .self
    ∧ (ran .deliverRelease s).vw.reach = some ((ran .deliverRelease s).tb.committedThrough, 5)
    ∧ (ran .deliverRelease s).tb.committedThrough = 99 := by decide +kernel

/-- A RELEASE whose next line is above its last one reports the line before the next (R97, R109). -/
theorem test_a_RELEASE_reports_the_larger_line :
    Frame.report { heading := headingByte .release 31#5, body := [7, 5, 90, 0, 0, 100, 0, 0, 0] } = some 99
    ∧ Frame.report { heading := headingByte .release 31#5, body := [7, 5, 99, 0, 0, 100, 0, 0, 0] } = some 99
    ∧ Frame.report { heading := headingByte .release 31#5, body := [7, 5, 99, 0, 0, 0, 0, 0, 0] } = some 99 := by decide +kernel

/-- One open unit of two lines. -/
def twoLines (s : State) : State := s.setUnits [newUnit .translation [{ number := 1, value := 2 }] (List.replicate 70 65)]

/-- The ring is full from ordinal 1 on, nothing of it exported. -/
def fullRing (s : State) : State := s.setTb { s.tb with ring := List.replicate 256 aLine, nextOrdinal := 257 }

theorem test_met_AHandOverFlushesCommitsAndReleases_commits :
    let d := twoLines on
    let r := twoLines (onRecord on)
    (d.tb.series = .draft ∧ d.tb.ring.length < 256 ∧ d.tb.region.lines.length = 2)
    ∧ (r.tb.series = .record ∧ r.tb.horizon < r.tb.nextRecord.getD 1 ∧ r.tb.nextRecord.getD 1 ≤ 16777215
      ∧ r.cu.conflict = false ∧ r.pub.lineQueue.length < 8)
    ∧ (let j := r.setTb { r.tb with horizon := 100 }
       j.tb.nextRecord.getD 1 ≤ j.tb.horizon ∧ j.tb.horizon + 2 ≤ 16777215)
    ∧ (let e := r.setTb { r.tb with nextRecord := some 16777216, horizon := 16777215 }
       e.tb.horizon < e.tb.nextRecord.getD 1 ∧ 16777215 < e.tb.nextRecord.getD 1)
    ∧ (let f := fullRing d
       f.tb.ring = aLine :: List.replicate 255 aLine ∧ 256 ≤ f.tb.ring.length
       ∧ ordinalSteps f.lcp.lineCursor aLine.ordinal < ordinalSteps f.lcp.lineCursor 258
       ∧ ¬ ordinalSteps 257 aLine.ordinal < ordinalSteps 257 258) := by decide +kernel

theorem test_one_commit_by_series :
    let d := (twoLines on).commitOldest
    let r := (twoLines (onRecord on)).commitOldest
    (d.tb.nextDraft = 2 ∧ d.tb.ring.map CommittedLine.text = [List.replicate 56 65] ∧ d.tb.ring.map CommittedLine.strokes = [1]
      ∧ d.tb.region.units = [] ∧ d.tb.region.lines.length = 1)
    ∧ (r.tb.horizon = 100 ∧ r.pub.lineQueue.map LineEntry.number = [100])
    ∧ (let j := ((twoLines (onRecord on)).setTb { (twoLines (onRecord on)).tb with horizon := 100 }).commitOldest
       j.tb.ring.map CommittedLine.number = [101, 102] ∧ j.tb.horizon = 102
       ∧ j.lcp.latch 2 = some { event := .recordBreak 101, count := 1 })
    ∧ (let e := ((twoLines (onRecord on)).setTb
          { (twoLines (onRecord on)).tb with nextRecord := some 16777216, horizon := 16777215 }).commitOldest
       e.tb.ring = [] ∧ e.tb.discardedLines = 1 ∧ e.tb.discardedStrokes = 1)
    ∧ (fullRing (twoLines on)).commitOldest.lcp.latch 14 = some { event := .exportMissed 1, count := 1 } := by decide +kernel

theorem test_met_TailsAndLinesReachTheViewer_releases :
    let v := withSlot viewing peer
    let s := received v .release [7, 0, 99, 0, 0, 100, 0, 0, 0]
    Coherent s
    ∧ ReleaseBody.parse [7, 0, 99, 0, 0, 100, 0, 0, 0]
      = some { station := 7, target := 0, last := 99, next := 100, cap := false, attach := false }
    ∧ s.online = true ∧ s.cfg.viewer = true ∧ 7 ≠ s.own ∧ s.cu.state ≠ .claiming
    ∧ (ran .deliverRelease s).vw.followed ≠ some .self ∧ (ran .deliverRelease s).vw.mark 0 = .released
    ∧ (ran .deliverRelease s).vw.reach = some (99, 7) ∧ (ran .deliverRelease s).vw.stateOf 68 = some (.waiting 0 300 7)
    ∧ (ran .deliverRelease s).vw.stateOf 67 = none := by
  refine ⟨?_, by decide +kernel⟩
  simp [Coherent, received, withSlot, viewing, onWith, State.setLnc, State.setRoster, CustodyState.holds, State.reset, Tb.reset, Cu.reset]

/-- Station 7 announces ON_RECORD and station 9, of the same rank, is NAMED: the lower number is followed. -/
def twoHolders : State :=
  let s := (withSlot viewing { peer with custody := .onRecord }).setRoster
    ((withSlot viewing { peer with custody := .onRecord }).roster.setSlot 1 (some { peer with station := 9 }))
  s.setVw (s.vw.setMark 1 .named)

theorem test_met_TailsAndLinesReachTheViewer_holders :
    twoHolders.cu.state.holds = false ∧ twoHolders.followChoice = some (.station 7)
    ∧ effectiveHolder (twoHolders.vw.mark 1) { peer with station := 9 } = true
    ∧ better 2 9 2 7 = false ∧ ({ twoHolders with cu := { Cu.reset with state := .onRecord } } : State).followChoice = some .self := by
  decide +kernel

/-- Lines 100 to 102 wait for station 7, line 103 has been asked for three times. -/
def missingRun : State :=
  viewing.setVw ((((viewing.vw.put 100 (.waiting 0 300 7)).put 101 (.waiting 1 300 7)).put 102 (.waiting 2 300 7)).put 103 (.waiting 3 300 7))

theorem test_met_AGapIsAskedForOrLost_run :
    (missingRun.vw.runFrom 7 8 100).length = 3
    ∧ (ran (.gapTimerExpiry 100) missingRun).vw.asks = [{ target := 7, first := 100, count := 3, attempts := 0 }]
    ∧ (ran (.gapTimerExpiry 100) missingRun).vw.stateOf 102
      = some (.waiting 3 ((ran (.gapTimerExpiry 100) missingRun).clock.ms + 2000) 7)
    ∧ (ran (.gapTimerExpiry 100) missingRun).vw.stateOf 103 = some (.waiting 3 300 7) := by decide +kernel

theorem test_met_CustodyRequestsActWhereTheyApply_further_bytes :
    ([9] : List Byte) ≠ [] ∧ ([9] : List Byte).length ≤ 263 ∧ on.lcp.inFlight = none
    ∧ answered (ran (.custodyClaim [9]) on) = some 4 ∧ (List.replicate 263 (0 : Byte)).length ≤ 263 := by decide +kernel

/-- A viewer that follows station 7, whose RECORD image has two open lines from 100 on; line 99 is held. -/
def following : State :=
  let s := withSlot viewing { peer with custody := .onRecord }
  s.setVw
    { (s.vw.put 99 (.held false [65])).setTail 0
        (some { series := .record, custody := .onRecord, committed := 99, firstOpen := 100, lines := [[66], [67]], attempts := 0 }) with
      followed := some (.station 7), reach := some (99, 7), base := some 68 }

def paneOf (src : PaneSource) (offset : Nat) : Pane := { rows := 3, source := src, offset := offset, pfx := true }

theorem test_met_APaneTakesItsThreeSettings_viewer :
    viewing.cfg.viewer = true ∧ on.cfg.viewer = false ∧ following.vw.followed = some (.station 7) ∧ viewing.vw.followed = none
    ∧ (following.tailOf 7).map TailImage.series = some .record ∧ following.tailOf 9 = none
    ∧ following.paneRows (paneOf .auto 0) = [.held 99 [65], .openRecord 100 [66], .openRecord 101 [67]]
    ∧ following.paneRows { paneOf .auto 0 with rows := 1 } = [.openRecord 101 [67]]
    ∧ following.paneRows (paneOf .auto 1) = [.blank, .blank, .blank]
    ∧ viewing.paneRows (paneOf .auto 0) = [.status (bytesOf "NO RECORD"), .blank, .blank]
    ∧ following.paneRows (paneOf (.station 7) 0) = [.blank, .openRecord 100 [66], .openRecord 101 [67]]
    ∧ following.paneRows (paneOf (.station 9) 0) = [.status (bytesOf "STATION 9 NO TAIL"), .blank, .blank]
    ∧ viewing.paneRows (paneOf .self 0) = [.blank, .blank, .draft 1 true []]
    ∧ (viewing.setTb oneLine.tb).paneRows (paneOf .self 1) = [.blank, .blank, .blank]
    ∧ (viewing.setTb oneLine.tb).paneRows (paneOf .self 0) = [.blank, .draft 1 false [65], .draft 2 true []] := by decide +kernel

theorem test_met_GoChecks_sound_directory :
    let d := readingDirectory directoryBytes
    64 ≤ (directoryBytes.take 48).length + 16 ∧ d.du.work = .goDirectory (directoryBytes.take 48)
    ∧ directoryOk (directoryBytes.take 48 ++ d.mem.bytesAt 48 16) = true
    ∧ caseBoundsOk (Directory.ofBytes (directoryBytes.take 48 ++ d.mem.bytesAt 48 16)) = true
    ∧ (ran .defOperationEnd d).du.dir = some dir1 := by decide +kernel

/-- Past the last record number, four open lines of equal text. -/
def fourEqualLines : State :=
  let s := (onRecord on).setTb { (onRecord on).tb with nextRecord := some 16777216, horizon := 16777215 }
  let t := s.setUnits [newUnit .translation [{ number := 1, value := 2 }] (List.replicate 224 65)]
  t.setPub { t.pub with ownWeight := 8, tailWaiting := none }

/-- A fifth equal line comes and the oldest is discarded: the same texts, but each rendering changed the count (R88, R89, R101). -/
theorem test_a_discard_that_leaves_equal_lines_is_noticed :
    let t := fourEqualLines.emitUnit (newUnit .translation [{ number := 2, value := 2 }] (List.replicate 56 65))
    fourEqualLines.pub.tailWaiting = none ∧ t.tb.region.lines = fourEqualLines.tb.region.lines ∧ t.tb.region.lines.length = 4
    ∧ t.tb.discardedLines = 1 ∧ t.pub.tailWaiting.isSome = true := by decide +kernel

/-- A contact held down at GO is HELD_OVER (R18). -/
theorem test_GO_marks_contacts_held_down :
    let s := withContact goingOnline 2 { Contact.reset with rawDown := true, acceptedDown := true }
    ((ran .defOperationEnd s).kcu.contact 2).map Contact.mark = some .heldOver
    ∧ s.kcu.keyMap[(1 : Fin 28)] ≠ 0 := by decide +kernel

/-- HOLD in GATHERING: the refusal of every claimer waits in the custody list (R152). -/
theorem test_met_CustodyRequestsActWhereTheyApply_hold :
    (gathering on).cu.claims ≠ [] ∧ (gathering on).lcp.inFlight = none ∧ (gathering on).online = true
    ∧ (gathering on).cfg.writer = true ∧ (gathering on).cu.conflict = false := by decide +kernel

/-! ## The Path Cache, the walk and the slot's choice -/

theorem test_met_AFenceRemovesItsScope_steps :
    let c := (cached true).cache
    (c.sets[cacheSetOf 2#23 64]?).isSome = true ∧ (c.lookup 1 64 2).isSome = true ∧ c.lookup 0 64 2 = none
    ∧ (c.hit 1 64 2).hits = 1 ∧ (c.set (cacheSetOf 2#23 64)).ways[(1 : Fin 4)] = none
    ∧ fourInSet.recency.getLast? = some 0 ∧ (∀ w : Fin 4, fourInSet.ways[w] ≠ none)
    ∧ (∀ w : Fin 4, fourInSet.ways[w] ≠ some (jobEntry 1048576)) ∧ fourInSet.ways[(2 : Fin 4)] = some (jobEntry 1024) := by
  decide +kernel

/-- CLAIMING is entered from weight 0 with the full credit; a MUTED flag that clears readies a STATION and a TAIL (R138). -/
theorem test_reshare_at_an_entry :
    (claiming on).pub.ownWeight = 0 ∧ (claiming on).cu.state.weight = 2
    ∧ ((claiming on).reshare.pub.credit, (claiming on).reshare.pub.remainder) = (800, 0)
    ∧ (let s := (claiming on).setPub { on.pub with muted := true }
       s.mutedFor 2 = false ∧ s.reshare.pub.stationWaiting = some 0 ∧ s.reshare.pub.tailWaiting.isSome = true)
    ∧ (let s := (claiming (onWith { g5 with pool := 49 })).setPub { on.pub with ownWeight := 2, refreshAt := some 9 }
       s.mutedFor 2 = true ∧ s.reshare.pub.refreshAt = none ∧ s.reshare.pub.stationWaiting = some 0) := by decide +kernel

/-- A lookup of the walk at its header, at its bucket head, and at a cell. -/
def atHeader : Lookup := { lookupT with stage := .header, headAddr := 0, head := 0, cellAddr := 0, place := 0 }
def atHead : Lookup := { lookupT with stage := .head, head := 0, cellAddr := 0, place := 0 }

/-- The walk reads `bs` at an address, for the lookup `k`. -/
def walkReads (k : Lookup) (a : Nat) (bs : List Byte) : State :=
  { serving on .walk (.read a bs.length) with
    mem := Memory.setBytes [] a bs,
    du := { Du.reset with dir := some dir1, heapTop := some 2051 },
    te := { Te.reset with pendingBuf := [{ number := 1, value := 2 }], phase := .step, walkReq := some (.lookup k marks0) } }

theorem test_met_AWalkReadEndsItsRequest_headers :
    let w := fun b => walkReads atHeader 256 (headerBytes b 1)
    (w 12).te.walkReq = some (.lookup atHeader marks0) ∧ atHeader.duRules = false ∧ atHeader.stage = .header
    ∧ (w 12).arb.inService = some { cls := .walk, op := .read atHeader.table 8 }
    ∧ (Memory.byteAt (w 12).mem 256).toNat = 12 ∧ 256 + tableBytes 12 ≤ memSize
    ∧ (Memory.byteAt (w 13).mem 256).toNat = 13 ∧ memSize < 16777208 + tableBytes 12
    ∧ (ran .walkReadEnd (w 4)).arb.inService = some { cls := .walk, op := .read (264 + 3 * bucketOf 2 4) 3 }
    ∧ (ran .walkReadEnd (w 13)).lcp.latch 9 = some { event := .dictFault 0 .exponent 256, count := 1 } := by decide +kernel

theorem test_met_AWalkReadEndsItsRequest_heads :
    let w := fun h => walkReads atHead 264 (leBytes 3 h)
    atHead.stage = .head ∧ (w 0).arb.inService = some { cls := .walk, op := .read atHead.headAddr 3 }
    ∧ fieldAt ((w 1024).mem.bytesAt 264 3) 0 3 = 1024 ∧ 1024 % 16 = 0 ∧ 1025 % 16 ≠ 0
    ∧ fieldAt ((w 0).mem.bytesAt 264 3) 0 3 = 0
    ∧ (ran .walkReadEnd (w 1024)).arb.inService = some { cls := .walk, op := .read 1024 16 }
    ∧ (ran .walkReadEnd (w 1025)).lcp.latch 9 = some { event := .dictFault 0 .address 256, count := 1 } := by decide +kernel

theorem test_met_AWalkReadEndsItsRequest_chains :
    let linked := newCellBytes (fun _ => 0) 4 (some { addr := 2048, len := 3 }) none 768 0
    let c := CellData.ofBytes linked
    let w := fun n => walkReads { lookupT with place := n } 1024 linked
    cellFaults dir1 0 1024 c = [] ∧ c.stroke ≠ lookupT.stroke.toNat ∧ c.link ≠ 0
    ∧ (ran .walkReadEnd (w 23)).arb.inService = some { cls := .walk, op := .read 768 16 }
    ∧ (ran .walkReadEnd (w 24)).lcp.latch 9 = some { event := .dictFault 0 .chainLimit 256, count := 1 }
    ∧ cellFaults dir1 0 1024 (CellData.ofBytes (patch linked 3 [8])) = [(.spare, 1024)]
    ∧ (ran .walkReadEnd (walkReads lookupT 1024 (patch linked 3 [8]))).lcp.latch 9
      = some { event := .dictFault 0 .spare 1024, count := 1 } := by decide +kernel

theorem test_met_AWalkReadEndsItsRequest_long_texts :
    let r : LayerRef := { layer := 0, ref := { addr := 2048, len := 20 } }
    let s := { fetchingT (List.replicate 16 65) with
      arb := (serving on .walk (.read 2048 16)).arb,
      te := { (fetchingT []).te with walkReq := some (.fetch r 1 [] { marks0 with raiseSeen := true }) } }
    s.arb.inService = some { cls := .walk, op := .read 2048 16 } ∧ (∀ b ∈ s.mem.bytesAt 2048 16, inTextCode b = true)
    ∧ (s.mem.bytesAt 2048 16).length < r.ref.len
    ∧ (ran .walkReadEnd s).arb.inService = some { cls := .walk, op := .read 2064 4 } := by decide +kernel

/-- `T` is pending, the walk at a layer; CASE has its root at 256 or the layers stand at `p`. -/
def steppingT (layer : Nat) (p : WalkPos) : State :=
  { on with
    du := { Du.reset with dir := some dir1, heapTop := some 2048 },
    te := { Te.reset with
      pendingBuf := [{ number := 1, value := 2 }], phase := .step, stepLayer := layer, positions := Vector.replicate 3 p } }

def contentT (next : Option Nat) : CellContent := { cell := 1024, fixed := false, text := some { addr := 2048, len := 3 }, next := next }

theorem test_met_TheResolveTimerDemandsOneResolution_steps :
    let s := steppingT 0 .root
    (s.te.walkReq = none ∧ s.te.phase = .step ∧ s.te.rewalkDue = false ∧ s.te.stepLayer = 0) ∧ s.dir.root 0 = 256 ∧ s.dir.root 1 = 0
    ∧ (s.teNext.map fun t => t.arb.inService) = some (some { cls := .walk, op := .read 256 8 })
    ∧ ((steppingT 1 .root).teNext.map fun t => t.te.positions[(1 : Fin 3)]) = some .off
    ∧ ((steppingT 0 (.at (contentT (some 4)))).teNext.map fun t => t.lcp.latch 9)
      = some (some { event := .dictFault 0 .address 4, count := 1 })
    ∧ (let h := s.setCache (s.cache.fill { layer := 0, table := 256, stroke := 2, content := contentT none })
       h.cache.lookup 0 256 2 = some (contentT none) ∧ (h.teNext.map fun t => t.cache.hits) = some 1
       ∧ (h.teNext.map fun t => t.te.positions[(0 : Fin 3)]) = some (.at (contentT none))) := by decide +kernel

theorem test_met_TheResolveTimerDemandsOneResolution_continuations :
    let s := steppingT 3 (.at (contentT (some 512)))
    3 ≤ s.te.stepLayer ∧ s.cfg.resolveWait = 600
    ∧ (s.teNext.map fun t => (t.te.phase, t.te.resolveAt, t.te.walked)) = some (.hold, some 600, 1)
    ∧ ((steppingT 3 (.at (contentT none))).teNext.map fun t => t.te.phase) = some .fetch
    ∧ ((steppingT 3 .off).teNext.map fun t => t.te.best) = some none
    ∧ (s.teNext.map fun t => t.te.best) = some (some (1, { layer := 0, ref := { addr := 2048, len := 3 } }))
    ∧ ((s.setTe { s.te with demand := .one }).teNext.map fun t => t.te.phase) = some .fetch := by decide +kernel

theorem test_met_TheResolveTimerDemandsOneResolution_holds :
    (holdingT.te.walkReq = none ∧ holdingT.te.phase = .hold ∧ holdingT.te.rewalkDue = false ∧ holdingT.te.demand = .none)
    ∧ ((holdingT.setTe { holdingT.te with demand := .all }).teNext.map fun t => (t.te.phase, t.te.resolveAt)) = some (.fetch, none)
    ∧ ((holdingT.setTe { holdingT.te with rewalkDue := true }).teNext.map fun t => (t.te.phase, t.te.walked)) = some (.step, 0)
    ∧ (let f := resolving true []
       ((f.setTe { f.te with kept := none }).teNext.map fun t => t.arb.inService)
         = some (some { cls := .walk, op := .read 2048 3 })) := by decide +kernel

theorem test_met_RetranslationFetchesAndReplaces_notice :
    let s := replacing.setPub { replacing.pub with ownWeight := 8 }
    0 < s.pub.ownWeight ∧ s.pub.muted = false ∧ s.cu.conflict = false
    ∧ ((ran .replacement s).pub.tailWaiting.map TailImage.lines) = some [bytesOf "the"] := by decide +kernel

theorem test_met_ADefinitionIsServedByOperations_new_cells :
    let ws := cellWrites 0 { addr := 2048, len := 3 } 7 [2, 4] [1024, 1040] [512] 768
    ([2, 4] : List Stroke).length ≤ [1024, 1040].length ∧ ([2, 4] : List Stroke).length ≤ [512].length + 1
    ∧ ws.map PlannedWrite.addr = [1024, 1040] ∧ (List.replicate 64 (0 : Byte)).length ≤ 16 * 4
    ∧ (writesOf 4 512 (List.replicate 64 0)).map PlannedWrite.addr = [512, 528, 544, 560] := by decide +kernel

/-- The last fence of an entry in HOLD: a re-walk is due, the resolve timer is stopped, and the ninth handing is lost (R72, R74). -/
theorem test_met_FinishFencesEveryStroke_at_the_raise :
    let s := { finishing with te := { holdingT.te with handings := List.replicate 8 handingT } }
    8 ≤ s.te.handings.length ∧ s.te.fencedAndRaised.rewalkDue = true ∧ s.te.fencedAndRaised.resolveAt = none
    ∧ (ran .fenceComplete s).te.retrLost = 1
    ∧ walkingT.te.fencedAndRaised.walkReq = some (.lookup lookupT { marks0 with fenceSeen := true, raiseSeen := true }) := by
  decide +kernel

/-- The line each kind of frame reports (R109). -/
theorem test_reports_of_the_kinds :
    let f := fun k b => Frame.report { heading := headingByte k 31#5, body := b }
    f .tail tail7 = some 99 ∧ f .tail (patch tail7 1 [0]) = none ∧ f .line [7, 100, 0, 0, 0, 1, 65] = some 100
    ∧ f .station station7 = some 99 ∧ f .claim [7, 2, 99, 0, 0] = none := by decide +kernel

theorem test_met_ATransmitStartDrivesTheFrame_choice :
    let s := sourcesAt 0
    let free := s.setLnc { s.lnc with custodyList := [] }
    s.online = true ∧ s.lnc.slot.isDriving = false ∧ (s.choose).lnc.slot = .waiting .custody
    ∧ (free.choose).lnc.slot = .waiting .define
    ∧ ((free.setPub { free.pub with credit := 800 }).choose).lnc.slot = .waiting .line
    ∧ ((free.setPub { free.pub with credit := 20, defines := [] }).choose).lnc.slot = .waiting .line
    ∧ ((free.setPub { free.pub with lineQueue := [], credit := 20, defines := [] }).choose).lnc.slot = .waiting (.answer 9)
    ∧ ((free.setPub { free.pub with lineQueue := [], answers := [], defines := [] }).choose).lnc.slot = .waiting .ask
    ∧ ((s.setCu { s.cu with conflict := true }).choose).lnc.slot = .empty := by decide +kernel

theorem test_DELIVER_ASK_without_room :
    let s := received (on.setPub { on.pub with answers := (List.range' 1 31).map fun n => { number := n, form := .gone, attempts := 0 } })
      .ask [5, 9, 31, 0, 0, 3]
    let t := ran .deliverAsk s
    s.pub.answers.length = 31 ∧ t.pub.answers.length = 32 ∧ t.pub.answersDropped = 1
    ∧ (t.pub.answers.map Answer.number).getLast? = some 32 := by decide +kernel

/-- A LINE is cut off after one character: it leaves its source at the conflict, and the rest of its cost comes back (R121). -/
theorem test_met_AStationWithTheOwnNumberIsAConflict_cut_off :
    let s := drivingAs (received (sourcesAt 0) .station (patch station7 0 [5])) .line
    let t := ran .deliverStation s
    s.lnc.slot = .driving .line askOf1240.chars 1 ∧ Source.line ≠ .station ∧ Source.line.metered = true
    ∧ t.lnc.slot = .waiting .station ∧ t.lnc.cutOff = 1 ∧ t.pub.credit = 9
    ∧ (let d := ran .deliverStation { (received on .station (patch station7 0 [5])) with
         lnc := { drivingStation.lnc with queue := [{ heading := headingByte .station 1#5, body := patch station7 0 [5] }] } }
       d.lnc.slot = drivingStation.lnc.slot ∧ d.lnc.cutOff = 0) := by decide +kernel

/-- Commits at the end of the record: the horizon has passed the next number (R98, R101). -/
def atRecordEnd (h : Nat) : State := (twoLines (onRecord on)).setTb { (twoLines (onRecord on)).tb with horizon := h }

theorem test_met_AHandOverFlushesCommitsAndReleases_record_end :
    let a := (atRecordEnd 16777214).commitOldest
    let b := (atRecordEnd 16777215).commitOldest
    (atRecordEnd 16777214).tb.nextRecord.getD 1 ≤ 16777214 ∧ (atRecordEnd 16777215).tb.series = .record
    ∧ (a.tb.ring.map CommittedLine.number = [16777215] ∧ a.tb.discardedLines = 1 ∧ (a.lcp.latch 2).isSome = true)
    ∧ (b.tb.ring = [] ∧ b.tb.discardedLines = 1 ∧ b.lcp.latch 2 = none ∧ b.tb.nextRecord = some 16777216) := by decide +kernel

theorem test_met_AHandOverFlushesCommitsAndReleases_full_ring :
    (fullRing (twoLines (onRecord on))).commitOldest.lcp.latch 14 = some { event := .exportMissed 1, count := 1 } := by
  decide +kernel

theorem test_met_AHandOverFlushesCommitsAndReleases_without_target :
    let s := (twoLines on).setCu { on.cu with commitAllDue := true }
    s.cu.commitAllDue = true ∧ s.cu.handOver = .none ∧ s.tb.region.firstHolds = true
    ∧ (ran .commitAll s).tb.ring.map CommittedLine.number = [1, 2] ∧ (ran .commitAll s).tb.region.lines = [[]] := by decide +kernel

theorem test_met_AHandOverFlushesCommitsAndReleases_rendered : Rendered (twoLines on) := by
  unfold Rendered
  decide +kernel

theorem test_met_parameters_out_of_range :
    on.lcp.inFlight = none ∧ on.online = true ∧ ([0, 0, 0] : List Byte).length ≠ 4
    ∧ (List.replicate 263 (0 : Byte)).length ≤ 263 ∧ (5 : Byte).toNat > 4 ∧ (0 : Byte).toNat = 0 ∧ (17 : Byte).toNat > 16
    ∧ answered (ran (.flushCacheStroke [0, 0, 0]) on) = some 4 ∧ answered (ran (.readLinesPeek [5]) on) = some 4
    ∧ answered (ran (.readNotesAuto []) on) = some 4 ∧ answered (ran (.readRoster [0]) on) = some 4 := by decide +kernel

/-- The DRAFT image of station 7 is kept while pane A names the station, and discarded when the pane leaves it (R175). -/
theorem test_met_APaneTakesItsThreeSettings_images :
    let image : TailImage := { series := .draft, custody := .shadow, committed := 0, firstOpen := 1, lines := [[66]], attempts := 0 }
    let v := withSlot viewing peer
    let s := v.setVw { v.vw.setTail 0 (some image) with
      paneA := some { rows := 2, source := .station 7, offset := 0, pfx := true } }
    s.vw.pinned 7 = true ∧ (ran (.pane [0, 31, 0, 0, 0]) s).vw.tail 0 = none ∧ (ran (.pane [0, 7, 0, 0, 0]) s).vw.tail 0 = some image
    ∧ (ran (.pane [0, 31, 0, 0, 0]) (s.setVw { s.vw.setTail 0 (some { image with series := .record }) with paneA := s.vw.paneA })).vw.tail 0
      = some { image with series := .record } := by decide +kernel

/-! ## The ends of a resolution, of a flush and of a run; the text of units -/

/-- Several rows are dirty, the lowest of them 0 (R182). -/
def threeDirty : State := viewing.setSp { Screen.reset with rows := [[65], [], [], []], dirty := [0, 1, 3] }

theorem test_met_RowsAreSentOneAtATime_in_order :
    threeDirty.sp.send = none ∧ threeDirty.sp.dirty = 0 :: [1, 3] ∧ threeDirty.sp.busyPin = false ∧ DirtyRising threeDirty
    ∧ (ran .rowSendStart threeDirty).sp.dirty = [1, 3]
    ∧ (threeDirty.sp.dirty.foldl (fun d r => markDirty r d) []) = [0, 1, 3] ∧ markDirty 2 threeDirty.sp.dirty = [0, 1, 2, 3] := by
  unfold DirtyRising
  decide +kernel

theorem test_met_RowsAreSentOneAtATime_step : ∃ t, step (threeDirty.setPending [.rowSendStart]) = .next t := ⟨_, rfl⟩

/-- Strokes 3, 2, 4, 2, 4 stand untranslated, in this order. -/
def fiveUnits : List TextUnit :=
  [3, 2, 4, 2, 4].map fun v => newUnit .untranslate [{ number := v, value := BitVec.ofNat 23 v }] (stenoNotation (BitVec.ofNat 23 v))

theorem test_met_AMatchCheckStartsARetranslation_runs :
    ([2, 4] : List Stroke) ≠ [] ∧ fiveUnits = fiveUnits.take 1 ++ (fiveUnits.drop 1).take 2 ++ fiveUnits.drop 3
    ∧ IsRun [2, 4] ((fiveUnits.drop 1).take 2) ∧ ¬ IsRun [2, 4] (fiveUnits.take 2) ∧ hasRun [2, 4] fiveUnits = true
    ∧ hasRun [4, 3] fiveUnits = false
    ∧ (replaceRuns [2, 4] [65] 0 fiveUnits).map (fun x => (x.kind, x.strokes.map NumStroke.number))
      = [(.untranslate, [3]), (.translation, [2, 4]), (.translation, [2, 4])] := by
  unfold IsRun
  decide +kernel

/-- No run of `2, 4` begins before the one at 1. -/
theorem test_met_AMatchCheckStartsARetranslation_leftmost :
    ∀ a r b, fiveUnits = a ++ r ++ b → IsRun [2, 4] r → 1 ≤ a.length := by
  intro a r b h k
  cases a with
  | cons x a => simp
  | nil =>
    cases r with
    | nil => cases k
    | cons x r =>
      simp only [fiveUnits, List.map_cons, List.nil_append, List.cons_append, List.cons.injEq] at h
      rw [IsRun, ← h.1] at k
      simp only [List.map_cons, newUnit, List.cons.injEq, Prod.mk.injEq] at k
      exact absurd k.1.2.1 (by decide)

theorem test_steno_of_the_hyphen :
    stenoNotation (BitVec.twoPow 23 18) = bytesOf "-T" ∧ stenoNotation (BitVec.twoPow 23 22) = bytesOf "#"
    ∧ stenoNotation (BitVec.twoPow 23 7 ||| BitVec.twoPow 23 18) = bytesOf "AT"
    ∧ (stenoNotation (BitVec.allOnes 23)).length = 23 ∧ stenoNotation 0 = [] := by decide +kernel

/-- A pen in a line of `c` characters, at its start or within it. -/
def penIn (c : Nat) (start : Bool) : Pen := { done := [[66]], cur := List.replicate c 65, lineStart := start, format := Format.clear }

/-- A word of `n` letters. -/
def wordOf (n : Nat) : List Byte := List.replicate n 67

/-- The word fits at the width exactly, wraps one past it, and is cut one past the width of a line (R85, R86). -/
theorem test_met_RetranslationFetchesAndReplaces_words :
    ((penIn 4 false).placeWord 10 1 (wordOf 5)).cur.length = 10
    ∧ ((penIn 4 false).placeWord 10 1 (wordOf 6)).cur = wordOf 6
    ∧ ((penIn 4 false).placeWord 10 1 (wordOf 6)).done = [[66], List.replicate 4 65]
    ∧ ((penIn 4 false).placeWord 10 1 (wordOf 10)).cur = wordOf 10
    ∧ ((penIn 4 false).placeWord 10 1 (wordOf 11)).done = [[66], List.replicate 4 65, wordOf 10]
    ∧ ((penIn 4 false).placeWord 10 1 (wordOf 11)).cur = wordOf 1
    ∧ ((penIn 0 true).placeWord 10 1 (wordOf 21)).done = [[66], wordOf 10, wordOf 10]
    ∧ ((penIn 5 true).placeWord 10 1 (wordOf 5)).cur.length = 10 ∧ (penIn 4 false).wordLine 10 1 (wordOf 6) = 2 := by decide +kernel

theorem test_met_RetranslationFetchesAndReplaces_bytes :
    let t : TextPen := { pen := penIn 4 false, word := wordOf 2, words := 0, first := none }
    let g : Setting := { width := 10, sep := 1, indent := 5 }
    t.word ≠ [] ∧ ({ t with word := [] } : TextPen).word = [] ∧ (t.byte g true 32).words = 1
    ∧ (t.byte g true 7).pen.cur = List.replicate 5 32
    ∧ (t.byte g true 7).first = some 1 ∧ (({ t with word := [] } : TextPen).byte g true 7).first = some 2
    ∧ (t.byte g true 4).pen.format.cap = true ∧ (t.byte g true 5).pen.format.lower = true ∧ t.byte g true 2 = t
    ∧ (casedChar { Format.clear with cap := true } 97).1 = 65 ∧ (casedChar { Format.clear with lower := true } 90).1 = 122
    ∧ (casedChar { Format.clear with cap := true } 45).2.cap = true := by decide +kernel

theorem test_met_RetranslationFetchesAndReplaces_units :
    let x := newUnit .untranslate [{ number := 1, value := 2 }] (stenoNotation 2)
    x.kind = .untranslate ∧ x.text ≠ [] ∧ (∀ b ∈ x.text, 33 ≤ b.toNat) ∧ 0 < 10 ∧ 10 ≤ 10
    ∧ (penIn 10 false).lines = [[66], List.replicate 10 65]
    ∧ ((penIn 4 false).placeUnit 10 5 x).1.cur = List.replicate 4 65 ++ bytesOf " T" := by decide +kernel

theorem test_met_RetranslationFetchesAndReplaces_bounds : ∀ l ∈ (penIn 10 false).lines, LineOk 10 l := by
  unfold LineOk
  decide +kernel

/-- `resolving`, with the last stroke of a drop in hand, and a flush owed where `owed`. -/
def dropping (value : Stroke) (owed : Bool) : State :=
  let s := resolving true (bytesOf "the")
  s.setTe { s.te with inHand := some (aRecord 2 value true), flushOwed := owed }

theorem test_met_TheResolveTimerDemandsOneResolution_drop_work :
    let s := dropping 4 true
    let u := dropping 512 true
    (s.te.walkReq = none ∧ s.te.phase = .fetch ∧ s.te.rewalkDue = false ∧ s.te.pendingBuf.drop 1 = [] ∧ s.te.flushOwed = true)
    ∧ s.cfg.undoStroke = 512
    ∧ (s.teNext.map fun t => (t.te.demand, t.te.pendingBuf)) = some (.all, [{ number := 2, value := 4 }])
    ∧ (s.teNext.map fun t => t.tb.region.lines) = some [bytesOf "the [?]"]
    ∧ ((dropping 4 false).teNext.map fun t => t.te.demand) = some .none
    ∧ (u.teNext.map fun t => (t.te.lateUndo, t.te.flushOwed, t.te.phase)) = some (1, false, .idle) := by
  decide +kernel

theorem test_met_TheResolveTimerDemandsOneResolution_flush :
    let s := (resolving true (bytesOf "the")).setCu handingOver7.cu
    let f := s.setTe { s.te with flushOwed := true, demand := .all }
    let g := f.setCu { f.cu with commitAllDue := false }
    f.te.pendingBuf.drop 1 = [] ∧ f.te.inHand = none ∧ f.te.flushOwed = true ∧ g.cu.handOver = .handingOver 7
    ∧ (∀ n, on.cu.handOver ≠ .handingOver n)
    ∧ (g.teNext.map fun t => (t.te.flushOwed, t.te.demand, t.cu.commitAllDue)) = some (false, .none, true) := by
  refine ⟨by decide +kernel, by decide +kernel, by decide +kernel, by decide +kernel, ?_, by decide +kernel⟩
  intro n h
  cases h

theorem test_met_TheResolveTimerDemandsOneResolution_marks :
    ((on.handMarks [8]).cu.state = .claiming) ∧ (on.handMarks [65, 10]).cu.state = .shadow
    ∧ ((onRecord on).handMarks [9]).cu.state ≠ .onRecord := by decide +kernel

/-! ## PLAN's reads and faults -/

/-- PLAN of `defineT`, or of strokes that begin with `T`, reads `bs` at `a` for `k`. -/
def planReads (strokes : List Stroke) (k : Lookup) (a : Nat) (bs : List Byte) : State :=
  { serving definable .defn (.read a bs.length) with
    mem := Memory.setBytes [] a bs,
    du := { definable.du with queue := [], work := .plan { defineT with strokes := strokes } { k with duRules := true } [] } }

/-- What the node told after a PLAN operation, and what it reads next. -/
def planned (s : State) : Option Event × Option Event × Option Request :=
  let t := ran .defOperationEnd s
  ((t.lcp.latch 9).map Latch.event, (t.lcp.latch 10).map Latch.event, t.arb.inService)

theorem test_met_ADefinitionIsServedByOperations_header_faults :
    let w := fun b => planReads [2] atHeader 256 (headerBytes b 1)
    (w 13).du.work = .plan defineT { atHeader with duRules := true } [] ∧ (w 13).arb.inService = some { cls := .defn, op := .read 256 8 }
    ∧ (Memory.byteAt (w 13).mem 256).toNat = 13 ∧ (Memory.byteAt (w 12).mem 256).toNat = 12
    ∧ (w 12).dir.inCells 256 (tableBytes 12) = false ∧ memSize < 16777208 + tableBytes 12
    ∧ planned (w 13) = (some (.dictFault 0 .exponent 256), some (.defineResult .fault 2), none)
    ∧ planned (w 12) = (some (.dictFault 0 .region 256), some (.defineResult .fault 2), none) := by decide +kernel

theorem test_met_ADefinitionIsServedByOperations_heads :
    let w := fun h => planReads [2] atHead 264 (leBytes 3 h)
    (w 1024).arb.inService = some { cls := .defn, op := .read atHead.headAddr 3 } ∧ atHead.stage = .head
    ∧ fieldAt ((w 1024).mem.bytesAt 264 3) 0 3 = 1024 ∧ 1024 % 16 = 0 ∧ 1025 % 16 ≠ 0
    ∧ dir1.inCells 1024 16 = true ∧ dir1.inCells 4096 16 = false ∧ dir1.inCells 1025 16 = true
    ∧ planned (w 1024) = (none, none, some { cls := .defn, op := .read 1024 16 })
    ∧ planned (w 1025) = (some (.dictFault 0 .address 256), some (.defineResult .fault 2), none)
    ∧ planned (w 4096) = (some (.dictFault 0 .region 4096), some (.defineResult .fault 2), none) := by decide +kernel

theorem test_met_ADefinitionIsServedByOperations_chains :
    let linked := fun a => newCellBytes (fun _ => 0) 4 (some { addr := 2048, len := 3 }) none a 0
    let w := fun n a => planReads [2] { lookupT with place := n } 1024 (linked a)
    (w 23 768).arb.inService = some { cls := .defn, op := .read lookupT.cellAddr 16 } ∧ lookupT.stage = .cell
    ∧ cellFaults (w 23 768).dir 0 1024 (CellData.ofBytes (linked 768)) = [] ∧ (CellData.ofBytes (linked 768)).link = 768
    ∧ cellFaults (w 23 4096).dir 0 1024 (CellData.ofBytes (linked 4096)) = [] ∧ dir1.inCells 768 16 = true
    ∧ dir1.inCells 4096 16 = false ∧ (CellData.ofBytes (linked 768)).stroke ≠ lookupT.stroke.toNat
    ∧ planned (w 23 768) = (none, none, some { cls := .defn, op := .read 768 16 })
    ∧ planned (w 24 768) = (some (.dictFault 0 .chainLimit 256), some (.defineResult .fault 2), none)
    ∧ planned (w 23 4096) = (some (.dictFault 0 .region 4096), some (.defineResult .fault 2), none) := by decide +kernel

theorem test_met_ADefinitionIsServedByOperations_cell_faults :
    let outside := newCellBytes (fun _ => 0) 2 none (some 4096) 0 0
    let s := planReads [2, 4] lookupT 1024 outside
    let b := planReads [2] lookupT 1024 (patch cellT 3 [8])
    cellFaults b.dir 0 1024 (CellData.ofBytes (patch cellT 3 [8])) = [(.spare, 1024)]
    ∧ planned b = (some (.dictFault 0 .spare 1024), some (.defineResult .fault 2), none)
    ∧ cellFaults s.dir 0 1024 (CellData.ofBytes outside) = [] ∧ (CellData.ofBytes outside).hasNext = true
    ∧ ([] : List PlanStep).length + 1 < ([2, 4] : List Stroke).length ∧ s.dir.inCells (CellData.ofBytes outside).next 8 = false
    ∧ planned s = (some (.dictFault 0 .region 4096), some (.defineResult .fault 2), none) := by decide +kernel

/-! ## Custody, share and the followed holder -/

/-- `gathering` with station 7 in its slot, and the claims of the stations given. -/
def gatheringOf (stations : List Nat) (q : RosterSlot) : State :=
  withSlot ((gathering on).setCu
    { (gathering on).cu with claims := stations.map fun n => { station := n, rank := 2, horizon := 99 } }) q

theorem test_met_SlotsLapseAndAreFreed_claims :
    let left := fun ns => (gatheringOf ns peer).cu.claims.filter fun x => decide (x.station ≠ 7)
    (gatheringOf [7] peer).cu.handOver = .gathering ∧ (∃ x ∈ (gatheringOf [7] peer).cu.claims, x.station = 7)
    ∧ left [7] = [] ∧ left [9, 7] ≠ [] ∧ (∀ x ∈ (gatheringOf [9] peer).cu.claims, x.station ≠ 7) ∧ on.cu.handOver ≠ .gathering
    ∧ (ran (.lapseTimerExpiry 0) (gatheringOf [7] peer)).cu.state = .onRecord
    ∧ (ran (.lapseTimerExpiry 0) (gatheringOf [7] peer)).pub.stationWaiting = some 0
    ∧ (ran (.lapseTimerExpiry 0) (gatheringOf [9, 7] peer)).cu.claims.map Claim.station = [9]
    ∧ (ran (.freeTimerExpiry 0) (gatheringOf [9, 7] lapsedPeer)).cu.claims.map Claim.station = [9]
    ∧ (ran (.lapseTimerExpiry 0) (gatheringOf [7] peer)).pub.ownWeight = CustodyState.onRecord.weight := by decide +kernel

theorem test_met_SlotsLapseAndAreFreed_followed :
    let t := ran (.lapseTimerExpiry 0) following
    following.vw.followed = some (.station 7) ∧ t.online = true ∧ t.cfg.viewer = true ∧ t.vw.followed = none
    ∧ t.lcp.latch 12 = some { event := .followChanged 0, count := 1 } ∧ t.vw.reach = following.vw.reach := by decide +kernel

theorem test_met_AReleaseHandsTheRecordOver_ignored :
    let s := fun (v : State) n => received v .release (release7 n 100).body
    (s (onRecord on) 5).cu.state.holds = true ∧ (onWith { g5 with writer := false }).cfg.writer = false
    ∧ (on.setCu { on.cu with conflict := true }).cu.conflict = true
    ∧ (let h := (onRecord on).setCu { (onRecord on).cu with recordClosed := true }
       (ran .deliverRelease (s h 5)).cu = { h.cu with recordClosed := false } ∧ (ran .deliverRelease (s h 0)).cu = h.cu
       ∧ (ran .deliverRelease (s h 9)).cu.recordClosed = false)
    ∧ (ran .deliverRelease (s (onRecord on) 0)).cu.recordClosed = false
    ∧ (ran .deliverRelease (s (onWith { g5 with writer := false }) 0)).cu = { Cu.reset with recordClosed := true }
    ∧ (ran .deliverRelease (s (on.setCu { on.cu with conflict := true }) 5)).cu.state = .idle := by decide +kernel

theorem test_met_AClaimEndsByRefusalOrTime_break :
    let s := fun closed => (claiming (on.setTb { on.tb with horizon := 99 })).setCu { (claiming on).cu with recordClosed := closed }
    (s false).cu.claimAt = some 3000 ∧ (s false).tb.series = .draft ∧ (s false).roster.holder = none
    ∧ 0 < (s false).tb.horizon ∧ (s false).cu.recordClosed = false ∧ (s true).cu.recordClosed = true
    ∧ (ran .claimTimerExpiry (s false)).lcp.latch 2 = some { event := .recordBreak 100, count := 1 }
    ∧ (ran .claimTimerExpiry (s false)).tb.nextRecord = some 101
    ∧ (ran .claimTimerExpiry (s true)).lcp.latch 2 = none ∧ (ran .claimTimerExpiry (s true)).tb.nextRecord = some 100 := by
  decide +kernel

/-- Stations 7 and 9 announce ON_RECORD and RELEASING; of one rank, the lower number is told (R156). -/
theorem test_met_AClaimEndsByRefusalOrTime_holders :
    let r := (on.roster.setSlot 0 (some { peer with station := 9, custody := .onRecord })).setSlot 1
      (some { peer with custody := .releasing })
    r.holder.map RosterSlot.station = some 7 ∧ better 2 9 2 7 = false ∧ peer.state = .admitted
    ∧ (on.roster.setSlot 0 (some { lapsedPeer with custody := .onRecord })).holder = none
    ∧ CustodyState.releasing.holds = true ∧ CustodyState.shadow.holds = false ∧ CustodyState.claiming.holds = false := by decide +kernel

/-- The node writes the record and views it. -/
def recordViewing (h : Nat) (next : Nat) (followed : Option Followed) : State :=
  let s := twoLines (onRecord viewing)
  (s.setTb { s.tb with horizon := h, nextRecord := some next }).setVw { s.vw with followed := followed }

theorem test_met_AHandOverFlushesCommitsAndReleases_viewed :
    let s := recordViewing 99 100 (some .self)
    let b := recordViewing 16777213 100 (some .self)
    let e := recordViewing 16777214 100 (some .self)
    s.viewing = true ∧ on.viewing = false ∧ s.tb.series = .record ∧ (99 < 100 ∧ 100 ≤ 16777215)
    ∧ (100 ≤ 16777213 ∧ 16777213 + 2 ≤ 16777215)
    ∧ s.vw.stateOf 100 = none ∧ s.vw.takes 100 = true
    ∧ s.commitOldest.vw.reach = some (100, 5) ∧ (s.commitOldest.vw.stateOf 100).isSome = true ∧ s.commitOldest.vw.base = some 69
    ∧ b.commitOldest.vw.reach = some (16777215, 5) ∧ b.commitOldest.vw.stateOf 16777214 = some (.held true (bytesOf "[RECORD BREAK]"))
    ∧ e.commitOldest.vw.reach = some (16777215, 5) ∧ (recordViewing 99 100 none).commitOldest.vw.reach = none := by decide +kernel

theorem test_met_AHandOverFlushesCommitsAndReleases_entries :
    let v := (((viewing.vw.put 100 .lost).put 101 (.held false [65])).put 102 (.waiting 0 300 7)).put 715 (.held false [66])
    v.stateOf 100 = some .lost ∧ v.stateOf 101 = some (.held false [65]) ∧ v.stateOf 102 = some (.waiting 0 300 7)
    ∧ (v.stateOf 203 = none ∧ v.takes 203 = false) ∧ (v.stateOf 99 = none ∧ v.takes 99 = true)
    ∧ (v.withOwnLine 5 100 false [67]).stateOf 100 = some (.held false [67])
    ∧ (v.withOwnLine 5 101 false [67]).stateOf 101 = some (.held false [65])
    ∧ (v.withOwnLine 5 203 false [67]).store = v.store := by decide +kernel

/-! ## Credit while a frame is driven -/

/-- 07, Worked example: credit at the holder, at time 22: the TAIL T1 is driven, and T2, of cost 332, waits. -/
def creditExample : State :=
  let image : TailImage := { series := .record, custody := .onRecord, committed := 99, firstOpen := 100, attempts := 0,
                             lines := [80, 80, 80, 73].map fun n => List.replicate n 65 }
  let s := drivingAs { onRecord on with clock := { on.clock with chars := 22 } } .tail
  s.setPub { s.pub with share := 640, ownWeight := 8, credit := 136, tailInFlight := some image, tailWaiting := some image }

theorem test_credit_while_a_TAIL_is_driven :
    let s := creditExample.choose
    creditExample.tailCost = some 332 ∧ (s.pub.credit, s.pub.remainder, s.pub.creditMark) = (150, 80, 22)
    ∧ s.lnc.slot = creditExample.lnc.slot
    ∧ (let t := ran .creditReach s
       (t.clock.chars, t.pub.credit, t.pub.remainder) = (307, 332, 480) ∧ t.lnc.slot = s.lnc.slot) := by decide +kernel

/-- The metered frames of `sourcesAt 0` alone, two of a kind, the first of kind `x` being driven. -/
def meteredAt (x : Source) : State :=
  let s := drivingAs (sourcesAt 0) x
  let d := s.setLnc { s.lnc with custodyList := [] }
  (d.setPub { d.pub with
    stationWaiting := none, defines := [], credit := 5,
    lineQueue := [[65], [66, 66]].map fun t => { number := 100, brk := false, text := t, attempts := 0 },
    answers := [{ number := 9, form := .gone, attempts := 0 }, { number := 10, form := .held false [67, 67, 67], attempts := 0 }] }).setVw
    { d.vw with asks := [] }

theorem test_met_ThePublishersTimersActInTime_waiting :
    (meteredAt .station).heldCosts = [12, 13, 11, 14] ∧ (meteredAt .line).heldCosts = [13, 11, 14]
    ∧ (meteredAt (.answer 9)).heldCosts = [12, 13, 14]
    ∧ ((meteredAt .line).setPub { (meteredAt .line).pub with credit := 13 }).heldCosts = [14]
    ∧ (ran .creditReach (meteredAt (.answer 9))).pub.credit = 12 := by decide +kernel

theorem test_met_ATransmitStartDrivesTheFrame_driving :
    let s := fun (x : Source) (n : Nat) => { meteredAt x with clock := { (meteredAt x).clock with chars := n } }
    (s .line 40).online = true ∧ (s .line 40).lnc.slot = .driving .line askOf1240.chars 1
    ∧ ((s .line 40).choose.pub.credit, (s .line 40).choose.pub.creditMark) = (37, 40)
    ∧ (let d := (s .define 40).setPub { (s .define 40).pub with lineQueue := [] }
       ((d.setPub { d.pub with defines := [{ number := 0, strokes := [2], text := [65], attempts := 0 }] }).choose.pub.credit = 37)
       ∧ (d.setPub { d.pub with stationWaiting := some 0 }).choose = d.setPub { d.pub with stationWaiting := some 0 })
    ∧ (ran (.characterReceived false 4 true) (s .line 40)).pub.credit = 5
    ∧ (ran .transmitStart (waitingStation.setPub { waitingStation.pub with lineQueue := (s .line 0).pub.lineQueue })).pub.creditMark
      = 7 := by decide +kernel

end Sys2Proof.Tests
end

section
/-! SUPPORT. The bounds of the queues, lists and counts: what each shared operation and each command does to them. -/

namespace Sys2Proof.Machine

/-! ## The bounds, block by block -/

/-- The Stroke Queue is within its 32 records (R10). -/
def StrokeQueue.Fits (q : StrokeQueue) : Prop := q.records.length ≤ 32

/-- The Notes Log is within its 8,192 entries, and no more of them are unexported than it holds (R12). -/
def NotesLog.Fits (n : NotesLog) : Prop := n.entries.length ≤ 8192 ∧ n.unexported ≤ n.entries.length

/-- The definition queue is within its 8 entries (R29). -/
def Du.Fits (d : Du) : Prop := d.queue.length ≤ 8

/-- The retranslation list is within its 8 handings (R74). -/
def Te.Fits (t : Te) : Prop := t.handings.length ≤ 8

/-- The ring is within its 256 lines (R95). -/
def Tb.Fits (t : Tb) : Prop := t.ring.length ≤ 256

/-- The receive queue is within its 8 frames (R111), and one frame of a kind at most waits behind the first custody frame (R116). -/
def Lnc.Fits (l : Lnc) : Prop := l.queue.length ≤ 8 ∧ ((l.custodyList.drop 1).map CustodyFrame.kind).Nodup

/-- The Publisher's queues are within 8, 32 and 8 entries, and its credit within 800 (R131, R132, R134, R139). -/
def Pub.Fits (p : Pub) : Prop := p.lineQueue.length ≤ 8 ∧ p.answers.length ≤ 32 ∧ p.defines.length ≤ 8 ∧ p.credit ≤ 800

/-- The claim list is within its 4 claims (R157). -/
def Cu.Fits (c : Cu) : Prop := c.claims.length ≤ 4

/-- The ASK list is within its 4 entries (R174). -/
def Viewer.Fits (v : Viewer) : Prop := v.asks.length ≤ 4

theorem bounded_iff (s : State) : Bounded s ↔
    s.sq.Fits ∧ s.notes.Fits ∧ s.du.Fits ∧ s.te.Fits ∧ s.tb.Fits ∧ s.lnc.Fits ∧ s.pub.Fits ∧ s.cu.Fits ∧ s.vw.Fits := by
  simp only [Bounded, StrokeQueue.Fits, NotesLog.Fits, Du.Fits, Te.Fits, Tb.Fits, Lnc.Fits, Pub.Fits, Cu.Fits, Viewer.Fits]
  tauto

/-- The parts of the state that the bounds speak of. -/
abbrev boundedParts : List Part := [.sq, .notes, .du, .te, .tb, .lnc, .pub, .cu, .vw]

variable {s t u : State}

/-- What leaves the bounded blocks alone keeps their bounds. -/
theorem Bounded.frame {xs : List Part} (h : Bounded s) (k : SameBut xs s t) (hx : ∀ p ∈ boundedParts, p ∉ xs) : Bounded t := by
  rw [bounded_iff] at h ⊢
  rw [k.sq (hx _ (by decide)), k.notes (hx _ (by decide)), k.du (hx _ (by decide)), k.te (hx _ (by decide)),
    k.tb (hx _ (by decide)), k.lnc (hx _ (by decide)), k.pub (hx _ (by decide)), k.cu (hx _ (by decide)), k.vw (hx _ (by decide))]
  exact h

theorem Bounded.ite {c : Prop} [Decidable c] (h : Bounded t) (k : Bounded u) : Bounded (if c then t else u) := by
  split
  · exact h
  · exact k

theorem Bounded.foldl {α : Type} (f : State → α → State) (hf : ∀ s a, Bounded s → Bounded (f s a)) (l : List α) (h : Bounded s) :
    Bounded (l.foldl f s) := by
  induction l generalizing s with
  | nil => exact h
  | cons a l ih => exact ih (hf s a h)

/-! ## One block set

Where the update leaves the bounded field alone, the premise is `id`, given as `by exact id` so that it is read once the new block is
known. -/

theorem Bounded.setSq {x : StrokeQueue} (h : Bounded s) (hx : s.sq.Fits → x.Fits) : Bounded (s.setSq x) := by
  rw [bounded_iff] at h ⊢
  exact ⟨hx h.1, h.2⟩

theorem Bounded.setNotes {x : NotesLog} (h : Bounded s) (hx : s.notes.Fits → x.Fits) : Bounded (s.setNotes x) := by
  rw [bounded_iff] at h ⊢
  obtain ⟨sq, notes, rest⟩ := h
  exact ⟨sq, hx notes, rest⟩

theorem Bounded.setDu {x : Du} (h : Bounded s) (hx : s.du.Fits → x.Fits) : Bounded (s.setDu x) := by
  rw [bounded_iff] at h ⊢
  obtain ⟨sq, notes, du, rest⟩ := h
  exact ⟨sq, notes, hx du, rest⟩

theorem Bounded.setTe {x : Te} (h : Bounded s) (hx : s.te.Fits → x.Fits) : Bounded (s.setTe x) := by
  rw [bounded_iff] at h ⊢
  obtain ⟨sq, notes, du, te, rest⟩ := h
  exact ⟨sq, notes, du, hx te, rest⟩

theorem Bounded.setTb {x : Tb} (h : Bounded s) (hx : s.tb.Fits → x.Fits) : Bounded (s.setTb x) := by
  rw [bounded_iff] at h ⊢
  obtain ⟨sq, notes, du, te, tb, rest⟩ := h
  exact ⟨sq, notes, du, te, hx tb, rest⟩

theorem Bounded.setLnc {x : Lnc} (h : Bounded s) (hx : s.lnc.Fits → x.Fits) : Bounded (s.setLnc x) := by
  rw [bounded_iff] at h ⊢
  obtain ⟨sq, notes, du, te, tb, lnc, rest⟩ := h
  exact ⟨sq, notes, du, te, tb, hx lnc, rest⟩

theorem Bounded.setPub {x : Pub} (h : Bounded s) (hx : s.pub.Fits → x.Fits) : Bounded (s.setPub x) := by
  rw [bounded_iff] at h ⊢
  obtain ⟨sq, notes, du, te, tb, lnc, pub, rest⟩ := h
  exact ⟨sq, notes, du, te, tb, lnc, hx pub, rest⟩

theorem Bounded.setCu {x : Cu} (h : Bounded s) (hx : s.cu.Fits → x.Fits) : Bounded (s.setCu x) := by
  rw [bounded_iff] at h ⊢
  obtain ⟨sq, notes, du, te, tb, lnc, pub, cu, vw⟩ := h
  exact ⟨sq, notes, du, te, tb, lnc, pub, hx cu, vw⟩

theorem Bounded.setVw {x : Viewer} (h : Bounded s) (hx : s.vw.Fits → x.Fits) : Bounded (s.setVw x) := by
  rw [bounded_iff] at h ⊢
  obtain ⟨sq, notes, du, te, tb, lnc, pub, cu, vw⟩ := h
  exact ⟨sq, notes, du, te, tb, lnc, pub, cu, hx vw⟩

/-! ## Operations outside the bounded blocks -/

theorem Bounded.latch (h : Bounded s) (e : Event) : Bounded (s.latch e) := h.frame (frame_latch _ _) (by decide)
theorem Bounded.request (h : Bounded s) (c : MemClass) (op : MemOp) : Bounded (s.request c op) :=
  h.frame (frame_request _ _ _) (by decide)
theorem Bounded.endOperation (h : Bounded s) (r : Request) : Bounded (s.endOperation r) :=
  h.frame (frame_endOperation _ _) (by decide)
theorem Bounded.reply (h : Bounded s) (c : ReplyCode) (d : List Byte) : Bounded (s.reply c d) := h.frame (frame_reply _ _ _) (by decide)
theorem Bounded.setCache (h : Bounded s) (x : Cache) : Bounded (s.setCache x) := h.frame (frame_setCache _ _) (by decide)
theorem Bounded.setKcu (h : Bounded s) (x : Kcu) : Bounded (s.setKcu x) := h.frame (frame_setKcu _ _) (by decide)
theorem Bounded.setSp (h : Bounded s) (x : Screen) : Bounded (s.setSp x) := h.frame (frame_setSp _ _) (by decide)
theorem Bounded.setSlot (h : Bounded s) (i : Nat) (x : Option RosterSlot) : Bounded (s.setSlot i x) :=
  h.frame (frame_setSlot _ _ _) (by decide)
theorem Bounded.refreshSlot (h : Bounded s) (n : Nat) : Bounded (s.refreshSlot n) := h.frame (frame_refreshSlot _ _) (by decide)
theorem Bounded.rosterEvent (h : Bounded s) (a b : RosterSlot) : Bounded (s.rosterEvent a b) :=
  h.frame (frame_rosterEvent _ _ _) (by decide)
theorem Bounded.compose (h : Bounded s) : Bounded s.compose := h.frame (frame_compose _) (by decide)

/-! ## Clocks -/

theorem Lnc.Fits.advance {l : Lnc} (h : l.Fits) (n : Nat) : (l.advance n).Fits := by
  unfold Lnc.advance
  split <;> exact h

theorem Bounded.advance (h : Bounded s) (n : Nat) : Bounded (s.advance n) :=
  (h.setLnc (x := s.lnc.advance n) (·.advance n)).frame (xs := [.clock, .sp]) (by simp [SameBut, State.advance]) (by decide)

theorem Bounded.reachMs (h : Bounded s) (e : Ms) : Bounded (s.reachMs e) := Bounded.ite h (h.advance _)

theorem Bounded.reachChars (h : Bounded s) (n : Nat) : Bounded (s.reachChars n) := h.advance _

/-! ## Stroke capture -/

theorem StrokeQueue.Fits.take {q : StrokeQueue} (h : q.Fits) (r : StrokeRecord) : (q.take r).Fits := by
  unfold StrokeQueue.take
  split
  · simp only [StrokeQueue.Fits, List.length_append, List.length_singleton]
    omega
  · exact h

theorem NotesLog.Fits.take {n : NotesLog} (h : n.Fits) (r : StrokeRecord) : (n.take r).Fits := by
  obtain ⟨size, unexported⟩ := h
  unfold NotesLog.take
  split
  · simp only [NotesLog.Fits, List.length_append, List.length_singleton]
    omega
  · split
    · simp only [NotesLog.Fits, List.length_append, List.length_drop, List.length_singleton]
      omega
    · exact ⟨size, unexported⟩

theorem Bounded.handOn (h : Bounded s) (r : StrokeRecord) : Bounded (s.handOn r) := by
  have taken : Bounded ((s.setSq (s.sq.take r)).setNotes (s.notes.take (s.sq.noteCopy r))) :=
    (h.setSq (·.take r)).setNotes (·.take _)
  exact Bounded.ite (Bounded.ite (taken.latch _) taken) (taken.latch _)

theorem Bounded.closeIfNoneLive (h : Bounded s) (e : Ms) : Bounded (s.closeIfNoneLive e) := by
  unfold State.closeIfNoneLive
  split
  · exact Bounded.ite h (Bounded.ite (h.setKcu _) ((h.setKcu _).handOn _))
  · exact h

theorem Bounded.settlingExpiry (h : Bounded s) (n : Nat) : Bounded (s.settlingExpiry n) := by
  unfold State.settlingExpiry
  split
  · exact h
  · split
    · exact h
    · refine Bounded.ite ((h.reachMs _).frame (frame_acceptedDown _ _ _) (by decide)) ?_
      exact Bounded.ite (((h.reachMs _).setKcu _).closeIfNoneLive _) ((h.reachMs _).setKcu _)

theorem Bounded.stuckExpiry (h : Bounded s) (n : Nat) : Bounded (s.stuckExpiry n) := by
  unfold State.stuckExpiry
  split
  · exact h
  · split
    · exact h
    · exact (((h.reachMs _).setKcu _).latch _).closeIfNoneLive _

/-! ## Publisher -/

theorem creditAfter_le (c f share dt : Nat) : (creditAfter c f share dt).1 ≤ 800 := by
  unfold creditAfter
  split
  · exact Nat.le_refl _
  · simp only
    omega

theorem Bounded.updateCredit (h : Bounded s) : Bounded s.updateCredit :=
  h.setPub fun ⟨lines, answers, defines, _⟩ => ⟨lines, answers, defines, creditAfter_le _ _ _ _⟩

theorem Bounded.refund (h : Bounded s) (n : Nat) : Bounded (s.refund n) := by
  unfold State.refund
  dsimp only
  split
  · exact h.updateCredit.setPub fun ⟨lines, answers, defines, _⟩ => ⟨lines, answers, defines, Nat.le_refl _⟩
  · next small => exact h.updateCredit.setPub fun ⟨lines, answers, defines, _⟩ => ⟨lines, answers, defines, Nat.le_of_not_lt small⟩

theorem Bounded.choose (h : Bounded s) : Bounded s.choose := by
  have tested : Bounded (if s.choiceTests then s.updateCredit else s) := Bounded.ite h.updateCredit h
  exact Bounded.ite (Bounded.ite tested (tested.setLnc (by exact id))) h

theorem Bounded.offered (h : Bounded s) : Bounded (s.choose).compose := h.choose.compose

theorem Bounded.stationReady (h : Bounded s) : Bounded s.stationReady := h.setPub (by exact id)

theorem Bounded.buildTail (h : Bounded s) : Bounded s.buildTail := Bounded.ite (h.setPub (by exact id)) h

theorem Bounded.dropTail (h : Bounded s) : Bounded s.dropTail := Bounded.ite h (h.setPub (by exact id))

theorem Bounded.reweigh (h : Bounded s) (n : Nat) : Bounded (s.reweigh n) := by
  refine h.setPub fun ⟨lines, answers, defines, credit⟩ => ⟨lines, answers, defines, ?_⟩
  dsimp only
  split
  · exact Nat.le_refl _
  · exact credit

theorem Bounded.reshare (h : Bounded s) : Bounded s.reshare := by
  have weighed : Bounded (s.updateCredit.reweigh s.cu.state.weight) := h.updateCredit.reweigh _
  exact Bounded.ite weighed.dropTail
    (Bounded.ite weighed.stationReady.dropTail weighed.stationReady.dropTail.buildTail)

theorem length_dropOldestWaiting {α : Type} (b : Bool) (l : List α) (h : 2 ≤ l.length) :
    (dropOldestWaiting b l).length = l.length - 1 := by
  cases l with
  | nil => simp at h
  | cons x rest =>
    simp only [List.length_cons] at h
    simp only [dropOldestWaiting]
    split
    · simp only [List.length_cons, List.length_drop]
      omega
    · simp

theorem Bounded.queueLine (h : Bounded s) (n : Nat) (b : Bool) (x : List Byte) : Bounded (s.queueLine n b x) := by
  unfold State.queueLine
  dsimp only
  refine Bounded.ite h ?_
  split
  · next room =>
    refine h.setPub fun ⟨_, answers, defines, credit⟩ => ⟨?_, answers, defines, credit⟩
    simp only [List.length_append, List.length_singleton]
    omega
  · next full =>
    refine h.setPub fun ⟨lines, answers, defines, credit⟩ => ⟨?_, answers, defines, credit⟩
    simp only [List.length_append, List.length_singleton]
    rw [length_dropOldestWaiting _ _ (by omega)]
    omega

theorem length_insertAnswer (a : Answer) (l : List Answer) : (insertAnswer a l).length = l.length + 1 := by
  induction l with
  | nil => rfl
  | cons x rest ih =>
    simp only [insertAnswer]
    split
    · rfl
    · simp only [List.length_cons, ih]

theorem Bounded.askFor (h : Bounded s) (n : Nat) : Bounded (s.askFor n) := by
  unfold State.askFor
  refine Bounded.ite h ?_
  split
  · next room =>
    refine h.setPub fun ⟨lines, _, defines, credit⟩ => ⟨lines, ?_, defines, credit⟩
    rw [length_insertAnswer]
    exact room
  · exact h.setPub (by exact id)

theorem Bounded.takeAsk (h : Bounded s) (a : AskBody) : Bounded (s.takeAsk a) :=
  Bounded.ite h (Bounded.ite h (h.foldl _ (fun _ n k => k.askFor n) _))

theorem Bounded.sendDefinition (h : Bounded s) (v : List Stroke) (x : List Byte) : Bounded (s.sendDefinition v x) := by
  unfold State.sendDefinition
  refine Bounded.ite h ?_
  split
  · next room =>
    refine h.setPub fun ⟨lines, answers, _, credit⟩ => ⟨lines, answers, ?_, credit⟩
    simp only [List.length_append, List.length_singleton]
    omega
  · exact h.setPub (by exact id)

theorem Bounded.conflictAtPub (h : Bounded s) : Bounded s.conflictAtPub := by
  refine Bounded.stationReady (h.setPub fun ⟨_, _, _, credit⟩ => ?_)
  exact ⟨Nat.zero_le _, Nat.zero_le _, Nat.zero_le _, credit⟩

theorem Bounded.publisherAtGo (h : Bounded s) : Bounded s.publisherAtGo := h.setPub (by exact id)

theorem Bounded.beaconExpiry (h : Bounded s) : Bounded s.beaconExpiry := by
  unfold State.beaconExpiry
  split
  · exact h
  · exact (((h.reachMs _).stationReady.setPub (by exact id))).choose

theorem Bounded.refreshExpiry (h : Bounded s) : Bounded s.refreshExpiry := by
  unfold State.refreshExpiry
  split
  · exact h
  · exact (((h.reachMs _).setPub (by exact id)).buildTail).choose

theorem Bounded.creditReach (h : Bounded s) : Bounded s.creditReach := by
  unfold State.creditReach
  split
  · exact h
  · exact Bounded.ite h ((h.reachChars _).updateCredit).choose

/-! ## Viewer -/

theorem Bounded.putLine (h : Bounded s) (n : Nat) (x : StoreState) : Bounded (s.putLine n x) := h.setVw (by exact id)

theorem Bounded.loseLine (h : Bounded s) (n : Nat) : Bounded (s.loseLine n) := (h.setVw (by exact id)).latch _

theorem Bounded.storeLine (h : Bounded s) (n : Nat) (g b : Bool) (x : List Byte) : Bounded (s.storeLine n g b x) := by
  unfold State.storeLine
  split
  · exact h
  · exact Bounded.ite h (h.putLine _ _)
  · exact Bounded.ite (h.loseLine _) (h.putLine _ _)
  · exact Bounded.ite (Bounded.ite (h.loseLine _) (h.putLine _ _)) h

theorem Bounded.openGap (h : Bounded s) (k n : Nat) : Bounded (s.openGap k n) := Bounded.ite (h.putLine _ _) h

theorem Bounded.setReach (h : Bounded s) (r k : Nat) : Bounded (s.setReach r k) :=
  Bounded.ite (h.setVw (by exact id)) ((h.setVw (by exact id)).foldl _ (fun _ n u => u.openGap k n) _)

theorem Bounded.follow (h : Bounded s) : Bounded s.follow := by
  have chosen : Bounded ((s.setVw { s.vw with followed := s.followChoice }).latch (.followChanged (s.followStation s.followChoice))) :=
    (h.setVw (by exact id)).latch _
  exact Bounded.ite (Bounded.ite h (Bounded.ite (chosen.setReach _ _) chosen)) h

theorem Bounded.makeAsk (h : Bounded s) (a b c : Nat) : Bounded (s.makeAsk a b c) := by
  unfold State.makeAsk
  split
  · exact h.setVw (by exact id)
  · refine h.setVw fun _ => ?_
    simp only [Viewer.Fits, List.length_append, List.length_singleton]
    omega

theorem Bounded.askedAgain (h : Bounded s) (n : Nat) : Bounded (s.askedAgain n) := by
  unfold State.askedAgain
  split
  · exact h.putLine _ _
  · exact h

theorem Bounded.gapExpiry (h : Bounded s) (n : Nat) : Bounded (s.gapExpiry n) := by
  unfold State.gapExpiry
  split
  · refine Bounded.ite ?_ ((h.reachMs _).loseLine _).compose
    exact (((h.reachMs _).foldl _ (fun _ n u => u.askedAgain n) _).makeAsk _ _ _).offered
  · exact h

theorem Bounded.viewerAtGo (h : Bounded s) : Bounded s.viewerAtGo :=
  Bounded.ite ((h.setVw (by exact id)).setSp _) h

/-! ## Transcript Builder -/

theorem Bounded.enterRing (h : Bounded s) (l : CommittedLine) : Bounded (s.enterRing l) := by
  unfold State.enterRing
  split
  · next room =>
    refine h.setTb fun _ => ?_
    simp only [Tb.Fits, List.length_append, List.length_singleton]
    omega
  · next full =>
    have rotated : Bounded (s.setTb { s.tb with ring := s.tb.ring.drop 1 ++ [l] }) := by
      refine h.setTb fun fits => ?_
      simp only [Tb.Fits, List.length_append, List.length_drop, List.length_singleton] at fits ⊢
      omega
    dsimp only
    split
    · exact Bounded.ite (rotated.latch _) rotated
    · exact rotated

theorem Bounded.ownLineToViewer (h : Bounded s) (n : Nat) (b : Bool) (x : List Byte) : Bounded (s.ownLineToViewer n b x) :=
  Bounded.ite (Bounded.ite ((h.storeLine _ _ _ _).setReach _ _) (h.storeLine _ _ _ _)) h

theorem Bounded.reportHorizon (h : Bounded s) (n : Nat) : Bounded (s.reportHorizon n) := h.setTb (by exact id)

theorem Bounded.recordLine (h : Bounded s) (b c : Bool) (x : List Byte) (n : Nat) : Bounded (s.recordLine b c x n) :=
  ((((h.setTb (by exact id)).enterRing _).queueLine _ _ _).reportHorizon _).ownLineToViewer _ _ _

theorem Bounded.jump (h : Bounded s) : Bounded s.jump := Bounded.ite (h.setTb (by exact id)) h

theorem Bounded.breakLine (h : Bounded s) : Bounded s.breakLine := Bounded.ite (h.latch _) (h.recordLine _ _ _ _)

theorem Bounded.jumpBreak (h : Bounded s) : Bounded s.jumpBreak :=
  Bounded.ite (Bounded.ite h.jump.breakLine (h.jump.breakLine.latch _)) h

theorem Bounded.commitText (h : Bounded s) (c : Bool) (x : List Byte) (n : Nat) : Bounded (s.commitText c x n) := by
  unfold State.commitText
  split
  · exact (h.setTb (by exact id)).enterRing _
  · exact Bounded.ite ((h.jumpBreak.setTb (by exact id)).latch _) (h.jumpBreak.recordLine _ _ _ _)

theorem Bounded.notified (h : Bounded t) : Bounded (s.notified t) := Bounded.ite h.buildTail h

theorem Bounded.commitOldest (h : Bounded s) : Bounded s.commitOldest := ((h.setTb (by exact id)).commitText _ _ _).notified

theorem Bounded.commitWhile (p : Region → Bool) (n : Nat) (h : Bounded s) : Bounded (State.commitWhile p n s) := by
  induction n generalizing s with
  | zero => exact h
  | succ n ih => exact Bounded.ite (ih h.commitOldest) h

theorem Bounded.setUnits (h : Bounded s) (us : List TextUnit) : Bounded (s.setUnits us) := (h.setTb (by exact id)).notified

theorem Bounded.commitOver (h : Bounded s) : Bounded s.commitOver := h.commitWhile _ _

theorem Bounded.emitUnit (h : Bounded s) (u : TextUnit) : Bounded (s.emitUnit u) := ((h.commitWhile _ _).setUnits _).commitOver

theorem Bounded.replaceUnits (h : Bounded s) (vs : List Stroke) (x : List Byte) : Bounded (s.replaceUnits vs x) :=
  Bounded.ite (h.setUnits _).commitOver h

theorem Bounded.commitAllLines (h : Bounded s) : Bounded s.commitAllLines := ((h.commitWhile _ _).setTb (by exact id)).notified

theorem Bounded.carryFormat (h : Bounded s) (c : Option (Bool × Bool)) : Bounded (s.carryFormat c) := by
  unfold State.carryFormat
  split
  · exact Bounded.ite (h.setTb (by exact id)) h
  · exact h

theorem Bounded.switchToRecord (h : Bounded s) (n : Nat) (b : Bool) (c : Option (Bool × Bool)) : Bounded (s.switchToRecord n b c) := by
  unfold State.switchToRecord
  split
  · exact h
  · exact (((Bounded.ite (h.setTb (by exact id)).jump.breakLine (h.setTb (by exact id))).setTb (by exact id)).carryFormat _).buildTail

theorem Bounded.switchToDraft (h : Bounded s) : Bounded s.switchToDraft := by
  unfold State.switchToDraft
  split
  · exact h
  · exact h.setTb (by exact id)

/-! ## Custody Unit -/

/-- Behind the first frame of the list that a custody frame leaves, only frames that waited there, of other kinds, are left. -/
theorem dropWaiting_tail (k : CustodyFrameKind) (b : Bool) (l : List CustodyFrame) :
    ((dropWaiting k b l).drop 1).Sublist ((l.drop 1).filter fun y => decide (y.kind ≠ k)) := by
  cases l with
  | nil => exact List.Sublist.refl _
  | cons x rest =>
    simp only [dropWaiting]
    split
    · exact List.Sublist.refl _
    · rw [List.filter_cons]
      split
      · exact List.Sublist.refl _
      · exact List.drop_sublist _ _

theorem waiting_nodup (l : List CustodyFrame) (x : CustodyFrame) (b : Bool)
    (h : ((l.drop 1).map CustodyFrame.kind).Nodup) :
    (((dropWaiting x.kind b l ++ [x]).drop 1).map CustodyFrame.kind).Nodup := by
  have tail := dropWaiting_tail x.kind b l
  have others : (((dropWaiting x.kind b l).drop 1).map CustodyFrame.kind).Nodup :=
    h.sublist ((tail.trans List.filter_sublist).map _)
  have new : x.kind ∉ ((dropWaiting x.kind b l).drop 1).map CustodyFrame.kind := by
    intro hx
    obtain ⟨y, hy, same⟩ := List.mem_map.1 hx
    have differs := (List.mem_filter.1 (tail.subset hy)).2
    exact absurd same (by simpa using differs)
  cases hl : dropWaiting x.kind b l with
  | nil => simp
  | cons y rest =>
    rw [hl] at others new
    simp only [List.drop_succ_cons, List.drop_zero] at others new
    simp only [List.cons_append, List.drop_succ_cons, List.drop_zero, List.map_append, List.map_cons, List.map_nil]
    exact others.append (List.nodup_singleton _) (by simpa using new)

theorem Bounded.handCustody (h : Bounded s) (k : CustodyFrameKind) (f : Frame) : Bounded (s.handCustody k f) :=
  h.setLnc fun ⟨queue, waiting⟩ => ⟨queue, waiting_nodup s.lnc.custodyList { kind := k, frame := f, attempts := 0 } _ waiting⟩

theorem Bounded.refuse (h : Bounded s) (n : Nat) (r : RefuseReason) : Bounded (s.refuse n r) := h.handCustody _ _

theorem Bounded.tellCustody (h : Bounded s) : Bounded s.tellCustody := (h.stationReady.reshare).buildTail

theorem Bounded.setCustody (h : Bounded s) (c : CustodyState) : Bounded (s.setCustody c) := (h.setCu (by exact id)).tellCustody.follow

theorem Bounded.becomeHolder (h : Bounded s) (n : Nat) (b : Bool) (c : Option (Bool × Bool)) (x : ChangeCause) (k : Nat) :
    Bounded (s.becomeHolder n b c x k) := by
  have held := ((h.switchToRecord n b c).setCu (x :=
    { (s.switchToRecord n b c).cu with prior := none, claimAt := none, recordClosed := false, state := .onRecord }) id).tellCustody.latch
      (.custodyChanged x k n)
  exact Bounded.ite (held.latch _) held

theorem Bounded.takeOver (h : Bounded s) : Bounded s.takeOver := (h.becomeHolder _ _ _ _ _).follow

theorem Bounded.endClaim (h : Bounded s) (o : ClaimEnd) (a b : Nat) : Bounded (s.endClaim o a b) :=
  ((h.setCu (by exact id)).setCustody _).latch _

theorem Bounded.flushReport (h : Bounded s) : Bounded s.flushReport := by
  unfold State.flushReport
  split
  · exact h.setCu (by exact id)
  · exact h

theorem Bounded.requestFlush (h : Bounded s) : Bounded s.requestFlush := by
  unfold State.requestFlush
  split
  · exact h.flushReport
  · exact h.setTe (by exact id)
  · exact h.setTe (by exact id)

theorem Bounded.handOverToBest (h : Bounded s) : Bounded s.handOverToBest := by
  unfold State.handOverToBest
  split
  · exact (h.setCu fun _ => Nat.zero_le _).requestFlush
  · exact h

theorem Bounded.completeRelease (h : Bounded s) (n : Nat) : Bounded (s.completeRelease n) :=
  (((((h.handCustody _ _).switchToDraft).setCu (by exact id))).setCustody _).latch _

theorem Bounded.beginClaim (h : Bounded s) : Bounded s.beginClaim := ((h.setCu (by exact id)).handCustody _ _).setCustody _

theorem Bounded.setHold (h : Bounded s) (b : Bool) : Bounded (s.setHold b) := Bounded.ite h (h.setCu (by exact id)).stationReady

theorem Bounded.refuseGathered (h : Bounded s) : Bounded s.refuseGathered := by
  have refused := h.foldl (fun (t : State) (c : Claim) => t.refuse c.station .hold) (fun _ _ k => k.refuse _ _) s.cu.claims
  exact (refused.setCu fun _ => Nat.zero_le _).setCustody _

theorem Bounded.carryOut (h : Bounded s) (q : CustodyRequest) : Bounded (s.carryOut q) := by
  cases q with
  | claim => exact h.beginClaim
  | release => exact Bounded.ite ((h.setCu (by exact id)).setCustody _).requestFlush h.handOverToBest
  | enterShadow => exact h.setCustody _
  | leaveShadow => exact h.setCustody _
  | hold => exact Bounded.ite (h.setHold _).refuseGathered (h.setHold _)
  | unhold => exact h.setHold _

theorem Bounded.takeRequest (h : Bounded s) (q : CustodyRequest) : Bounded (s.takeRequest q) := Bounded.ite (h.carryOut q) h

/-- A claimer joins a list that has room (R157). -/
theorem Bounded.gatherClaim (h : Bounded s) (c : Claim) (room : s.cu.claims.length < 4) : Bounded (s.gatherClaim c) := by
  have joined : Bounded (s.setCu { s.cu with claims := s.cu.claims ++ [c] }) := by
    refine h.setCu fun _ => ?_
    simp only [Cu.Fits, List.length_append, List.length_singleton]
    omega
  exact Bounded.ite ((joined.setCu (by exact id)).setCustody _) joined

theorem Bounded.judgeClaim (h : Bounded s) (c : Claim) : Bounded (s.judgeClaim c) := by
  unfold State.judgeClaim
  refine Bounded.ite (h.refuse _ _) (Bounded.ite (h.refuse _ _) (Bounded.ite (h.setCu fun fits => ?_) ?_))
  · simpa only [Cu.Fits, renewClaim, List.length_map] using fits
  · split
    · exact h
    · next room => exact h.gatherClaim c (by omega)

theorem Bounded.claimAtCu (h : Bounded s) (c : Claim) : Bounded (s.claimAtCu c) := by
  unfold State.claimAtCu
  refine Bounded.ite h ?_
  split
  · exact h.judgeClaim c
  · exact Bounded.ite (h.judgeClaim c) h
  · exact Bounded.ite (h.endClaim _ _ _) h
  · exact h

theorem Bounded.dropClaim (h : Bounded s) (n : Nat) : Bounded (s.dropClaim n) := by
  unfold State.dropClaim
  refine Bounded.ite (Bounded.ite ((h.setCu fun _ => Nat.zero_le _).setCustody _) (h.setCu fun fits => ?_)) h
  exact (List.length_filter_le _ _).trans fits

theorem Bounded.closedByRelease (h : Bounded s) (r : ReleaseBody) : Bounded (s.closedByRelease r) :=
  Bounded.ite (Bounded.ite h (h.setCu (by exact id))) (h.setCu (by exact id))

theorem Bounded.releaseAtCu (h : Bounded s) (r : ReleaseBody) : Bounded (s.releaseAtCu r) := by
  have closed := h.closedByRelease r
  exact Bounded.ite closed (Bounded.ite (Bounded.ite closed (closed.becomeHolder _ _ _ _ _))
    (Bounded.ite (closed.endClaim _ _ _) closed))

theorem Bounded.refuseAtCu (h : Bounded s) (f : RefuseBody) : Bounded (s.refuseAtCu f) := Bounded.ite (h.endClaim _ _ _) h

theorem Bounded.yieldTo (h : Bounded s) (n : Nat) : Bounded (s.yieldTo n) := by
  refine Bounded.latch (Bounded.setCustody (Bounded.setCu h.commitAllLines.switchToDraft fun _ => ?_) _) _
  exact Nat.zero_le _

theorem Bounded.stationAtCu (h : Bounded s) (q : RosterSlot) : Bounded (s.stationAtCu q) := by
  have heard : Bounded (if q.state = .admitted ∧ q.custody = .onRecord then s.setCu { s.cu with recordClosed := false } else s) :=
    Bounded.ite (h.setCu (by exact id)) h
  have listed := Bounded.ite (c := q.custody ≠ .claiming ∨ q.state ≠ .admitted) (heard.dropClaim q.station) heard
  exact Bounded.ite (listed.yieldTo _) listed

theorem Bounded.conflictAtCu (h : Bounded s) : Bounded s.conflictAtCu := by
  have drafted : Bounded (if s.cu.state.holds then (s.commitAllLines).switchToDraft else s) :=
    Bounded.ite h.commitAllLines.switchToDraft h
  unfold State.conflictAtCu
  dsimp only
  have cleared := drafted.setCu (x :=
    { (if s.cu.state.holds then (s.commitAllLines).switchToDraft else s).cu with
      claims := [], settleAt := none, claimAt := none, prior := none, handOver := .none }) fun _ => Nat.zero_le _
  have idle := Bounded.ite (c := s.cu.state = .idle) cleared (cleared.setCustody .idle)
  exact Bounded.ite (idle.latch _) idle

theorem Bounded.commitAll (h : Bounded s) : Bounded s.commitAll := by
  unfold State.commitAll
  refine Bounded.ite (Bounded.offered ?_) h
  split
  · exact (h.setCu (by exact id)).commitAllLines.completeRelease _
  · exact (h.setCu (by exact id)).commitAllLines

theorem Bounded.claimExpiry (h : Bounded s) : Bounded s.claimExpiry := by
  unfold State.claimExpiry
  split
  · exact h
  · refine Bounded.offered ?_
    split
    · exact (h.reachMs _).endClaim _ _ _
    · exact (h.reachMs _).takeOver

/-! ## Line Controller -/

theorem Bounded.lineError (h : Bounded s) (x : LineError) : Bounded (s.lineError x) :=
  Bounded.ite ((h.setLnc (by exact id)).latch _) (h.setLnc (by exact id))

theorem Bounded.enqueueFrame (h : Bounded s) (f : Frame) : Bounded (s.enqueueFrame f) := by
  unfold State.enqueueFrame
  split
  · next room =>
    refine h.setLnc fun ⟨_, waiting⟩ => ⟨?_, waiting⟩
    simp only [List.length_append, List.length_singleton]
    omega
  · exact h.lineError _

theorem Bounded.reportFrame (h : Bounded s) (f : Frame) : Bounded (s.reportFrame f) := by
  unfold State.reportFrame
  split
  · exact h.reportHorizon _
  · exact h

theorem Bounded.finishFrame (h : Bounded s) (a : Assembly) : Bounded (s.finishFrame a) := by
  unfold State.finishFrame
  split
  · exact h
  · exact h.lineError _
  · exact Bounded.ite ((h.reportFrame _).enqueueFrame _) (h.reportFrame _)

theorem Bounded.assemble (h : Bounded s) (heading : Bool) (b : Byte) (ok : Bool) : Bounded (s.assemble heading b ok) := by
  unfold State.assemble
  split
  · exact Bounded.ite (h.setLnc (by exact id)) h
  · exact Bounded.ite ((h.setLnc (by exact id)).finishFrame _) (h.setLnc (by exact id))

theorem Bounded.removeSource (h : Bounded s) (x : Source) : Bounded (s.removeSource x) := by
  cases x with
  | custody =>
    refine h.setLnc fun ⟨queue, waiting⟩ => ⟨queue, waiting.sublist (List.Sublist.map _ ?_)⟩
    exact (List.drop_sublist 1 s.lnc.custodyList).drop 1
  | station => exact h.setPub (by exact id)
  | line =>
    refine h.setPub fun ⟨lines, answers, defines, credit⟩ => ⟨?_, answers, defines, credit⟩
    exact ((List.drop_sublist 1 _).length_le).trans lines
  | define =>
    refine h.setPub fun ⟨lines, answers, defines, credit⟩ => ⟨lines, answers, ?_, credit⟩
    exact ((List.drop_sublist 1 _).length_le).trans defines
  | answer n =>
    refine h.setPub fun ⟨lines, answers, defines, credit⟩ => ⟨lines, ?_, defines, credit⟩
    exact (List.length_filter_le _ _).trans answers
  | ask => exact h.setVw fun asks => ((List.drop_sublist 1 _).length_le).trans asks
  | tail => exact h.setPub (by exact id)

theorem Bounded.dropFrame (h : Bounded s) (x : Source) : Bounded (s.dropFrame x) := ((h.removeSource x).setLnc (by exact id))

theorem Bounded.retryOrDrop (n : Nat) (h : Bounded t) (k : Bounded u) : Bounded (retryOrDrop n t u) := Bounded.ite h k

theorem length_mapHead {α : Type} (f : α → α) (l : List α) : (mapHead f l).length = l.length := by cases l <;> rfl

theorem drop_mapHead {α : Type} (f : α → α) (l : List α) : (mapHead f l).drop 1 = l.drop 1 := by cases l <;> rfl

theorem Bounded.afterAbort (h : Bounded s) (x : Source) : Bounded (s.afterAbort x) := by
  cases x with
  | custody =>
    refine h.setLnc fun ⟨queue, waiting⟩ => ⟨queue, ?_⟩
    rw [drop_mapHead]
    exact waiting
  | station => exact Bounded.retryOrDrop _ (h.setPub (by exact id)) (h.dropFrame _)
  | line =>
    refine Bounded.retryOrDrop _ (h.setPub fun ⟨lines, answers, defines, credit⟩ => ⟨?_, answers, defines, credit⟩) (h.dropFrame _)
    rw [length_mapHead]
    exact lines
  | define =>
    refine Bounded.retryOrDrop _ (h.setPub fun ⟨lines, answers, defines, credit⟩ => ⟨lines, answers, ?_, credit⟩) (h.dropFrame _)
    rw [length_mapHead]
    exact defines
  | answer n =>
    refine Bounded.retryOrDrop _ (h.setPub fun ⟨lines, answers, defines, credit⟩ => ⟨lines, ?_, defines, credit⟩) (h.dropFrame _)
    rw [List.length_map]
    exact answers
  | ask =>
    refine Bounded.retryOrDrop _ (h.setVw fun asks => ?_) (h.dropFrame _)
    rw [Viewer.Fits, length_mapHead]
    exact asks
  | tail =>
    unfold State.afterAbort
    dsimp only
    split
    · exact h
    · exact Bounded.ite (h.removeSource _) (Bounded.retryOrDrop _ (h.setPub (by exact id)) (h.dropFrame _))

theorem Bounded.refundUnsent (h : Bounded s) (x : Source) (a b : Nat) : Bounded (s.refundUnsent x a b) := Bounded.ite (h.refund _) h

theorem Bounded.abortAttempt (h : Bounded s) (x : Source) (a b : Nat) : Bounded (s.abortAttempt x a b) :=
  ((h.setLnc (by exact id)).refundUnsent _ _ _).afterAbort _

theorem Bounded.echo (h : Bounded s) (heading : Bool) (b : Byte) (ok : Bool) : Bounded (s.echo heading b ok) := by
  unfold State.echo
  split
  · exact Bounded.ite (Bounded.ite (h.setLnc (by exact id)) ((h.setLnc (by exact id)).removeSource _)) (h.abortAttempt _ _ _)
  · exact h

theorem Bounded.characterEnd (h : Bounded s) (ok : Bool) : Bounded (s.characterEnd ok) := by
  unfold State.characterEnd
  dsimp only
  split
  · split
    · exact h.setLnc (by exact id)
    · exact ((h.reachChars _).setLnc (by exact id))
  · exact h.setLnc (by exact id)

theorem Bounded.characterReceived (h : Bounded s) (heading : Bool) (b : Byte) (ok : Bool) :
    Bounded (s.characterReceived heading b ok) := by
  have ended := h.characterEnd ok
  have joined := (ended.echo heading b ok).assemble heading b ok
  exact Bounded.ite (Bounded.ite joined joined.choose) ended

theorem Bounded.startBitSeen (h : Bounded s) (a : Bool) : Bounded (s.startBitSeen a) := by
  unfold State.startBitSeen
  split
  · exact h.setLnc (by exact id)
  · exact Bounded.ite h (h.setLnc (by exact id))
  · exact h

theorem Bounded.frameEnd (h : Bounded s) : Bounded s.frameEnd := by
  unfold State.frameEnd
  split
  · exact (((h.advance _).setLnc (by exact id))).finishFrame _
  · exact h

theorem Bounded.guardExpiry (h : Bounded s) : Bounded s.guardExpiry := by
  unfold State.guardExpiry
  split
  · exact h
  · exact ((h.reachChars _).setLnc (by exact id))

theorem Bounded.charge (h : Bounded s) (x : Source) (f : Frame) : Bounded (s.charge x f) := by
  refine Bounded.ite (h.updateCredit.setPub fun ⟨lines, answers, defines, credit⟩ => ⟨lines, answers, defines, ?_⟩) h
  exact (Nat.sub_le _ _).trans credit

theorem Bounded.takeOff (h : Bounded s) (x : Source) : Bounded (s.takeOff x) := by
  cases x
  case station => exact h.setPub (by exact id)
  case tail => exact h.setPub (by exact id)
  all_goals exact h

theorem Bounded.transmitStart (h : Bounded s) : Bounded s.transmitStart := by
  unfold State.transmitStart
  split
  · dsimp only
    refine Bounded.ite ?_ h
    split
    · exact (((((h.advance _).charge _ _).takeOff _).setLnc (by exact id))).choose
    · exact h
  · exact h

/-- No custody frame is left to wait (R121). -/
theorem Lnc.Fits.withdrawn {l : Lnc} (h : l.Fits) (x : Slot) : { l with slot := x, custodyList := [] }.Fits := ⟨h.1, List.nodup_nil⟩

theorem Bounded.conflictAtLnc (h : Bounded s) : Bounded s.conflictAtLnc := by
  unfold State.conflictAtLnc
  split
  · exact h.setLnc (·.withdrawn _)
  · exact ((h.setLnc (by exact id)).refundUnsent _ _ _ |>.removeSource _).setLnc (·.withdrawn _)
  · exact h.setLnc (·.withdrawn _)

theorem Bounded.deliver (k : FrameKind) (take : State → Frame → State) (ht : ∀ t f, Bounded t → Bounded (take t f))
    (h : Bounded s) : Bounded (s.deliver k take) := by
  unfold State.deliver
  split
  · exact h
  · next f rest queued =>
    refine Bounded.ite (ht _ _ (h.setLnc fun ⟨queue, waiting⟩ => ⟨?_, waiting⟩)) h
    rw [queued] at queue
    exact Nat.le_of_succ_le queue

/-! ## Roster and deliveries -/

theorem Bounded.removeSlot (h : Bounded s) (i : Nat) (q : RosterSlot) : Bounded (s.removeSlot i q) :=
  ((h.setSlot _ _).setVw (by exact id)).latch _

theorem Bounded.takeStation (h : Bounded s) (i : Nat) (q : RosterSlot) (b : StationBody) (r : Bool) :
    Bounded (s.takeStation i q b r) := by
  have noted := ((h.setSlot i (some (q.taken b s.pub.signature s.clock.ms (s.after (1000 * s.cfg.lapseTime))))).setVw
    (x := s.vw.setMark i .none) id).rosterEvent q (q.taken b s.pub.signature s.clock.ms (s.after (1000 * s.cfg.lapseTime)))
  exact ((Bounded.ite noted.reshare noted).stationAtCu _).follow

theorem Bounded.stationOfOther (h : Bounded s) (b : StationBody) : Bounded (s.stationOfOther b) := by
  unfold State.stationOfOther
  split
  · split
    · exact h.takeStation _ _ _ _
    · exact h
  · split
    · exact h.takeStation _ _ _ _
    · split
      · split
        · exact (h.removeSlot _ _).takeStation _ _ _ _
        · exact h
      · exact h.frame (frame_setRoster _ _) (by decide)

theorem Bounded.stationConflict (h : Bounded s) : Bounded s.stationConflict := by
  refine Bounded.ite (h.latch _) (Bounded.conflictAtCu (Bounded.setVw ?_ fun _ => Nat.zero_le _))
  exact (((h.latch _).setCu (by exact id)).conflictAtLnc).conflictAtPub

theorem Bounded.stationAtRoster (h : Bounded s) (f : Frame) : Bounded (s.stationAtRoster f) := by
  unfold State.stationAtRoster
  split
  · exact h
  · exact Bounded.ite h.stationConflict (Bounded.ite h (h.stationOfOther _))

theorem Bounded.tellLeft (h : Bounded s) (n : Nat) : Bounded (s.tellLeft n) := ((h.reshare).dropClaim n).follow

theorem Bounded.lapseExpiry (h : Bounded s) (i : Nat) : Bounded (s.lapseExpiry i) := by
  unfold State.lapseExpiry
  split
  · exact h
  · split
    · exact h
    · exact (((((h.reachMs _).setSlot _ _).setVw (by exact id)).latch _).tellLeft _).offered

theorem Bounded.freeExpiry (h : Bounded s) (i : Nat) : Bounded (s.freeExpiry i) := by
  unfold State.freeExpiry
  split
  · exact h
  · split
    · exact h
    · exact (((h.reachMs _).removeSlot _ _).tellLeft _).offered

theorem Bounded.markStation (h : Bounded s) (n : Nat) (m : SlotMark) : Bounded (s.markStation n m) := by
  unfold State.markStation
  split
  · exact h.setVw (by exact id)
  · exact h

theorem Bounded.releaseAtViewer (h : Bounded s) (r : ReleaseBody) : Bounded (s.releaseAtViewer r) := by
  have released := h.markStation r.station .released
  have named := Bounded.ite (c := r.target ≠ 0 ∧ (s.markStation r.station .released).roster.admits r.target = true)
    (released.markStation r.target .named) released
  exact Bounded.ite (Bounded.follow (Bounded.ite (named.setReach _ _) named)) h

theorem Bounded.tailAtViewer (h : Bounded s) (x : TailBody) : Bounded (s.tailAtViewer x) := by
  unfold State.tailAtViewer
  split
  · exact h
  · exact Bounded.ite ((h.setVw (by exact id)).setReach _ _) (h.setVw (by exact id))

theorem Bounded.lineAtViewer (h : Bounded s) (l : LineBody) : Bounded (s.lineAtViewer l) := Bounded.ite (h.storeLine _ _ _ _) h

theorem Bounded.takeBody {α : Type} (h : Bounded s) (b : Option α) (take : State → α → State)
    (ht : ∀ t x, Bounded t → Bounded (take t x)) : Bounded (s.takeBody b take) := by
  unfold State.takeBody
  split
  · exact ht _ _ h
  · exact h

theorem Bounded.deliverStation (h : Bounded s) : Bounded s.deliverStation := h.deliver _ _ fun _ f k => (k.stationAtRoster f).offered

theorem Bounded.deliverClaim (h : Bounded s) : Bounded s.deliverClaim :=
  h.deliver _ _ fun _ _ k => ((k.refreshSlot _).takeBody _ _ fun _ c m => m.claimAtCu c).offered

theorem Bounded.deliverRelease (h : Bounded s) : Bounded s.deliverRelease :=
  h.deliver _ _ fun _ _ k => ((k.refreshSlot _).takeBody _ _ fun _ r m => (m.releaseAtCu r).releaseAtViewer r).offered

theorem Bounded.deliverRefuse (h : Bounded s) : Bounded s.deliverRefuse :=
  h.deliver _ _ fun _ _ k => (k.takeBody _ _ fun _ f m => m.refuseAtCu f).offered

theorem Bounded.deliverAsk (h : Bounded s) : Bounded s.deliverAsk :=
  h.deliver _ _ fun _ _ k => (k.takeBody _ _ fun _ a m => m.takeAsk a).choose

theorem Bounded.deliverTail (h : Bounded s) : Bounded s.deliverTail :=
  h.deliver _ _ fun _ _ k => ((k.refreshSlot _).takeBody _ _ fun _ x m => m.tailAtViewer x).compose

theorem Bounded.deliverLine (h : Bounded s) : Bounded s.deliverLine :=
  h.deliver _ _ fun _ _ k => ((k.refreshSlot _).takeBody _ _ fun _ l m => m.lineAtViewer l).compose

/-! ## Translation Engine -/

theorem Bounded.walkLookup (h : Bounded s) (m : ReqMarks) (o : LookupOut) : Bounded (s.walkLookup m o) := by
  cases o with
  | read a n k => exact (h.setTe (by exact id)).request _ _
  | found k bs =>
    refine Bounded.ite (h.setTe (by exact id)) ?_
    exact (Bounded.ite (c := m.fenceSeen = true) h (h.setCache _)).setTe (by exact id)
  | noEntry k => exact Bounded.ite (h.setTe (by exact id)) (h.setTe (by exact id))
  | fault d => exact Bounded.ite ((h.latch _).setTe (by exact id)) ((h.latch _).setTe (by exact id))

theorem Bounded.treeStep (h : Bounded s) (l x : Nat) : Bounded (s.treeStep l x) := by
  unfold State.treeStep
  split
  · exact (h.setCache _).setTe (by exact id)
  · exact (h.setCache _).walkLookup _ _

theorem Bounded.continuation (h : Bounded s) : Bounded s.continuation :=
  Bounded.ite (Bounded.ite h (Bounded.ite (h.setTe (by exact id)) (h.setTe (by exact id)))) (h.setTe (by exact id))

theorem Bounded.stepAction (h : Bounded s) : Bounded s.stepAction := by
  unfold State.stepAction
  refine Bounded.ite ?_ (h.setTe (by exact id)).continuation
  split
  · exact h.treeStep _ _
  · exact h.setTe (by exact id)

theorem Bounded.undo (h : Bounded s) : Bounded s.undo := by
  unfold State.undo State.undoOpen
  refine Bounded.ite ?_ (h.setTe (by exact id))
  split
  · exact (h.setUnits _).setTe (by exact id)
  · exact h.setTe (by exact id)

theorem Bounded.handleStroke (h : Bounded s) (r : StrokeRecord) : Bounded (s.handleStroke r) :=
  Bounded.ite (h.setTe (by exact id)).undo ((h.setTe (by exact id)).setTe (by exact id))

theorem Bounded.dropWork (h : Bounded s) (r : StrokeRecord) : Bounded (s.dropWork r) :=
  ((h.emitUnit _).setTe (by exact id)).handleStroke r

theorem Bounded.flushIfDone (h : Bounded s) : Bounded s.flushIfDone := Bounded.ite (h.setTe (by exact id)).flushReport h

theorem Bounded.afterUnit (h : Bounded s) (k : Nat) : Bounded (s.afterUnit k) := by
  unfold State.afterUnit
  refine Bounded.flushIfDone ?_
  split
  · exact Bounded.ite ((h.setTe (by exact id)).dropWork _) (h.setTe (by exact id))
  · exact h.setTe (by exact id)

theorem Bounded.emitTranslation (h : Bounded s) (k : Nat) (x : List Byte) : Bounded (s.emitTranslation k x) := by
  have handed : Bounded (s.handMarks x) := h.foldl _ (fun _ q m => m.takeRequest q) _
  exact Bounded.ite ((handed.setTe (by exact id)).afterUnit k) ((handed.emitUnit _).afterUnit k)

theorem Bounded.resolveAction (h : Bounded s) : Bounded s.resolveAction := by
  unfold State.resolveAction
  split
  · exact (h.emitUnit _).afterUnit 1
  · split
    · exact h.emitTranslation _ _
    · exact (h.setTe (by exact id)).request _ _

theorem Bounded.teNext (h : Bounded s) (next : s.teNext = some t) : Bounded t := by
  have rewalk : Bounded s.rewalk := h.setTe (by exact id)
  unfold State.teNext at next
  split at next
  · cases next
  · split at next
    · cases next
    · split at next
      · cases next; exact rewalk
      · split at next
        · cases next
        · cases next; exact h.setTe (by exact id)
    · split at next
      · cases next; exact rewalk
      · cases next; exact h.stepAction
    · split at next
      · cases next; exact rewalk
      · cases next; exact h.resolveAction

theorem Bounded.teActions (n : Nat) (h : Bounded s) : Bounded (State.teActions n s) := by
  induction n generalizing s with
  | zero => exact h
  | succ n ih =>
    unfold State.teActions
    split
    next t acted => exact ih (h.teNext acted)
    next => exact h

theorem Bounded.teRun (h : Bounded s) : Bounded s.teRun := h.teActions 512

theorem Bounded.settled (h : Bounded s) : Bounded ((s.teRun).choose).compose := h.teRun.offered

theorem Bounded.takeStroke (h : Bounded s) : Bounded s.takeStroke := by
  unfold State.takeStroke
  split
  · exact h
  · next r rest queued =>
    refine Bounded.ite (Bounded.settled ?_) h
    have left : Bounded ((s.setSq { s.sq with records := rest }).setTe { s.te with resolveAt := none }) := by
      refine Bounded.setTe (h.setSq fun fits => ?_) id
      rw [StrokeQueue.Fits, queued] at fits
      exact Nat.le_of_succ_le fits
    exact Bounded.ite (Bounded.ite (left.dropWork _) (left.setTe (by exact id))) (left.handleStroke _)

theorem Bounded.walkFetch (h : Bounded s) (r : LayerRef) (k : Nat) (m : ReqMarks) (o : FetchOut) : Bounded (s.walkFetch r k m o) := by
  cases o with
  | more got => exact (h.setTe (by exact id)).request _ _
  | text got => exact Bounded.ite (h.setTe (by exact id)) (h.setTe (by exact id))
  | bad a => exact Bounded.ite ((h.latch _).setTe (by exact id)) ((h.latch _).setTe (by exact id))

theorem Bounded.walkReadEnd (h : Bounded s) : Bounded s.walkReadEnd := by
  unfold State.walkReadEnd
  split
  · exact h
  · refine Bounded.settled ?_
    unfold State.walkData
    split
    · exact (h.endOperation _).walkLookup _ _
    · exact (h.endOperation _).walkFetch _ _ _ _
    · exact h.endOperation _

theorem Bounded.resolveExpiry (h : Bounded s) : Bounded s.resolveExpiry := by
  unfold State.resolveExpiry
  split
  · exact h
  · exact ((h.reachMs _).setTe (by exact id)).settled

theorem Bounded.settleExpiry (h : Bounded s) : Bounded s.settleExpiry := by
  unfold State.settleExpiry
  split
  · exact h
  · exact ((h.reachMs _).setCu (by exact id)).handOverToBest.settled

theorem Bounded.handRetr (h : Bounded s) (x : Handing) : Bounded (s.handRetr x) := by
  unfold State.handRetr
  split
  · refine h.setTe fun _ => ?_
    simp only [Te.Fits, List.length_append, List.length_singleton]
    omega
  · exact h.setTe (by exact id)

theorem Bounded.requestReplacement (h : Bounded s) (vs : List Stroke) (x : List Byte) : Bounded (s.requestReplacement vs x) :=
  Bounded.ite (h.setTe (by exact id)) (h.setTe (by exact id))

theorem Bounded.retrFetchFrom (h : Bounded s) (x : Handing) : Bounded (s.retrFetchFrom x) := (h.setTe (by exact id)).request _ _

theorem Bounded.matchCheck (h : Bounded s) : Bounded s.matchCheck := by
  unfold State.matchCheck
  split
  · next x rest _ queued =>
    have left : Bounded (s.setTe { s.te with handings := rest }) := by
      refine h.setTe fun fits => ?_
      rw [Te.Fits, queued] at fits
      exact Nat.le_of_succ_le fits
    refine Bounded.ite ?_ left
    split
    · exact left.requestReplacement _ _
    · exact left.retrFetchFrom _
  · exact h

theorem Bounded.retrReadEnd (h : Bounded s) : Bounded s.retrReadEnd := by
  unfold State.retrReadEnd
  split
  · exact h
  · have ended := h.endOperation ‹Request›
    unfold State.retrData State.retrFetch
    split
    · split
      · exact (ended.setTe (by exact id)).request _ _
      · exact Bounded.ite (ended.retrFetchFrom _) ((ended.setTe (by exact id)).requestReplacement _ _)
      · exact Bounded.ite ((ended.latch _).retrFetchFrom _) ((ended.latch _).setTe (by exact id))
    · exact ended

theorem Bounded.replacement (h : Bounded s) : Bounded s.replacement := by
  unfold State.replacement
  split
  · exact ((h.setTe (by exact id)).replaceUnits _ _).offered
  · exact h

/-! ## Definition Unit and GO -/

theorem Bounded.leaveService (h : Bounded s) (e : Event) : Bounded (s.leaveService e) := (h.setDu (by exact id)).latch _

theorem Bounded.writeOn (h : Bounded s) (e : DefEntry) (r : TextRef) (todo : List PlannedWrite) : Bounded (s.writeOn e r todo) := by
  unfold State.writeOn
  split
  · exact (h.setDu (by exact id)).request _ _
  · exact h.setDu (by exact id)

theorem Bounded.claimSpace (h : Bounded s) (e : DefEntry) (n m : Nat) (w : Alloc → List PlannedWrite) :
    Bounded (s.claimSpace e n m w) := by
  unfold State.claimSpace
  split
  · exact Bounded.ite ((h.setDu (by exact id)).writeOn _ _ _) (h.leaveService _)
  · exact h.leaveService _

theorem Bounded.planEnds (h : Bounded s) (e : DefEntry) (p : List PlanStep) (k : Option Lookup) : Bounded (s.planEnds e p k) := by
  unfold State.planEnds
  split
  · unfold State.planDefine
    dsimp only
    split
    · exact h.claimSpace _ _ _ _
    · exact Bounded.ite (Bounded.ite (h.claimSpace _ _ _ _) (h.leaveService _)) (h.claimSpace _ _ _ _)
    · exact h.leaveService _
  · unfold State.planForget
    split
    · exact Bounded.ite (h.writeOn _ _ _) (h.leaveService _)
    · exact h.leaveService _

theorem Bounded.planFault (h : Bounded s) (e : DefEntry) (d : Damage) : Bounded (s.planFault e d) := (h.latch _).leaveService _

theorem Bounded.planStart (h : Bounded s) (e : DefEntry) (p : List PlanStep) (n : Nat) : Bounded (s.planStart e p n) := by
  unfold State.planStart
  split
  · exact (h.setDu (by exact id)).request _ _
  · exact h.planFault _ _
  · exact h

theorem Bounded.planLookup (h : Bounded s) (e : DefEntry) (p : List PlanStep) (o : LookupOut) : Bounded (s.planLookup e p o) := by
  cases o with
  | read a n k => exact (h.setDu (by exact id)).request _ _
  | noEntry k => exact h.planEnds _ _ _
  | found k bs => exact Bounded.ite (h.planStart _ _ _) (h.planEnds _ _ _)
  | fault d => exact h.planFault _ _

theorem Bounded.duServiceStart (h : Bounded s) : Bounded s.duServiceStart := by
  unfold State.duServiceStart
  split
  · next e rest _ queued =>
    refine Bounded.planStart (h.setDu fun fits => ?_) _ _ _
    rw [Du.Fits, queued] at fits
    exact Nat.le_of_succ_le fits
  · exact h

theorem handings_raised (t : Te) : t.raised.handings = t.handings := by
  unfold Te.raised
  split <;> rfl

theorem Bounded.raiseGeneration (h : Bounded s) : Bounded s.raiseGeneration := by
  refine Bounded.setTe (h.setDu (by exact id)) fun fits => ?_
  rw [Te.Fits, handings_raised]
  exact fits

theorem Bounded.fence (h : Bounded s) (f : FenceScope) : Bounded (s.fence f) := Bounded.ite h ((h.setCache _).setTe (by exact id))

theorem Bounded.finishEntry (h : Bounded s) (e : DefEntry) (r : TextRef) : Bounded (s.finishEntry e r) := by
  unfold State.finishEntry
  dsimp only
  split
  · exact h.raiseGeneration.leaveService _
  · have told := (h.raiseGeneration.handRetr { strokes := e.strokes, ref := r }).leaveService (e.event .done .applied)
    exact Bounded.ite (told.sendDefinition _ _) told

theorem Bounded.fenceComplete (h : Bounded s) : Bounded s.fenceComplete := by
  unfold State.fenceComplete
  split
  · next e ref v rest _ =>
    obtain ⟨_, _, du, _⟩ := (bounded_iff s).1 h
    have fenced : Bounded ((s.fence (.strokeLayer v 0)).setDu { s.du with work := .finish e ref rest }) :=
      (h.fence _).setDu fun _ => du
    exact Bounded.ite (fenced.finishEntry _ _).settled fenced
  · exact h

theorem Bounded.goFails (h : Bounded s) (r : GoReason) : Bounded (s.goFails r) := (h.setDu (by exact id)).reply _ _

theorem Bounded.setLcp (h : Bounded s) (x : Lcp) : Bounded (s.setLcp x) := h.frame (frame_setLcp _ _) (by decide)

theorem Bounded.setRoster (h : Bounded s) (x : Roster) : Bounded (s.setRoster x) := h.frame (frame_setRoster _ _) (by decide)

theorem Bounded.goComplete (h : Bounded s) : Bounded s.goComplete := by
  unfold State.goComplete
  dsimp only
  refine Bounded.choose (Bounded.reply (Bounded.viewerAtGo (Bounded.publisherAtGo (Bounded.setRoster ?_ _))) _ _)
  refine Bounded.setCu (Bounded.setLnc (Bounded.setTb (Bounded.setKcu (Bounded.setCache ?_ _) _) (by exact id)) (by exact id)) ?_
  · exact (h.setDu (by exact id)).setLcp _
  · exact fun _ => Nat.zero_le _

theorem Bounded.goCountsOn (h : Bounded s) (todo : List PlannedWrite) : Bounded (s.goCountsOn todo) := by
  unfold State.goCountsOn
  split
  · exact (h.setDu (by exact id)).request _ _
  · exact h.goComplete

theorem Bounded.scanOut (h : Bounded s) (o : ScanOut) : Bounded (s.scanOut o) := by
  cases o with
  | read a n sc => exact (h.setDu (by exact id)).request _ _
  | fault d => exact (h.latch _).goFails _
  | done sc => exact (h.setDu (by exact id)).goCountsOn _

theorem Bounded.goDirectory (h : Bounded s) (got : List Byte) : Bounded (s.goDirectory got) :=
  Bounded.ite ((h.setDu (by exact id)).request _ _) (Bounded.ite (h.goFails _) (Bounded.ite (h.goFails _)
    ((h.setDu (by exact id)).scanOut _)))

theorem Bounded.defOperationEnd (h : Bounded s) : Bounded s.defOperationEnd := by
  unfold State.defOperationEnd
  split
  · exact h
  · have ended := h.endOperation ‹Request›
    unfold State.duData
    split
    · exact ended.planLookup _ _ _
    · exact (ended.setDu (by exact id)).writeOn _ _ _
    · exact ended.goDirectory _
    · exact ended.scanOut _
    · exact ended.goCountsOn _
    · exact ended

theorem Bounded.defineAtDu (h : Bounded s) (f : Frame) : Bounded (s.defineAtDu f) := by
  have lost : Bounded s.countReceivedLost := h.setDu (by exact id)
  unfold State.defineAtDu
  refine Bounded.ite ?_ h
  split
  · exact h
  · split
    · refine Bounded.ite ?_ h
      unfold State.offerDefine
      refine Bounded.ite h ?_
      split
      · exact lost
      · split
        · refine Bounded.setSlot (h.setDu fun _ => ?_) _ _
          simp only [Du.Fits, List.length_append, List.length_singleton]
          omega
        · exact lost
    · exact h

theorem Bounded.deliverDefine (h : Bounded s) : Bounded s.deliverDefine := h.deliver _ _ fun _ f k => (k.refreshSlot _).defineAtDu f

/-! ## Host commands -/

theorem Bounded.checked {α : Type} (h : Bounded s) (p : Option α) (run : State → α → State) (hr : ∀ x, Bounded (run s x)) :
    Bounded (s.checked p run) := by
  unfold State.checked
  split
  · exact hr _
  · exact h.reply _ _

/-- A command transaction keeps the bounds where its running does. -/
theorem Bounded.takeCommand (h : Bounded s) (code : Byte) (ps : List Byte) (run : State → State)
    (hr : ∀ t, Bounded t → Bounded (run t)) : Bounded (s.takeCommand code ps run) := by
  have taken : Bounded (s.taking code ps) := h.frame (frame_taking _ _ _) (by decide)
  exact Bounded.ite (h.frame (frame_give _ _) (by decide))
    (Bounded.ite (taken.reply _ _) (Bounded.ite (hr _ taken) (taken.reply _ _)))

theorem Bounded.go (h : Bounded s) (ps : List Byte) : Bounded (s.go ps) := by
  refine h.takeCommand _ _ _ fun t k => k.checked _ _ fun _ => ?_
  unfold State.goTaken
  split
  · exact k.reply _ _
  · exact k.goDirectory _

/-- A RESTART empties every bounded queue and list but the Notes Log (R17, R192). -/
theorem Bounded.restarted (h : Bounded s) : Bounded s.restarted := by
  obtain ⟨_, notes, _⟩ := (bounded_iff s).1 h
  refine Bounded.reply (Bounded.setLcp ((bounded_iff _).2 ?_) _) _ _
  exact ⟨Nat.zero_le _, notes, Nat.zero_le _, Nat.zero_le _, Nat.zero_le _, ⟨Nat.zero_le _, List.nodup_nil⟩,
    ⟨Nat.zero_le _, Nat.zero_le _, Nat.zero_le _, Nat.zero_le _⟩, Nat.zero_le _, Nat.zero_le _⟩

theorem Bounded.restart (h : Bounded s) (ps : List Byte) : Bounded (s.restart ps) :=
  h.takeCommand _ _ _ fun _ k => k.checked _ _ fun _ => k.restarted

/-- A full reset empties every bounded queue and list (R16). -/
theorem bounded_fullReset (s : State) (src : ResetSource) : Bounded (s.fullReset src) :=
  (bounded_iff _).2 ⟨Nat.zero_le _, ⟨Nat.zero_le _, Nat.le_refl _⟩, Nat.zero_le _, Nat.zero_le _, Nat.zero_le _,
    ⟨Nat.zero_le _, List.nodup_nil⟩, ⟨Nat.zero_le _, Nat.zero_le _, Nat.zero_le _, Nat.zero_le _⟩, Nat.zero_le _, Nat.zero_le _⟩

theorem Bounded.queueEntry (h : Bounded s) (e : DefEntry) : Bounded (s.queueEntry e) := by
  unfold State.queueEntry
  split
  · refine Bounded.reply (h.setDu fun _ => ?_) _ _
    simp only [Du.Fits, List.length_append, List.length_singleton]
    omega
  · exact h.reply _ _

theorem Bounded.hostDefine (h : Bounded s) (ps : List Byte) : Bounded (s.hostDefine ps) :=
  h.takeCommand _ _ _ fun _ k => k.checked _ _ fun _ => k.queueEntry _

theorem Bounded.hostForget (h : Bounded s) (ps : List Byte) : Bounded (s.hostForget ps) :=
  h.takeCommand _ _ _ fun _ k => k.checked _ _ fun _ => k.queueEntry _

theorem Bounded.flushCache (h : Bounded s) (b : Byte) (rs : List Byte) (f : Option FenceScope) : Bounded (s.flushCache b rs f) :=
  h.takeCommand _ _ _ fun _ k => k.checked _ _ fun f =>
    Bounded.ite (k.reply _ _) (((k.fence f).raiseGeneration.reply _ _).settled)

theorem Bounded.custody (h : Bounded s) (b : Byte) (rs : List Byte) (q : CustodyRequest) : Bounded (s.custody b rs q) := by
  refine h.takeCommand _ _ _ fun t k => k.checked _ _ fun _ => ?_
  have flushed : Bounded ((t.takeRequest q).flushFor q) := by
    unfold State.flushFor
    split
    · exact (k.takeRequest _).teRun
    · exact k.takeRequest _
  unfold State.hostRequest
  exact Bounded.ite (flushed.reply _ _).offered (k.reply _ _)

theorem Bounded.paneCommand (h : Bounded s) (ps : List Byte) : Bounded (s.paneCommand ps) := by
  refine h.takeCommand _ _ _ fun t k => k.checked _ _ fun p => ?_
  have set : Bounded (t.setVw (if p.1 then { t.vw with paneB := Pane.change t.vw.paneB p.2.1 p.2.2.1 p.2.2.2 }
      else { t.vw with paneA := Pane.change t.vw.paneA p.2.1 p.2.2.1 p.2.2.2 })) := by
    refine k.setVw fun fits => ?_
    split <;> exact fits
  exact ((set.setVw (by exact id)).compose).reply _ _

/-- READ_NOTES leaves at most the entries that waited before it (R14). -/
theorem Bounded.readNotes (h : Bounded s) (b : Byte) (rs : List Byte) (auto : Bool) : Bounded (s.readNotes b rs auto) := by
  refine h.takeCommand _ _ _ fun t k => k.checked _ _ fun n => ?_
  have moved : Bounded (if auto then
      t.setNotes { t.notes with unexported := t.notes.unexported - (t.notes.waiting.take n).length } else t) :=
    Bounded.ite (k.setNotes fun ⟨size, unexported⟩ => ⟨size, (Nat.sub_le _ _).trans unexported⟩) k
  exact moved.reply _ _

theorem Bounded.readStatus (h : Bounded s) (ps : List Byte) : Bounded (s.readStatus ps) :=
  h.takeCommand _ _ _ fun _ k => k.checked _ _ fun _ => ((k.updateCredit).reply _ _).choose

/-! ## Every command -/

/-- Every command, in a state within the bounds, ends in one within the bounds. -/
theorem exec_bounded (c : Instr) (s : State) (h : Bounded s) : ∃ t, exec c s = .next t ∧ Bounded t := by
  cases c with
  | fullReset src => exact ⟨_, rfl, bounded_fullReset s src⟩
  | rawLevelChange n down => exact ⟨_, rfl, h.frame (frame_rawLevelChange _ _ _) (by decide)⟩
  | settlingTimerExpiry n => exact ⟨_, rfl, h.settlingExpiry n⟩
  | stuckTimerExpiry n => exact ⟨_, rfl, h.stuckExpiry n⟩
  | takeStroke => exact ⟨_, rfl, h.takeStroke⟩
  | walkReadEnd => exact ⟨_, rfl, h.walkReadEnd⟩
  | resolveTimerExpiry => exact ⟨_, rfl, h.resolveExpiry⟩
  | retrReadEnd => exact ⟨_, rfl, h.retrReadEnd⟩
  | matchCheck => exact ⟨_, rfl, h.matchCheck⟩
  | replacement => exact ⟨_, rfl, h.replacement⟩
  | duServiceStart => exact ⟨_, rfl, h.duServiceStart⟩
  | defOperationEnd => exact ⟨_, rfl, h.defOperationEnd⟩
  | exportOperationEnd => exact ⟨_, rfl, h.frame (frame_exportOperationEnd _) (by decide)⟩
  | characterReceived heading b ok => exact ⟨_, rfl, h.characterReceived heading b ok⟩
  | frameEndBySilence => exact ⟨_, rfl, h.frameEnd⟩
  | turnaroundGuardExpiry => exact ⟨_, rfl, h.guardExpiry⟩
  | transmitStart => exact ⟨_, rfl, h.transmitStart⟩
  | creditReach => exact ⟨_, rfl, h.creditReach⟩
  | deliverStation => exact ⟨_, rfl, h.deliverStation⟩
  | deliverClaim => exact ⟨_, rfl, h.deliverClaim⟩
  | deliverRelease => exact ⟨_, rfl, h.deliverRelease⟩
  | deliverRefuse => exact ⟨_, rfl, h.deliverRefuse⟩
  | deliverDefine => exact ⟨_, rfl, h.deliverDefine⟩
  | deliverAsk => exact ⟨_, rfl, h.deliverAsk⟩
  | deliverTail => exact ⟨_, rfl, h.deliverTail⟩
  | deliverLine => exact ⟨_, rfl, h.deliverLine⟩
  | beaconTimerExpiry => exact ⟨_, rfl, h.beaconExpiry⟩
  | refreshTimerExpiry => exact ⟨_, rfl, h.refreshExpiry⟩
  | lapseTimerExpiry i => exact ⟨_, rfl, h.lapseExpiry i⟩
  | freeTimerExpiry i => exact ⟨_, rfl, h.freeExpiry i⟩
  | claimTimerExpiry => exact ⟨_, rfl, h.claimExpiry⟩
  | settleTimerExpiry => exact ⟨_, rfl, h.settleExpiry⟩
  | commitAll => exact ⟨_, rfl, h.commitAll⟩
  | gapTimerExpiry n => exact ⟨_, rfl, h.gapExpiry n⟩
  | rowSendStart => exact ⟨_, rfl, h.frame (frame_rowSendStart _) (by decide)⟩
  | busyChange high => exact ⟨_, rfl, h.frame (frame_busyChange _ _) (by decide)⟩
  | rowSendComplete => exact ⟨_, rfl, h.frame (frame_rowSendComplete _) (by decide)⟩
  | commandTakeBusy code ps => exact ⟨_, rfl, h.frame (frame_commandTakeBusy _) (by decide)⟩
  | responseRead clocked => exact ⟨_, rfl, h.frame (frame_responseRead _ _) (by decide)⟩
  | unknownCommand code ps => exact ⟨_, rfl, h.frame (frame_unknownCommand _ _ _) (by decide)⟩
  | configure ps => exact ⟨_, rfl, h.frame (frame_configure _ _) (by decide)⟩
  | load ps => exact ⟨_, rfl, h.frame (frame_load _ _) (by decide)⟩
  | readDict ps => exact ⟨_, rfl, h.frame (frame_readDict _ _) (by decide)⟩
  | go ps => exact ⟨_, rfl, h.go ps⟩
  | restart ps => exact ⟨_, rfl, h.restart ps⟩
  | define ps => exact ⟨_, rfl, h.hostDefine ps⟩
  | forget ps => exact ⟨_, rfl, h.hostForget ps⟩
  | flushCacheAll rs => exact ⟨_, rfl, h.flushCache 0 rs _⟩
  | flushCacheLayer rs => exact ⟨_, rfl, h.flushCache 1 rs _⟩
  | flushCacheStroke rs => exact ⟨_, rfl, h.flushCache 2 rs _⟩
  | flushCacheStrokeLayer rs => exact ⟨_, rfl, h.flushCache 3 rs _⟩
  | custodyClaim rs => exact ⟨_, rfl, h.custody 0 rs _⟩
  | custodyRelease rs => exact ⟨_, rfl, h.custody 1 rs _⟩
  | custodyEnterShadow rs => exact ⟨_, rfl, h.custody 2 rs _⟩
  | custodyLeaveShadow rs => exact ⟨_, rfl, h.custody 3 rs _⟩
  | custodyHold rs => exact ⟨_, rfl, h.custody 4 rs _⟩
  | custodyUnhold rs => exact ⟨_, rfl, h.custody 5 rs _⟩
  | pane ps => exact ⟨_, rfl, h.paneCommand ps⟩
  | readLinesAuto rs => exact ⟨_, rfl, h.frame (frame_readLines _ _ _ _) (by decide)⟩
  | readLinesPeek rs => exact ⟨_, rfl, h.frame (frame_readLines _ _ _ _) (by decide)⟩
  | readNotesAuto rs => exact ⟨_, rfl, h.readNotes 0 rs true⟩
  | readNotesPeek rs => exact ⟨_, rfl, h.readNotes 1 rs false⟩
  | readStatus ps => exact ⟨_, rfl, h.readStatus ps⟩
  | readRoster ps => exact ⟨_, rfl, h.frame (frame_readRoster _ _) (by decide)⟩
  | readEvent ps => exact ⟨_, rfl, h.frame (frame_readEvent _ _) (by decide)⟩
  | setMask ps => exact ⟨_, rfl, h.frame (frame_setMask _ _) (by decide)⟩
  | fenceComplete => exact ⟨_, rfl, h.fenceComplete⟩
  | startBitSeen atStart => exact ⟨_, rfl, h.startBitSeen atStart⟩
  | shortCommandTransaction sent => exact ⟨_, rfl, h.frame (frame_shortCommand _ _) (by decide)⟩

end Sys2Proof.Machine

/-- Settles O7: an idle step is one character time, any other runs the front command. -/
theorem boundsAreKept : Obligations.BoundsAreKept := by
  unfold Obligations.BoundsAreKept
  intro s t h stepped
  unfold Sys2Proof.Machine.step at stepped
  split at stepped
  · cases stepped
    exact h.advance 1
  · next c rest _ =>
    obtain ⟨u, ran, bounded⟩ := Sys2Proof.Machine.exec_bounded c (s.setPending rest) h
    cases ran.symm.trans stepped
    exact bounded
end

section
/-! SUPPORT. Stroke capture: contacts, the chord's close, and a stroke record handed on; with them O18 to O22. -/

namespace Sys2Proof.Machine

/-! ## Contacts -/

theorem contactOk_iff (n : Nat) : Sys2Proof.contactOk n = true ↔ 1 ≤ n ∧ n ≤ 28 := by simp [Sys2Proof.contactOk]

theorem contact_setContact_same (k : Kcu) (n : Nat) (c : Contact) (hn : Sys2Proof.contactOk n = true) :
    (k.setContact n c).contact n = some c := by
  obtain ⟨low, high⟩ := (contactOk_iff n).1 hn
  simp only [Kcu.contact, Kcu.setContact, if_neg (by omega : n ≠ 0)]
  rw [Vector.getElem?_setIfInBounds, if_pos rfl, if_pos (by omega)]

theorem contact_setContact_other (k : Kcu) {n m : Nat} (c : Contact) (hn : Sys2Proof.contactOk n = true) (hm : m ≠ n) :
    (k.setContact n c).contact m = k.contact m := by
  obtain ⟨low, _⟩ := (contactOk_iff n).1 hn
  unfold Kcu.contact
  split
  · rfl
  · exact Vector.getElem?_setIfInBounds_ne (by omega)

@[simp] theorem keyOf_setContact (k : Kcu) (n m : Nat) (c : Contact) : (k.setContact n c).keyOf m = k.keyOf m := rfl

theorem liveAs_iff (key : Nat) (c : Contact) : liveAs key c = true ↔ key ≠ 0 ∧ c.acceptedDown = true ∧ c.mark = .none := by
  simp [liveAs, and_assoc]

theorem live_of_contact {k : Kcu} {n : Nat} {c : Contact} (h : k.contact n = some c) : k.live n = liveAs (k.keyOf n) c := by
  simp only [Kcu.live, h]

theorem live_setContact_other (k : Kcu) {n m : Nat} (c : Contact) (hn : Sys2Proof.contactOk n = true) (hm : m ≠ n) :
    (k.setContact n c).live m = k.live m := by
  simp only [Kcu.live, contact_setContact_other k c hn hm, keyOf_setContact]

theorem anyLive_iff (k : Kcu) : k.anyLive = true ↔ ∃ m, 1 ≤ m ∧ m ≤ 28 ∧ k.live m = true := by
  simp only [Kcu.anyLive, List.any_eq_true, List.mem_range'_1]
  constructor
  · rintro ⟨m, ⟨low, high⟩, live⟩
    exact ⟨m, low, by omega, live⟩
  · rintro ⟨m, low, high, live⟩
    exact ⟨m, ⟨low, by omega⟩, live⟩

/-- Where contact `n` becomes one that is not live, the contacts left live are the others. -/
theorem anyLive_setContact (k : Kcu) {n : Nat} (c : Contact) (hn : Sys2Proof.contactOk n = true) (hc : liveAs (k.keyOf n) c = false) :
    (k.setContact n c).anyLive = true ↔ ∃ m, 1 ≤ m ∧ m ≤ 28 ∧ m ≠ n ∧ k.live m = true := by
  rw [anyLive_iff]
  refine exists_congr fun m => and_congr_right fun _ => and_congr_right fun _ => ?_
  by_cases hm : m = n
  · subst hm
    rw [live_of_contact (contact_setContact_same k m c hn), keyOf_setContact, hc]
    simp
  · rw [live_setContact_other k c hn hm]
    simp [hm]

/-! ## A stroke record handed on (R9 to R13) -/

@[simp] theorem logStroke_sq (s : State) (r : StrokeRecord) : (s.logStroke r).sq = s.sq := (frame_logStroke s r).sq (by decide)

@[simp] theorem logStroke_notes (s : State) (r : StrokeRecord) : (s.logStroke r).notes = s.notes.take r := by
  unfold State.logStroke
  split
  · split <;> simp
  · simp

@[simp] theorem handOn_kcu (s : State) (r : StrokeRecord) : (s.handOn r).kcu = s.kcu := (frame_handOn s r).kcu (by decide)

@[simp] theorem handOn_sq (s : State) (r : StrokeRecord) : (s.handOn r).sq = s.sq.take r := by simp [State.handOn]

@[simp] theorem handOn_notes (s : State) (r : StrokeRecord) : (s.handOn r).notes = s.notes.take (s.sq.noteCopy r) := by
  simp [State.handOn]

theorem hasRoom_iff (n : NotesLog) : n.hasRoom = true ↔ n.entries.length < 8192 ∨ n.unexported < 8192 := by simp [NotesLog.hasRoom]

/-- The latches of a copy that finds a place in the log: NOTES_NEAR at the 7,168th unexported entry, or none (R13). -/
theorem logStroke_lcp_of_room (s : State) (r : StrokeRecord) (h : s.notes.hasRoom = true) :
    (s.logStroke r).lcp = if s.notes.unexported = 7167 then s.lcp.latched (.notesNear 7168) else s.lcp := by
  unfold State.logStroke
  rw [if_pos h]
  split <;> rfl

/-- The latches of a copy that finds no place: NOTES_FULL (R12). -/
theorem logStroke_lcp_of_full (s : State) (r : StrokeRecord) (h : s.notes.hasRoom = false) :
    (s.logStroke r).lcp = s.lcp.latched (.notesFull r.number) := by
  unfold State.logStroke
  rw [if_neg (by simp [h])]
  rfl

@[simp] theorem noteCopy_number (q : StrokeQueue) (r : StrokeRecord) : (q.noteCopy r).number = r.number := by
  unfold StrokeQueue.noteCopy
  split <;> rfl

/-- A port that is another but for one event latched: that latch has taken the event. -/
theorem latched_of_lcp {s t : State} {e : Event} (h : t.lcp = s.lcp.latched e) : Latched s t e.priority e := by
  have k := latched_latch s e
  simp only [Latched, State.latch, State.setLcp_lcp] at k ⊢
  rw [h, k]

theorem latch_of_lcp {s t : State} {e : Event} {p : Nat} (h : t.lcp = s.lcp.latched e) (low : 1 ≤ p) (other : p ∉ [e.priority]) :
    t.lcp.latch p = s.lcp.latch p := by
  rw [h]
  exact latches_latch s e p low other

/-! ## The chord's close (R5, R6) -/

/-- The chord `ch` of `u` is closed in `t` at the reading `now`: a graze is counted, or a numbered stroke is handed on (R6, R9). -/
def ChordClosed (u t : State) (ch : Chord) (now : Ms) : Prop :=
  t.kcu.chord = none
  ∧ ((now - ch.openTime).toNat < u.kcu.graze →
      t.kcu.grazes = satSucc u.kcu.grazes ∧ t.kcu.nextStroke = u.kcu.nextStroke ∧ t.kcu.exhausted = u.kcu.exhausted
      ∧ t.sq = u.sq ∧ t.notes = u.notes ∧ t.lcp = u.lcp)
  ∧ (u.kcu.graze ≤ (now - ch.openTime).toNat → ∃ r : StrokeRecord,
      r = { number := u.kcu.nextStroke, value := ch.keys, openTime := ch.openTime, closeTime := now,
            notTranslated := false, afterDrop := false }
      ∧ t.kcu.grazes = u.kcu.grazes ∧ t.sq = u.sq.take r ∧ t.notes = u.notes.take (u.sq.noteCopy r)
      ∧ (u.kcu.nextStroke < 4294967295 → t.kcu.nextStroke = u.kcu.nextStroke + 1 ∧ t.kcu.exhausted = u.kcu.exhausted)
      ∧ (4294967295 ≤ u.kcu.nextStroke → t.kcu.nextStroke = u.kcu.nextStroke ∧ t.kcu.exhausted = true))

theorem closeChord_closed (u : State) (ch : Chord) (now : Ms) : ChordClosed u (u.closeChord ch now) ch now := by
  unfold State.closeChord
  split
  · next brief => exact ⟨rfl, fun _ => ⟨rfl, rfl, rfl, rfl, rfl, rfl⟩, fun long => absurd brief (by omega)⟩
  · next long =>
    refine ⟨by simp, fun brief => absurd brief long, fun _ => ⟨_, rfl, ?_, by simp, by simp, fun more => ?_, fun last => ?_⟩⟩
    · simp only [handOn_kcu, State.setKcu_kcu, Kcu.giveNumber]
      split <;> rfl
    · simp [Kcu.giveNumber, more]
    · simp [Kcu.giveNumber, Nat.not_lt.2 last]

/-- The chord closes where no contact is live. -/
theorem closeIfNoneLive_closed {u : State} {ch : Chord} (now : Ms) (hc : u.kcu.chord = some ch) (hl : u.kcu.anyLive = false) :
    ChordClosed u (u.closeIfNoneLive now) ch now := by
  have closes : u.closeIfNoneLive now = u.closeChord ch now := by simp [State.closeIfNoneLive, hc, hl]
  rw [closes]
  exact closeChord_closed u ch now

/-- With no chord open, or a contact live, nothing changes. -/
theorem closeIfNoneLive_stays {u : State} (now : Ms) (h : u.kcu.chord = none ∨ u.kcu.anyLive = true) : u.closeIfNoneLive now = u := by
  unfold State.closeIfNoneLive
  split
  · next ch hc => exact if_pos (h.resolve_left (by simp [hc]))
  · rfl

/-- The Key Capture Unit but for its contacts and its chord with what a close counts. -/
def SameButChord (k j : Kcu) : Prop :=
  j = { k with contacts := j.contacts, chord := j.chord, nextStroke := j.nextStroke, exhausted := j.exhausted, grazes := j.grazes }

theorem giveNumber_same (k : Kcu) : SameButChord k { k.giveNumber with chord := none } ∧ k.giveNumber.contacts = k.contacts := by
  unfold Kcu.giveNumber
  split <;> exact ⟨rfl, rfl⟩

/-- A close leaves the contacts, the key map and the times alone. -/
theorem closeIfNoneLive_kcu (u : State) (now : Ms) :
    SameButChord u.kcu (u.closeIfNoneLive now).kcu ∧ (u.closeIfNoneLive now).kcu.contacts = u.kcu.contacts := by
  obtain ⟨numbered, contacts⟩ := giveNumber_same u.kcu
  unfold State.closeIfNoneLive
  split
  · split
    · exact ⟨rfl, rfl⟩
    · unfold State.closeChord
      split
      · exact ⟨rfl, rfl⟩
      · simp only [handOn_kcu, State.setKcu_kcu]
        exact ⟨numbered, contacts⟩
  · exact ⟨rfl, rfl⟩

/-! ## The commands -/

/-- RAW_LEVEL_CHANGE of a contact whose pin takes another level (R2). -/
theorem rawLevelChange_of_other {s : State} {n : Nat} {c : Contact} (down : Bool) (h : s.kcu.contact n = some c) (hd : c.rawDown ≠ down) :
    s.rawLevelChange n down = s.setKcu (s.kcu.setContact n
      { c with rawDown := down, settleAt := if down = c.acceptedDown then none else some (s.after s.kcu.debounce) }) := by
  simp [State.rawLevelChange, h, hd]

theorem rawLevelChange_of_same {s : State} {n : Nat} {c : Contact} {down : Bool} (h : s.kcu.contact n = some c) (hd : c.rawDown = down) :
    s.rawLevelChange n down = s := by
  simp [State.rawLevelChange, h, hd]

theorem settlingExpiry_eq {s : State} {n : Nat} {c : Contact} {e : Ms} (h : s.kcu.contact n = some c) (he : c.settleAt = some e) :
    s.settlingExpiry n = if c.rawDown then (s.reachMs e).acceptedDown n c else (s.reachMs e).acceptedUp n c := by
  simp [State.settlingExpiry, h, he]

/-- The contact after an accepted down (R2, R7). -/
def Contact.afterDown (c : Contact) (s : State) (n : Nat) : Contact :=
  { c with acceptedDown := true, settleAt := none,
           stuckAt := if s.kcu.keyOf n = 0 then none else some (s.after (1000 * s.kcu.stuckLimit)) }

/-- The chord after an accepted down of contact `n` (R4, R5). -/
def State.chordAfterDown (s : State) (n : Nat) (c : Contact) : Option Chord :=
  if s.kcu.keyOf n = 0 ∨ c.mark ≠ .none then s.kcu.chord
  else match s.kcu.chord with
    | some ch => some { ch with keys := ch.keys ||| keyBit (s.kcu.keyOf n) }
    | none => if s.mayOpen then some { keys := keyBit (s.kcu.keyOf n), openTime := s.clock.ms } else none

theorem chordDown_joins {s : State} {ch : Chord} (key : Nat) (now : Ms) (h : s.kcu.chord = some ch) :
    s.chordDown key now = s.setKcu { s.kcu with chord := some { ch with keys := ch.keys ||| keyBit key } } := by
  simp [State.chordDown, h]

theorem chordDown_opens {s : State} (key : Nat) (now : Ms) (h : s.kcu.chord = none) (may : s.mayOpen = true) :
    s.chordDown key now = s.setKcu { s.kcu with chord := some { keys := keyBit key, openTime := now } } := by
  simp [State.chordDown, h, may]

theorem chordDown_stays {s : State} (key : Nat) (now : Ms) (h : s.kcu.chord = none) (may : s.mayOpen = false) :
    s.chordDown key now = s := by
  simp [State.chordDown, h, may]

/-- An accepted down changes the contact and the chord, and nothing else (R4, R5, R7). -/
theorem acceptedDown_kcu (s : State) (n : Nat) (c : Contact) :
    (s.acceptedDown n c).kcu = { s.kcu.setContact n (c.afterDown s n) with chord := s.chordAfterDown n c } := by
  have live : liveAs (s.kcu.keyOf n) (c.afterDown s n) = true ↔ ¬ (s.kcu.keyOf n = 0 ∨ c.mark ≠ .none) := by
    rw [liveAs_iff, not_or, not_not]
    exact ⟨fun ⟨mapped, _, clear⟩ => ⟨mapped, clear⟩, fun ⟨mapped, clear⟩ => ⟨mapped, rfl, clear⟩⟩
  have unfolded : s.acceptedDown n c =
      if liveAs (s.kcu.keyOf n) (c.afterDown s n) then
        (s.setKcu (s.kcu.setContact n (c.afterDown s n))).chordDown (s.kcu.keyOf n) s.clock.ms
      else s.setKcu (s.kcu.setContact n (c.afterDown s n)) := rfl
  rw [unfolded]
  by_cases hl : s.kcu.keyOf n = 0 ∨ c.mark ≠ .none
  · rw [if_neg (live.not.2 (not_not.2 hl))]
    simp only [State.chordAfterDown, if_pos hl]
    rfl
  · rw [if_pos (live.2 hl)]
    have chord : (s.setKcu (s.kcu.setContact n (c.afterDown s n))).kcu.chord = s.kcu.chord := rfl
    have mayOpen : (s.setKcu (s.kcu.setContact n (c.afterDown s n))).mayOpen = s.mayOpen := rfl
    cases hc : s.kcu.chord with
    | some ch =>
      rw [chordDown_joins _ _ (chord.trans hc)]
      simp [State.chordAfterDown, hl, hc]
    | none =>
      cases may : s.mayOpen with
      | true =>
        rw [chordDown_opens _ _ (chord.trans hc) (mayOpen.trans may)]
        simp [State.chordAfterDown, hl, hc, may]
      | false =>
        rw [chordDown_stays _ _ (chord.trans hc) (mayOpen.trans may)]
        simp [State.chordAfterDown, hl, hc, may, Kcu.setContact]

/-- The contact after an accepted up (R8). -/
def Contact.released (c : Contact) : Contact := { c with acceptedDown := false, settleAt := none, mark := .none, stuckAt := none }

theorem released_not_live (key : Nat) (c : Contact) : liveAs key c.released = false := by simp [liveAs, Contact.released]

/-- An accepted up of a live contact may close the chord (R5). -/
theorem acceptedUp_of_live {s : State} {n : Nat} {c : Contact} (h : liveAs (s.kcu.keyOf n) c = true) :
    s.acceptedUp n c = (s.setKcu (s.kcu.setContact n c.released)).closeIfNoneLive s.clock.ms := if_pos h

theorem acceptedUp_of_not_live {s : State} {n : Nat} {c : Contact} (h : liveAs (s.kcu.keyOf n) c = false) :
    s.acceptedUp n c = s.setKcu (s.kcu.setContact n c.released) := if_neg (by simp [h])

theorem contact_closeIfNoneLive (u : State) (now : Ms) (m : Nat) : (u.closeIfNoneLive now).kcu.contact m = u.kcu.contact m := by
  obtain ⟨_, contacts⟩ := closeIfNoneLive_kcu u now
  simp only [Kcu.contact, contacts]

/-- What an accepted up leaves in the Key Capture Unit: its contact is released, the others stay. -/
theorem acceptedUp_kcu (s : State) (n : Nat) (c : Contact) :
    SameButChord s.kcu (s.acceptedUp n c).kcu
    ∧ ∀ m, (s.acceptedUp n c).kcu.contact m = (s.kcu.setContact n c.released).contact m := by
  cases h : liveAs (s.kcu.keyOf n) c with
  | true =>
    rw [acceptedUp_of_live h]
    obtain ⟨same, _⟩ := closeIfNoneLive_kcu (s.setKcu (s.kcu.setContact n c.released)) s.clock.ms
    exact ⟨same, contact_closeIfNoneLive _ _⟩
  | false =>
    rw [acceptedUp_of_not_live h]
    exact ⟨rfl, fun _ => rfl⟩

/-- The last live contact that goes up closes the chord (R5). -/
theorem acceptedUp_closed {s : State} {n : Nat} {c : Contact} {ch : Chord} (hn : Sys2Proof.contactOk n = true)
    (hc : s.kcu.contact n = some c) (hch : s.kcu.chord = some ch) (live : s.kcu.live n = true)
    (others : ∀ m, 1 ≤ m → m ≤ 28 → m ≠ n → s.kcu.live m = false) : ChordClosed s (s.acceptedUp n c) ch s.clock.ms := by
  rw [live_of_contact hc] at live
  rw [acceptedUp_of_live live]
  refine closeIfNoneLive_closed (u := s.setKcu (s.kcu.setContact n c.released)) s.clock.ms hch ?_
  rw [Bool.eq_false_iff, Ne, State.setKcu_kcu, anyLive_setContact _ _ hn (released_not_live _ c)]
  rintro ⟨m, low, high, other, stillLive⟩
  simp [others m low high other] at stillLive

/-- With no chord open, or a contact live before or after it, an accepted up changes its contact alone. -/
theorem acceptedUp_stays {s : State} {n : Nat} {c : Contact} (hn : Sys2Proof.contactOk n = true) (hc : s.kcu.contact n = some c)
    (h : s.kcu.chord = none ∨ s.kcu.live n = false ∨ ∃ m, 1 ≤ m ∧ m ≤ 28 ∧ m ≠ n ∧ s.kcu.live m = true) :
    s.acceptedUp n c = s.setKcu (s.kcu.setContact n c.released) := by
  cases live : liveAs (s.kcu.keyOf n) c with
  | false => exact acceptedUp_of_not_live live
  | true =>
    rw [live_of_contact hc, live] at h
    rw [acceptedUp_of_live live]
    refine closeIfNoneLive_stays _ (h.imp id fun k => ?_)
    exact (anyLive_setContact _ _ hn (released_not_live _ c)).2 (k.resolve_left (by simp))

/-- The contact after its stuck timer has expired (R7). -/
def Contact.stuckNow (c : Contact) : Contact := { c with mark := .stuck, stuckAt := none }

theorem stuckNow_not_live (key : Nat) (c : Contact) : liveAs key c.stuckNow = false := by simp [liveAs, Contact.stuckNow]

/-- The contact is marked and KEY_STUCK latched (R7), before the chord is looked at. -/
def State.markStuck (s : State) (n : Nat) (c : Contact) : State :=
  (s.setKcu (s.kcu.setContact n c.stuckNow)).latch (.keyStuck n (s.kcu.keyOf n))

@[simp] theorem markStuck_kcu (s : State) (n : Nat) (c : Contact) : (s.markStuck n c).kcu = s.kcu.setContact n c.stuckNow := rfl

@[simp] theorem markStuck_sq (s : State) (n : Nat) (c : Contact) : (s.markStuck n c).sq = s.sq := rfl

@[simp] theorem markStuck_notes (s : State) (n : Nat) (c : Contact) : (s.markStuck n c).notes = s.notes := rfl

@[simp] theorem markStuck_lcp (s : State) (n : Nat) (c : Contact) :
    (s.markStuck n c).lcp = s.lcp.latched (.keyStuck n (s.kcu.keyOf n)) := rfl

theorem stuckExpiry_eq {s : State} {n : Nat} {c : Contact} {e : Ms} (h : s.kcu.contact n = some c) (he : c.stuckAt = some e) :
    s.stuckExpiry n = ((s.reachMs e).markStuck n c).closeIfNoneLive (s.reachMs e).clock.ms := by
  simp [State.stuckExpiry, State.markStuck, Contact.stuckNow, h, he]

theorem frame_stuckClose (s : State) (n : Nat) (c : Contact) (now : Ms) :
    SameBut [.kcu, .sq, .notes, .latches] s ((s.markStuck n c).closeIfNoneLive now) :=
  SameBut.chain ((frame_setKcu _ _).chain (frame_latch _ _) (zs := [.kcu, .latches]) (by decide) (by decide))
    (frame_closeIfNoneLive _ _) (by decide) (by decide)

end Sys2Proof.Machine

open Sys2Proof Sys2Proof.Machine

/-- Settles O18: by whether the pin takes another level. -/
theorem aRawLevelChangeStartsOrEndsSettling : Obligations.ARawLevelChangeStartsOrEndsSettling := by
  unfold Obligations.ARawLevelChangeStartsOrEndsSettling
  intro n down s c hn hc
  refine ⟨_, rfl, frame_rawLevelChange s n down, ?_⟩
  by_cases same : c.rawDown = down
  · rw [rawLevelChange_of_same hc same, if_pos same]
    exact ⟨rfl, fun _ _ => rfl, hc⟩
  · rw [rawLevelChange_of_other down hc same, if_neg same]
    exact ⟨rfl, fun m hm => contact_setContact_other _ _ hn hm, contact_setContact_same _ _ _ hn⟩

/-- Settles O19: what an accepted down leaves in the Key Capture Unit, read at the expiry. -/
theorem anAcceptedDownOpensOrJoinsTheChord : Obligations.AnAcceptedDownOpensOrJoinsTheChord := by
  unfold Obligations.AnAcceptedDownOpensOrJoinsTheChord
  intro n s c e hn hc he raw
  have frame := frame_acceptedDown (s.reachMs e) n c
  refine ⟨(s.reachMs e).acceptedDown n c, ?_, frame, ?_⟩
  · have taken : s.settlingExpiry n = (s.reachMs e).acceptedDown n c := by rw [settlingExpiry_eq hc he, if_pos raw]
    exact congrArg Host.Outcome.next taken
  · rw [frame.clock (by decide), acceptedDown_kcu, reachMs_kcu]
    refine ⟨rfl, fun m hm => contact_setContact_other s.kcu _ hn hm, ?_, ?_⟩
    · refine (contact_setContact_same s.kcu n _ hn).trans ?_
      simp only [Contact.afterDown, State.after, reachMs_kcu]
    · simp only [State.chordAfterDown, State.mayOpen, reachMs_kcu, reachMs_cfg, State.online, reachMs_lcp, Bool.and_eq_true,
        Bool.not_eq_true', and_assoc]
      split
      · rfl
      · cases s.kcu.chord <;> rfl

/-- Settles O21: by the room in the queue and in the log. -/
theorem aStrokeReachesQueueAndLog : Obligations.AStrokeReachesQueueAndLog := by
  unfold Obligations.AStrokeReachesQueueAndLog
  intro s r
  have near (h : s.notes.hasRoom = true) : (s.handOn r).lcp =
      if s.notes.unexported = 7167 then s.lcp.latched (.notesNear 7168) else s.lcp := logStroke_lcp_of_room (s.setSq (s.sq.take r)) _ h
  have full (h : s.notes.hasRoom = false) : (s.handOn r).lcp = s.lcp.latched (.notesFull r.number) := by
    have told := logStroke_lcp_of_full (s.setSq (s.sq.take r)) (s.sq.noteCopy r) h
    rwa [noteCopy_number] at told
  refine ⟨frame_handOn s r, fun h => ?_, fun h => ?_, s.sq.noteCopy r, rfl, fun h => ?_, fun h k => ?_, fun h k => ?_, fun h k => ?_,
    fun h k => ?_⟩
  · rw [handOn_sq, StrokeQueue.take, if_pos h]
  · rw [handOn_sq, StrokeQueue.take, if_neg (Nat.not_lt.2 h)]
  · rw [handOn_notes, NotesLog.take, if_pos h]
  · rw [handOn_notes, NotesLog.take, if_neg (Nat.not_lt.2 h), if_pos k]
  · have told := full (Bool.eq_false_iff.2 ((hasRoom_iff _).not.2 (by omega)))
    refine ⟨?_, latched_of_lcp told, latch_of_lcp told (by decide) (by simp [Event.priority])⟩
    rw [handOn_notes, NotesLog.take, if_neg (Nat.not_lt.2 h), if_neg (Nat.not_lt.2 k)]
  · have told := near ((hasRoom_iff _).2 h)
    rw [if_pos k] at told
    exact ⟨latched_of_lcp told, latch_of_lcp told (by decide) (by simp [Event.priority])⟩
  · rw [near ((hasRoom_iff _).2 h), if_neg k]

/-- Settles O20: the accepted up, and the close where no other contact is live. -/
theorem anAcceptedUpClosesTheChord : Obligations.AnAcceptedUpClosesTheChord := by
  unfold Obligations.AnAcceptedUpClosesTheChord
  intro n s c e hn hc he raw
  have frame := frame_acceptedUp (s.reachMs e) n c
  refine ⟨(s.reachMs e).acceptedUp n c, ?_, frame, ?_⟩
  · have taken : s.settlingExpiry n = (s.reachMs e).acceptedUp n c := by rw [settlingExpiry_eq hc he, if_neg (by simp [raw])]
    exact congrArg Host.Outcome.next taken
  · obtain ⟨sameKcu, contacts⟩ := acceptedUp_kcu (s.reachMs e) n c
    rw [reachMs_kcu] at sameKcu contacts
    rw [frame.clock (by decide)]
    refine ⟨fun m hm => ?_, ?_, sameKcu, fun ch hch live others => ?_, fun h => ?_⟩
    · rw [contacts, contact_setContact_other _ _ hn hm]
    · rw [contacts, contact_setContact_same _ _ _ hn]
      rfl
    · obtain ⟨closed, brief, long⟩ := acceptedUp_closed (s := s.reachMs e) hn (by rwa [reachMs_kcu]) (by rwa [reachMs_kcu])
        (by rwa [reachMs_kcu]) (by rwa [reachMs_kcu])
      simp only [reachMs_kcu, reachMs_sq, reachMs_notes, reachMs_lcp] at brief long
      refine ⟨closed, fun k => ?_, long⟩
      obtain ⟨grazes, next, _, rest⟩ := brief k
      exact ⟨grazes, next, rest⟩
    · rw [acceptedUp_stays (s := s.reachMs e) hn (by rwa [reachMs_kcu]) (by rwa [reachMs_kcu])]
      simp only [State.setKcu_kcu, State.setKcu_sq, State.setKcu_notes, State.setKcu_lcp, reachMs_kcu, reachMs_sq, reachMs_notes,
        reachMs_lcp, and_self, and_true]
      rfl

/-- Settles O22: the mark and KEY_STUCK, and the close where no other contact is live. -/
theorem aStuckExpiryMarksTheContact : Obligations.AStuckExpiryMarksTheContact := by
  unfold Obligations.AStuckExpiryMarksTheContact
  intro n s c e hn hc he
  have frame := frame_stuckClose (s.reachMs e) n c (s.reachMs e).clock.ms
  have live := anyLive_setContact s.kcu c.stuckNow hn (stuckNow_not_live _ c)
  obtain ⟨same, _⟩ := closeIfNoneLive_kcu ((s.reachMs e).markStuck n c) (s.reachMs e).clock.ms
  have contacts := contact_closeIfNoneLive ((s.reachMs e).markStuck n c) (s.reachMs e).clock.ms
  refine ⟨_, congrArg Host.Outcome.next (stuckExpiry_eq hc he), frame, fun m hm => ?_, ?_, ?_, ?_, fun h => ?_, fun others ch hch => ?_⟩
  · rw [contacts, markStuck_kcu, reachMs_kcu, contact_setContact_other _ _ hn hm]
  · rw [contacts, markStuck_kcu, contact_setContact_same _ _ _ hn]
    rfl
  · rw [markStuck_kcu, reachMs_kcu] at same
    exact same
  · have told : Latched s ((s.reachMs e).markStuck n c) 8 (.keyStuck n (s.kcu.keyOf n)) :=
      latched_of_lcp (e := .keyStuck n (s.kcu.keyOf n)) (by rw [markStuck_lcp, reachMs_lcp, reachMs_kcu])
    exact told.keep (latches_closeIfNoneLive _ _) (by decide) (by decide)
  · rw [closeIfNoneLive_stays _ (h.imp (fun k => ?_) fun k => ?_)]
    · simp only [markStuck_kcu, markStuck_sq, markStuck_notes, markStuck_lcp, reachMs_kcu, reachMs_sq, reachMs_notes, reachMs_lcp,
        and_self, and_true]
      rfl
    · rw [markStuck_kcu, reachMs_kcu]
      exact k
    · rw [markStuck_kcu, reachMs_kcu]
      exact live.2 k
  · rw [frame.clock (by decide)]
    have noneLive : ((s.reachMs e).markStuck n c).kcu.anyLive = false := by
      rw [markStuck_kcu, reachMs_kcu, Bool.eq_false_iff, Ne, live]
      rintro ⟨m, low, high, other, stillLive⟩
      simp [others m low high other] at stillLive
    have opened : ((s.reachMs e).markStuck n c).kcu.chord = some ch := by
      rw [markStuck_kcu, reachMs_kcu]
      exact hch
    have closed := closeIfNoneLive_closed (s.reachMs e).clock.ms opened noneLive
    simp only [ChordClosed, markStuck_kcu, markStuck_sq, markStuck_notes, markStuck_lcp, reachMs_kcu, reachMs_sq, reachMs_notes,
      reachMs_lcp] at closed
    exact closed
end

section
/-! SUPPORT. Taken commands, memory at a reset, and the records given to the host; with them O4, O51, O54 and O59. -/

namespace Sys2Proof.Machine

/-! ## A command taken by an idle port -/

theorem takeCommand_taken {s : State} {code : Byte} {ps : List Byte} (run : State → State) (idle : s.lcp.inFlight = none)
    (short : ps.length ≤ 264) (may : takenIn code s.online = true) : s.takeCommand code ps run = run (s.taking code ps) := by
  have fits : ¬ maxParams < ps.length := Nat.not_lt.mpr short
  simp only [State.takeCommand, idle, Option.isSome_none, Bool.false_eq_true, if_false, if_neg fits, may, if_true]

theorem inFlight_taking (s : State) (code : Byte) {ps : List Byte} (short : ps.length ≤ 264) : InFlight (s.taking code ps) code ps := by
  simp [InFlight, State.taking, maxParams, List.take_of_length_le short]

theorem InFlight.keep {s t : State} {code : Byte} {ps : List Byte} (h : InFlight s code ps) (k : t.lcp.inFlight = s.lcp.inFlight) :
    InFlight t code ps := k.trans h

/-- A command whose parameters fail their check is answered RANGE and does nothing more. -/
theorem takeCommand_range {α : Type} {s : State} {code : Byte} {ps : List Byte} {p : Option α} (run : State → α → State)
    (idle : s.lcp.inFlight = none) (short : ps.length ≤ 264) (may : takenIn code s.online = true) (bad : p = none) :
    OnlyAnswers s (s.takeCommand code ps fun t => t.checked p run) code ps .range := by
  rw [takeCommand_taken _ idle short may, bad]
  rfl

/-- A command whose parameters pass their check runs. -/
theorem takeCommand_checked {α : Type} {s : State} {code : Byte} {ps : List Byte} {p : Option α} {x : α} (run : State → α → State)
    (idle : s.lcp.inFlight = none) (short : ps.length ≤ 264) (may : takenIn code s.online = true) (good : p = some x) :
    (s.takeCommand code ps fun t => t.checked p run) = run (s.taking code ps) x := by
  rw [takeCommand_taken _ idle short may, good]
  rfl

/-- The codes taken in both node states. -/
theorem takenIn_both {code : Byte} (h : code ∈ [(5 : Byte), 11, 12]) (online : Bool) : takenIn code online = true := by
  simp only [List.mem_cons, List.not_mem_nil, or_false] at h
  obtain rfl | rfl | rfl := h <;> cases online <;> decide

theorem answers_reply (s : State) (c : ReplyCode) (data : List Byte) : Answers (s.reply c data) c data := rfl

theorem noParams_of_ne {ps : List Byte} (h : ps ≠ []) : noParams ps = none := by simp [noParams, h]

/-! ## Memory at a reset -/

theorem memAtReset_idle {s : State} (h : s.arb.inService = none) : s.memAtReset = s.mem := by simp [State.memAtReset, h]

theorem memAtReset_serves {s : State} {r : Request} (h : s.arb.inService = some r) : s.memAtReset = s.mem.served r.op := by
  simp [State.memAtReset, h]

theorem byteAt_served_write {m : Memory} {a : Nat} {bs : List Byte} (hm : m.wf = true) (ha : a + bs.length ≤ memSize) (b : Nat) :
    Memory.byteAt (m.served (.write a bs)) b = if a ≤ b ∧ b < a + bs.length then bs.getD (b - a) 0 else Memory.byteAt m b := by
  have served : m.served (.write a bs) = m.setBytes a bs := if_pos ha
  rw [served, byteAt_setBytes m a bs b hm ha]

theorem byteAt_memAtReset_write {s : State} {r : Request} {a : Nat} {bs : List Byte} (h : s.arb.inService = some r)
    (hr : r.op = .write a bs) (hm : s.mem.wf = true) (ha : a + bs.length ≤ memSize) (b : Nat) :
    Memory.byteAt s.memAtReset b = if a ≤ b ∧ b < a + bs.length then bs.getD (b - a) 0 else Memory.byteAt s.mem b := by
  rw [memAtReset_serves h, hr, byteAt_served_write hm ha b]

/-! ## The full reset -/

theorem contacts_atReset (k : Kcu) (i : Fin 28) : k.atReset.contacts[i] = (k.contacts[i]).atReset := by
  simp [Kcu.atReset]

/-! ## CONFIGURE -/

theorem contacts_configureWith (s : State) (g : Settings) (i : Fin 28) : (s.configureWith g).kcu.contacts[i] =
    (s.kcu.contacts[i]).adopt (s.kcu.keyMap[i]) (g.keyMap[i]) (s.after (1000 * g.stuckLimit)) := by
  simp [State.configureWith, State.adoptSettings, State.ok, State.after]

theorem kcu_configureWith (s : State) (g : Settings) : (s.configureWith g).kcu =
    { s.kcu with contacts := (s.configureWith g).kcu.contacts, keyMap := g.keyMap, debounce := g.debounce, graze := g.graze,
                 stuckLimit := g.stuckLimit } := rfl

/-! ## Counts, lines and notes given to the host -/

theorem fieldAt_singleton (n : Byte) : fieldAt [n] 0 1 = n.toNat := by simp [fieldAt, leNat]

theorem countParam_singleton {n : Byte} {most : Nat} (low : 1 ≤ n.toNat) (high : n.toNat ≤ most) :
    countParam [n] most = some n.toNat := by
  simp [countParam, fieldAt_singleton, low, high]

theorem countParam_bad {rest : List Byte} {most : Nat} (bad : ∀ n : Byte, rest = [n] → n.toNat = 0 ∨ most < n.toNat) :
    countParam rest most = none := by
  refine if_neg ?_
  rintro ⟨one, low, high⟩
  obtain ⟨n, rfl⟩ := List.length_eq_one_iff.mp one
  rw [fieldAt_singleton] at low high
  have := bad n rfl
  omega

/-- The line cursor has not been overtaken: the window starts at it. -/
theorem lineWindow_at_cursor {s : State} {steps : Nat} (hs : steps = ordinalSteps s.lcp.lineCursor s.tb.nextOrdinal)
    (held : steps ≤ s.tb.ring.length) : s.lineWindow = (0, s.lcp.lineCursor, s.tb.ring.drop (s.tb.ring.length - steps)) := by
  subst hs
  exact if_pos held

/-- The line cursor was left behind: it goes to the oldest line of the ring. -/
theorem lineWindow_behind {s : State} {steps : Nat} {l : CommittedLine} {ls : List CommittedLine}
    (hs : steps = ordinalSteps s.lcp.lineCursor s.tb.nextOrdinal) (lost : s.tb.ring.length < steps) (ring : s.tb.ring = l :: ls) :
    s.lineWindow = (steps - s.tb.ring.length, l.ordinal, s.tb.ring) := by
  subst hs
  rw [State.lineWindow, if_neg (Nat.not_le.mpr lost), ring]
  rfl

theorem cursorPast_of_ne {given : List CommittedLine} (cursor : Nat) (h : given ≠ []) :
    cursorPast cursor given = nextOrdinalOf ((given.getLast?.map CommittedLine.ordinal).getD 0) := by
  simp [cursorPast, List.getLast?_eq_some_getLast h]

theorem length_pair_le (mode n : Byte) : [mode, n].length ≤ 264 := Nat.le_of_ble_eq_true rfl

/-- READ_LINES taken with a window `(lost, start, lines)` (R195). -/
theorem readLines_gives {s : State} {mode n : Byte} {lost start : Nat} {lines : List CommittedLine} (auto : Bool)
    (idle : s.lcp.inFlight = none) (low : 1 ≤ n.toNat) (high : n.toNat ≤ 4) (window : s.lineWindow = (lost, start, lines)) :
    SameBut [.lcp] s (s.readLines mode [n] auto) ∧ InFlight (s.readLines mode [n] auto) 11 [mode, n]
    ∧ Answers (s.readLines mode [n] auto) .ok
        (leBytes 4 lost ++ leBytes 1 (lines.take n.toNat).length ++ (lines.take n.toNat).flatMap CommittedLine.bytes)
    ∧ (s.readLines mode [n] auto).lcp.lineCursor = if auto then cursorPast start (lines.take n.toNat) else start := by
  have short := length_pair_le mode n
  have taken : s.readLines mode [n] auto = (s.taking 11 [mode, n]).giveLines auto n.toNat :=
    takeCommand_checked (fun u k => u.giveLines auto k) idle short (takenIn_both (by decide) _) (countParam_singleton low high)
  have window' : (s.taking 11 [mode, n]).lineWindow = (lost, start, lines) := window
  refine ⟨frame_readLines s mode [n] auto, ?_⟩
  rw [taken, State.giveLines, window']
  exact ⟨(inFlight_taking s 11 short).keep rfl, answers_reply _ _ _, rfl⟩

/-- READ_NOTES taken (R14, R196). -/
theorem readNotes_taken {s : State} {mode n : Byte} (auto : Bool) (idle : s.lcp.inFlight = none) (low : 1 ≤ n.toNat)
    (high : n.toNat ≤ 16) : s.readNotes mode [n] auto = (s.taking 12 [mode, n]).giveNotes auto n.toNat :=
  takeCommand_checked (fun u k => u.giveNotes auto k) idle (length_pair_le mode n) (takenIn_both (by decide) _)
    (countParam_singleton low high)

end Sys2Proof.Machine

open Sys2Proof Sys2Proof.Machine

/-- Settles O4: each part of `State.fullReset` read off, and the memory by what the operation in service does to it. -/
theorem fullResetLeavesTheResetState : Obligations.FullResetLeavesTheResetState := by
  unfold Obligations.FullResetLeavesTheResetState
  intro src s hm
  have line : (s.fullReset src).lnc = { Lnc.reset with busySince := if s.lnc.driver = true then none else s.lnc.busySince.map fun _ => 0,
                                                       held := s.lnc.held && !s.lnc.driver } := by
    change s.lnc.atReset = _
    unfold Lnc.atReset Lnc.heldStart
    cases s.lnc.driver <;> rfl
  have attn : (s.fullReset src).attn = false := by
    change Lcp.reset.attn = false
    decide
  refine ⟨_, rfl, rfl, rfl, attn, rfl, rfl, rfl, rfl, rfl, rfl, rfl, rfl, rfl, contacts_atReset s.kcu, rfl, rfl, rfl, rfl, rfl, rfl, rfl,
    rfl, line, rfl, rfl, rfl, rfl, ?_, ?_, ?_⟩
  · rintro rfl
    rfl
  · rintro rfl r hr a n bs ha
    refine ⟨fun isRead => ?_, fun isWrite => byteAt_memAtReset_write hr isWrite hm ha⟩
    change s.memAtReset = s.mem
    rw [memAtReset_serves hr, isRead, served_read]
  · rintro rfl idle
    exact memAtReset_idle idle

/-- Settles O51: the record is adopted after the take, and a contact is adopted by its own rule. -/
theorem configureHoldsTheRecord : Obligations.ConfigureHoldsTheRecord := by
  unfold Obligations.ConfigureHoldsTheRecord
  intro ps s idle start short
  have may : takenIn 1 s.online = true := by rw [start]; decide
  constructor
  · intro g parsed
    have ran : exec (.configure ps) s = .next ((s.taking 1 ps).configureWith g) :=
      congrArg Host.Outcome.next (takeCommand_checked State.configureWith idle short may parsed)
    refine ⟨_, ran, ?_, (inFlight_taking s 1 short).keep rfl, answers_reply _ _ _, rfl, rfl, rfl,
      kcu_configureWith (s.taking 1 ps) g, fun i => ?_⟩
    · have frame := frame_configure s ps
      rwa [show s.configure ps = _ from takeCommand_checked State.configureWith idle short may parsed] at frame
    · rw [contacts_configureWith, taking_kcu, Contact.adopt, State.after, taking_clock]
  · intro unparsed
    exact ⟨_, rfl, takeCommand_range State.configureWith idle short may unparsed⟩

/-- Settles O54: each block's rule at RESTART read off, and the memory by the operation in service. -/
theorem restartReturnsToStart : Obligations.RestartReturnsToStart := by
  unfold Obligations.RestartReturnsToStart
  intro s idle hm
  have may : takenIn 5 s.online = true := takenIn_both (by decide) s.online
  have taken : s.restart [] = (s.taking 5 []).restarted :=
    takeCommand_checked (fun u _ => u.restarted) idle (Nat.zero_le _) may (rfl : noParams [] = some ())
  have frame := frame_restart s []
  rw [taken] at frame
  refine ⟨_, congrArg Host.Outcome.next taken, frame.mono (by decide), rfl, (inFlight_taking s 5 (Nat.zero_le _)).keep rfl,
    rfl, rfl, rfl, rfl, rfl,
    rfl, rfl, rfl, rfl, rfl, rfl, rfl, rfl, rfl, rfl, rfl, rfl, rfl, ?_, ?_, ?_⟩
  · intro r hr a bs isWrite ha
    exact byteAt_memAtReset_write (s := s) hr isWrite hm ha
  · intro noService
    exact memAtReset_idle (s := s) noService
  · intro ps hps short
    exact ⟨_, rfl, takeCommand_range (fun u _ => u.restarted) idle short may (noParams_of_ne hps)⟩

/-- Settles O59: the window of the line cursor, or the unexported notes, given by the taken command. -/
theorem linesAndNotesAreExported : Obligations.LinesAndNotesAreExported := by
  unfold Obligations.LinesAndNotesAreExported
  refine ⟨?_, ?_, ?_⟩
  · intro n s steps given idle low high hs
    constructor
    · rintro held rfl
      have window := lineWindow_at_cursor hs held
      obtain ⟨frame, inFlight, answer, cursor⟩ := readLines_gives (mode := 0) true idle low high window
      obtain ⟨framePeek, inFlightPeek, answerPeek, cursorPeek⟩ := readLines_gives (mode := 1) false idle low high window
      refine ⟨⟨_, rfl, frame, inFlight, answer, cursor.trans ?_⟩, _, rfl, framePeek, inFlightPeek, answerPeek, cursorPeek⟩
      unfold cursorPast
      rfl
    · rintro l ls lost ring rfl
      have window := lineWindow_behind hs lost ring
      obtain ⟨frame, inFlight, answer, cursor⟩ := readLines_gives (mode := 0) true idle low high window
      obtain ⟨framePeek, inFlightPeek, answerPeek, cursorPeek⟩ := readLines_gives (mode := 1) false idle low high window
      have someLine : s.tb.ring.take n.toNat ≠ [] := by
        rw [ring, ← Nat.sub_add_cancel low]
        simp
      exact ⟨⟨_, rfl, frame, inFlight, answer, cursor.trans (cursorPast_of_ne _ someLine)⟩,
        _, rfl, framePeek, inFlightPeek, answerPeek, cursorPeek⟩
  · rintro n s given idle low high rfl
    constructor
    · refine ⟨_, rfl, frame_readNotes s 0 [n] true, ?_⟩
      rw [readNotes_taken true idle low high]
      exact ⟨(inFlight_taking s 12 (length_pair_le 0 n)).keep rfl, rfl, answers_reply _ _ _⟩
    · have taken := readNotes_taken (mode := 1) false idle low high
      refine ⟨_, congrArg Host.Outcome.next taken, ?_, ?_, answers_reply _ _ _⟩
      · exact (frame_taking s 12 [1, n]).trans (frame_reply _ _ _)
      · exact (inFlight_taking s 12 (length_pair_le 1 n)).keep rfl
  · intro rest s code mode most c idle short listed bad
    have fits : (mode :: rest).length ≤ 264 := Nat.succ_le_succ short
    simp only [List.mem_cons, Prod.mk.injEq, List.not_mem_nil, or_false] at listed
    obtain ⟨rfl, rfl, rfl, rfl⟩ | ⟨rfl, rfl, rfl, rfl⟩ | ⟨rfl, rfl, rfl, rfl⟩ | ⟨rfl, rfl, rfl, rfl⟩ := listed
    · exact ⟨_, rfl, takeCommand_range (fun u k => u.giveLines true k) idle fits (takenIn_both (by decide) _) (countParam_bad bad)⟩
    · exact ⟨_, rfl, takeCommand_range (fun u k => u.giveLines false k) idle fits (takenIn_both (by decide) _) (countParam_bad bad)⟩
    · exact ⟨_, rfl, takeCommand_range (fun u k => u.giveNotes true k) idle fits (takenIn_both (by decide) _) (countParam_bad bad)⟩
    · exact ⟨_, rfl, takeCommand_range (fun u k => u.giveNotes false k) idle fits (takenIn_both (by decide) _) (countParam_bad bad)⟩
end

section
/-! SUPPORT. The CASE scan of GO and GO's completion; with them O29. -/

namespace Sys2Proof.Machine

/-! ## The CASE scan -/

theorem faultIf_eq_nil {c : Bool} {k : FaultKind} {a : Nat} : faultIf c k a = [] ↔ c = false := by
  cases c <;> simp [faultIf]

/-- The link of a cell without faults is the address of a cell, or 0. -/
theorem link_aligned {d : Directory} {layer a : Nat} {c : CellData} (sound : cellFaults d layer a c = []) : c.link % 16 = 0 := by
  have address := (List.append_eq_nil_iff.mp (List.append_eq_nil_iff.mp (List.append_eq_nil_iff.mp sound).1).1).1
  simpa using (Bool.or_eq_false_iff.mp (faultIf_eq_nil.mp address)).1

/-- What the scan finds wrong with a sound cell short of the chain limit: DUPLICATE, where its table has had the stroke. -/
theorem scanCellFaults_sound {d : Directory} {f : ScanTable} {a : Nat} {c : CellData} (sound : cellFaults d 0 a c = [])
    (chain : f.place + 1 < 24 ∨ c.link = 0) : scanCellFaults d f a c = faultIf (f.strokes.contains c.stroke) .duplicate a := by
  have short : (decide (24 ≤ f.place + 1) && decide (c.link ≠ 0)) = false := by
    rw [Bool.and_eq_false_iff, decide_eq_false_iff_not, decide_eq_false_iff_not]
    omega
  rw [scanCellFaults, sound]
  dsimp only
  rw [faultIf_eq_nil.mpr short, List.nil_append]

theorem scanEnter_reads {d : Directory} (sc : Scan) {t : Nat} (aligned : t % 16 = 0) (inside : d.inCells t 8 = true)
    (new : overlaps sc.reached t 8 = false) : scanEnter d sc t = .read t 8 { sc with want := .header t } := by
  have aligned8 : t % 8 = 0 := by omega
  simp [scanEnter, scanTableFaults, faultIf, aligned, aligned8, inside, new, pickFault]

theorem scanCell_reads {d : Directory} (sc : Scan) {a : Nat} (holder : Nat) (aligned : a % 16 = 0) (inside : d.inCells a 16 = true)
    (new : overlaps sc.reached a 16 = false) : scanCell d sc a holder = .read a 16 { sc with want := .cell a } := by
  simp [scanCell, cellAddressFaults, faultIf, aligned, inside, new, pickFault]

/-- The open table `f` after the cell `c` of its chain. -/
def ScanTable.withCell (f : ScanTable) (c : CellData) : ScanTable :=
  { f with link := c.link, place := f.place + 1, found := f.found + 1, strokes := c.stroke :: f.strokes }

/-- The scan after the sound cell `c` at `a` of the innermost table `f`. -/
def Scan.withCell (sc : Scan) (f : ScanTable) (rest : List ScanTable) (a : Nat) (c : CellData) : Scan :=
  { sc with tables := f.withCell c :: rest, reached := sc.reached ++ [(a, a + 16)], textTop := textTopWith sc.textTop c }

theorem scanStep_cell_fault {d : Directory} {sc : Scan} {a : Nat} {f : ScanTable} {rest : List ScanTable} {bs : List Byte} {x : Damage}
    (want : sc.want = .cell a) (tables : sc.tables = f :: rest)
    (fault : pickFault (scanCellFaults d f a (CellData.ofBytes bs)) = some x) : scanStep d sc bs = .fault x := by
  simp only [scanStep, want, tables, fault]

theorem scanStep_cell {d : Directory} {sc : Scan} {a : Nat} {f : ScanTable} {rest : List ScanTable} {bs : List Byte} {c : CellData}
    (want : sc.want = .cell a) (tables : sc.tables = f :: rest) (bytes : c = CellData.ofBytes bs)
    (sound : scanCellFaults d f a c = []) :
    scanStep d sc bs = if c.hasNext then scanEnter d (sc.withCell f rest a c) c.next
      else scanOn d (sc.withCell f rest a c) (f.withCell c :: rest) := by
  subst bytes
  simp only [scanStep, want, tables, sound, pickFault, Scan.withCell, ScanTable.withCell]

theorem scanOn_chain {d : Directory} (sc : Scan) {f : ScanTable} {rest : List ScanTable} (h : f.link ≠ 0) :
    scanOn d sc (f :: rest) = scanCell d { sc with tables := f :: rest } f.link f.table := by
  rw [scanOn, if_pos h]

/-! ## GO completes -/

theorem fenceWay_all (w : Option CacheEntry) : fenceWay .all w = none := by
  cases w <;> rfl

theorem ways_fence_all (c : Cache) (i : Fin 16) (j : Fin 4) : (c.fence .all).sets[i].ways[j] = none := by
  simp [Cache.fence, CacheSet.fence, fenceWay_all]

theorem slot_atGo (r : Roster) (i : Nat) : r.atGo.slot i = none := by
  change ((Vector.replicate 16 (none : Option RosterSlot))[i]?).getD none = none
  rw [Vector.getElem?_replicate]
  split <;> rfl

theorem contacts_atGo (k : Kcu) (i : Fin 28) : k.atGo.contacts[i] = (k.contacts[i]).atGo (k.keyMap[i]) := by
  simp [Kcu.atGo]

theorem viewerAtGo_of_viewer {s : State} (h : s.cfg.viewer = true) : s.viewerAtGo.vw.paneA = some s.cfg.paneA
    ∧ s.viewerAtGo.vw.paneB = some s.cfg.paneB ∧ s.viewerAtGo.sp.dirty = List.range (s.cfg.paneA.rows + s.cfg.paneB.rows) := by
  rw [State.viewerAtGo, if_pos h]
  exact ⟨rfl, rfl, rfl⟩

/-- The slot's choice that GO ends with takes nothing back. -/
theorem GoneOnline.choose {s t : State} (h : GoneOnline s t) : GoneOnline s t.choose := by
  have credit := choose_credit t
  have slot := choose_slot t
  simp only [GoneOnline, Answers, State.online, choose_lcp, choose_cache, choose_roster, choose_cu, choose_kcu, choose_tb, choose_vw,
    choose_sp, credit.stationWaiting, credit.beaconAt, credit.ownWeight, credit.share, credit.muted, credit.signature, slot.silence,
    slot.assembly]
  exact h

/-- GO reads of the state before it only these parts. -/
theorem GoneOnline.of_eq {s u t : State} (h : GoneOnline u t) (lcp : u.lcp = s.lcp) (roster : u.roster = s.roster) (kcu : u.kcu = s.kcu)
    (clock : u.clock = s.clock) : GoneOnline s t := by
  have cfg : u.cfg = s.cfg := by rw [State.cfg, State.cfg, lcp]
  rw [GoneOnline, lcp, roster, kcu, clock, cfg] at h
  exact h

/-- Every block but the Viewer at GO's completion. -/
def State.blocksAtGo (s : State) : State :=
  { s with
    du := { s.du with work := .idle }, lcp := { s.lcp with online := true }, cache := s.cache.fence .all, kcu := s.kcu.atGo,
    tb := s.tb.atGo, lnc := s.lnc.atGo, cu := Cu.atGo, roster := s.roster.atGo }

theorem goComplete_eq (s : State) : s.goComplete = ((s.blocksAtGo.publisherAtGo.viewerAtGo).ok).choose := by
  simp only [State.goComplete, State.blocksAtGo, State.setDu, State.setLcp, State.setCache, State.setKcu, State.setTb, State.setLnc,
    State.setCu, State.setRoster]

theorem blocksAtGo_cfg (s : State) : s.blocksAtGo.cfg = s.cfg := by simp only [State.cfg, State.blocksAtGo]

theorem publisherAtGo_signature (s : State) : s.publisherAtGo.pub.signature = s.cfg.signature := rfl

/-- `v` is the state with every block at GO, the Viewer's included: once GO is answered, the node is online. -/
theorem GoneOnline.of_parts {s u v : State} (same : SameBut [.vw, .sp] u v) (hu : u = s.blocksAtGo.publisherAtGo)
    (viewer : s.cfg.viewer = true → v.vw.paneA = some s.cfg.paneA ∧ v.vw.paneB = some s.cfg.paneB
      ∧ v.sp.dirty = List.range (s.cfg.paneA.rows + s.cfg.paneB.rows)) : GoneOnline s v.ok := by
  have lcp := same.lcp (by decide) (by decide)
  have online : v.lcp.online = true := by rw [lcp, hu]; rfl
  have config : v.lcp.config = s.lcp.config := by rw [lcp, hu]; rfl
  simp only [GoneOnline, State.online, State.ok, reply_cache, reply_roster, reply_cu, reply_kcu, reply_tb, reply_pub, reply_lnc,
    reply_vw, reply_sp, same.cache (by decide), same.roster (by decide), same.cu (by decide),
    same.kcu (by decide), same.pub (by decide), same.lnc (by decide), same.tb (by decide)]
  subst hu
  have signature := publisherAtGo_signature s.blocksAtGo
  rw [blocksAtGo_cfg] at signature
  exact ⟨online, answers_reply _ _ _, config, ways_fence_all s.cache, slot_atGo s.roster, rfl, rfl, rfl, contacts_atGo s.kcu, rfl,
    rfl, rfl, rfl, rfl, rfl, rfl, rfl, rfl, signature, rfl, rfl, viewer⟩

theorem goComplete_online (s : State) : GoneOnline s s.goComplete := by
  have viewer := viewerAtGo_of_viewer (s := s.blocksAtGo.publisherAtGo)
  rw [(frame_publisherAtGo _).cfg (by decide), blocksAtGo_cfg] at viewer
  rw [goComplete_eq]
  exact (GoneOnline.of_parts (frame_viewerAtGo _) rfl viewer).choose

/-- The parts GO's completion may change. -/
abbrev goneParts : List Part := [.du, .lcp, .cache, .kcu, .tb, .lnc, .cu, .roster, .pub, .vw, .sp]

theorem frame_goComplete_gone (s : State) : SameBut goneParts s s.goComplete := by
  rw [goComplete_eq]
  have blocks : SameBut [.du, .lcp, .cache, .kcu, .tb, .lnc, .cu, .roster] s s.blocksAtGo := by simp [SameBut, State.blocksAtGo]
  have viewer : SameBut [.pub, .vw, .sp] s.blocksAtGo s.blocksAtGo.publisherAtGo.viewerAtGo :=
    (frame_publisherAtGo _).chain (frame_viewerAtGo _) (by decide) (by decide)
  have ends : SameBut [.lcp, .pub, .lnc] s.blocksAtGo.publisherAtGo.viewerAtGo (s.blocksAtGo.publisherAtGo.viewerAtGo.ok).choose :=
    (frame_reply _ _ _).chain (frame_choose _) (by decide) (by decide)
  exact blocks.chain (viewer.chain (zs := [.lcp, .pub, .lnc, .vw, .sp]) ends (by decide) (by decide)) (by decide) (by decide)

theorem goComplete_du (s : State) : s.goComplete.du = { s.du with work := .idle } := by
  rw [goComplete_eq, choose_du, State.ok, reply_du, (frame_viewerAtGo _).du (by decide)]
  rfl

/-! ## The end of a DU operation -/

theorem defOperationEnd_serves {s : State} {op : MemOp} (h : s.arb.inService = some { cls := .defn, op := op }) :
    s.defOperationEnd = (s.endOperation { cls := .defn, op := op }).duData (s.mem.answer op) := by
  have serving : s.serving .defn = some { cls := .defn, op := op } := by rw [State.serving, h]; rfl
  rw [State.defOperationEnd, serving]

theorem SameBut.byteAt {s t : State} {xs : List Part} (h : SameBut xs s t) (hx : Part.mem ∉ xs) (a : Nat) :
    t.mem.byteAt a = s.mem.byteAt a := by
  obtain ⟨_, _, _, _, mem, _⟩ := h
  exact mem hx a

/-- A read leaves memory as it is. -/
theorem frame_endOperation_read (s : State) (c : MemClass) (a n : Nat) :
    SameBut [.arb] s (s.endOperation { cls := c, op := .read a n }) := by
  simp [SameBut, State.endOperation, served_read]

theorem duData_scan {s : State} {sc : Scan} (bs : List Byte) (h : s.du.work = .goScan sc) :
    s.duData bs = s.scanOut (scanStep s.dir sc bs) := by
  simp only [State.duData, h]

theorem duData_lastCount {s : State} {w : PlannedWrite} (bs : List Byte) (h : s.du.work = .goCounts [w]) : s.duData bs = s.goComplete := by
  simp only [State.duData, h, State.goCountsOn]

/-- GO's completion after an operation of the DU ended in `u`. -/
theorem goComplete_after {s u : State} {xs ys : List Part} (h : SameBut xs s u) (own : ∀ p ∈ xs, p ∈ ys)
    (gone : ∀ p ∈ goneParts, p ∈ ys) (apart : ∀ p ∈ [Part.lcp, .latches, .roster, .kcu, .clock], p ∉ xs) :
    SameBut ys s u.goComplete ∧ GoneOnline s u.goComplete := by
  refine ⟨h.chain (frame_goComplete_gone u) own gone, (goComplete_online u).of_eq ?_ ?_ ?_ ?_⟩
  · exact h.lcp (apart _ (by decide)) (apart _ (by decide))
  · exact h.roster (apart _ (by decide))
  · exact h.kcu (apart _ (by decide))
  · exact h.clock (apart _ (by decide))

end Sys2Proof.Machine

open Sys2Proof Sys2Proof.Machine

/-- Settles O29: what the end of a DU read or write does by the scan's outcome and the count rewrites left, and the scan's step
at a cell. -/
theorem goPutsTheNodeOnline : Obligations.GoPutsTheNodeOnline := by
  unfold Obligations.GoPutsTheNodeOnline
  refine ⟨?_, ?_, ?_, ?_⟩
  · intro s w hm work service fits
    have ran : s.defOperationEnd = (s.endOperation { cls := .defn, op := .write w.addr w.bytes }).goComplete :=
      (defOperationEnd_serves service).trans (duData_lastCount _ work)
    obtain ⟨frame, online⟩ := goComplete_after (frame_endOperation s { cls := .defn, op := .write w.addr w.bytes })
      (ys := [.mem, .du, .arb, .lcp, .cache, .kcu, .tb, .lnc, .cu, .roster, .pub, .vw, .sp]) (by decide) (by decide) (by decide)
    have gone := frame_goComplete_gone (s.endOperation { cls := .defn, op := .write w.addr w.bytes })
    refine ⟨_, congrArg Host.Outcome.next ran, frame, ?_, goComplete_du _, gone.arb (by decide), online⟩
    intro b
    rw [gone.byteAt (by decide) b]
    exact byteAt_served_write hm fits b
  · rintro s sc a n out work service rfl
    have ran : s.defOperationEnd
        = (s.endOperation { cls := .defn, op := .read a n }).scanOut (scanStep s.dir sc (s.mem.bytesAt a n)) :=
      (defOperationEnd_serves service).trans (duData_scan _ work)
    have ended := frame_endOperation_read s .defn a n
    refine ⟨?_, ?_, ?_⟩
    · intro b m sc' step
      rw [step] at ran
      exact ⟨_, congrArg Host.Outcome.next ran,
        ended.chain ((frame_setDu _ _).chain (zs := [.du, .arb]) (frame_request _ _ _) (by decide) (by decide)) (by decide) (by decide),
        rfl, rfl⟩
    · intro d step
      rw [step] at ran
      have latched := latched_latch (s.endOperation { cls := .defn, op := .read a n }) (.dictFault 0 d.1 d.2)
      exact ⟨_, congrArg Host.Outcome.next ran,
        ended.chain ((frame_latch _ _).chain (zs := [.du, .lcp, .latches]) (frame_goFails _ _) (by decide) (by decide))
          (by decide) (by decide),
        rfl, rfl, answers_reply _ _ _, latched⟩
    · rintro sc' du step rfl
      rw [step] at ran
      constructor
      · intro w ws fixes
        rw [State.scanOut, fixes] at ran
        exact ⟨_, congrArg Host.Outcome.next ran,
          ended.chain (((frame_setDu _ _).trans (frame_setDu _ _)).chain (zs := [.du, .arb]) (frame_request _ _ _) (by decide) (by decide))
            (by decide) (by decide),
          rfl, rfl⟩
      · intro fixes
        rw [State.scanOut, fixes] at ran
        obtain ⟨frame, online⟩ := goComplete_after (ended.chain (zs := [.arb, .du]) (frame_setDu _ _) (by decide) (by decide))
          (ys := [.du, .arb, .lcp, .cache, .kcu, .tb, .lnc, .cu, .roster, .pub, .vw, .sp]) (by decide) (by decide) (by decide)
        exact ⟨_, congrArg Host.Outcome.next ran, frame, goComplete_du _, (frame_goComplete_gone _).arb (by decide), online⟩
  · intro d sc a f rest bs c f' sc' want tables bytes sound hf hsc
    have after : sc.withCell f rest a c = sc' := by subst hf; exact hsc.symm
    rw [← after]
    refine ⟨fun chain fresh => ?_, fun chain again => ?_⟩
    · have noFault : scanCellFaults d f a c = [] := by simpa [scanCellFaults_sound sound chain, faultIf] using fresh
      have step := scanStep_cell want tables bytes noFault
      refine ⟨fun next aligned inside new => ?_, fun noNext link inside new => ?_⟩
      · rw [step, if_pos next]
        exact scanEnter_reads _ aligned inside new
      · rw [step, noNext, if_neg Bool.false_ne_true, scanOn_chain _ (show (f.withCell c).link ≠ 0 from link)]
        exact scanCell_reads _ _ (link_aligned sound) inside new
    · refine scanStep_cell_fault want tables ?_
      rw [← bytes, scanCellFaults_sound sound chain]
      simp [faultIf, again, pickFault]
  · intro f
    exact ⟨fun same => if_pos same, fun differ => if_neg differ⟩
end

section
/-! SUPPORT. The fold of a stroke, the definition queue, and GO's checks; with them O11, O31, O53 and O55. -/

namespace Sys2Proof.Machine

/-! ## The fold (R23) -/

theorem fold_eq (v : Stroke) : fold v = v.toNat ^^^ (v.toNat / 2048) := by
  rw [fold, BitVec.toNat_xor, BitVec.toNat_ushiftRight, Nat.shiftRight_eq_div_pow]

/-! ## The definition queue (R29, R30) -/

/-- A definition queue with room takes the entry at its end, and the answer is ACCEPTED. -/
theorem queueEntry_joins {s : State} (e : DefEntry) (room : s.du.queue.length < 8) :
    s.queueEntry e = (s.setDu { s.du with queue := s.du.queue ++ [e] }).reply .accepted [] := if_pos room

theorem queueEntry_full {s : State} (e : DefEntry) (full : 8 ≤ s.du.queue.length) : s.queueEntry e = s.reply .busy [] :=
  if_neg (Nat.not_lt.mpr full)

/-- A command that hands the entry `e` to a queue with room. -/
theorem taking_queueEntry_joins {s : State} (code : Byte) {ps : List Byte} (e : DefEntry) (short : ps.length ≤ 264)
    (room : s.du.queue.length < 8) :
    SameBut [.lcp, .du] s ((s.taking code ps).queueEntry e) ∧ InFlight ((s.taking code ps).queueEntry e) code ps
    ∧ Answers ((s.taking code ps).queueEntry e) .accepted []
    ∧ ((s.taking code ps).queueEntry e).du = { s.du with queue := s.du.queue ++ [e] } := by
  have room' : (s.taking code ps).du.queue.length < 8 := room
  rw [queueEntry_joins e room']
  refine ⟨?_, (inFlight_taking s code short).keep rfl, answers_reply _ _ _, rfl⟩
  exact (frame_taking s code ps).chain (zs := [.lcp, .du])
    ((frame_setDu _ _).chain (zs := [.lcp, .du]) (frame_reply _ _ _) (by decide) (by decide)) (by decide) (by decide)

/-- A command that hands an entry to a full queue. -/
theorem taking_queueEntry_full {s : State} (code : Byte) (ps : List Byte) (e : DefEntry) (full : 8 ≤ s.du.queue.length) :
    OnlyAnswers s ((s.taking code ps).queueEntry e) code ps .busy :=
  queueEntry_full (s := s.taking code ps) e full

theorem takenIn_online {code : Byte} (h : code ∈ [(6 : Byte), 7]) {s : State} (online : s.online = true) :
    takenIn code s.online = true := by
  simp only [List.mem_cons, List.not_mem_nil, or_false] at h
  obtain rfl | rfl := h <;> rw [online] <;> decide

theorem exec_define (ps : List Byte) (s : State) : exec (.define ps) s = .next (s.hostDefine ps) := rfl

theorem exec_forget (ps : List Byte) (s : State) : exec (.forget ps) s = .next (s.hostForget ps) := rfl

/-- A DEFINE with sound parameters hands its entry to the queue (R29). -/
theorem hostDefine_sound {ps : List Byte} {s : State} {vs : List Stroke} {text : List Byte} {share : Bool} (idle : s.lcp.inFlight = none)
    (short : ps.length ≤ 264) (online : s.online = true) (good : defineParams ps = some (vs, text, share)) :
    s.hostDefine ps = (s.taking 6 ps).queueEntry
      { kind := .define, source := 0, rank := s.cfg.rank, defNumber := none, strokes := vs, text := text, share := share } :=
  takeCommand_checked _ idle short (takenIn_online (by decide) online) good

/-- A FORGET with sound parameters hands its entry to the queue (R37). -/
theorem hostForget_sound {ps : List Byte} {s : State} {vs : List Stroke} (idle : s.lcp.inFlight = none) (short : ps.length ≤ 264)
    (online : s.online = true) (good : forgetParams ps = some vs) :
    s.hostForget ps = (s.taking 7 ps).queueEntry
      { kind := .forget, source := 0, rank := s.cfg.rank, defNumber := none, strokes := vs, text := [], share := false } :=
  takeCommand_checked _ idle short (takenIn_online (by decide) online) good

/-! ## A DEFINE frame (R30) -/

theorem exec_deliverDefine (s : State) : exec .deliverDefine s = .next s.deliverDefine := rfl

/-- The roster slot of a station whose frame of another kind than STATION was taken at a reading (R144). -/
def RosterSlot.refreshed (q : RosterSlot) (now lapse : Ms) : RosterSlot := { q with lapseAt := some lapse, refreshedAt := now }

/-- A slot refreshed for a lapse time of some seconds. -/
def State.refreshedSlot (s : State) (q : RosterSlot) : RosterSlot := q.refreshed s.clock.ms (s.after (1000 * s.cfg.lapseTime))

theorem findIdx?_set_same {α : Type} (p : α → Bool) {x y : α} (same : p x = p y) :
    ∀ (l : List α) (i : Nat), l[i]? = some y → (l.set i x).findIdx? p = l.findIdx? p
  | [], _, h => by simp at h
  | z :: l, 0, h => by
    obtain rfl : z = y := by simpa using h
    simp [List.findIdx?_cons, same]
  | z :: l, i + 1, h => by
    have rest := findIdx?_set_same p same l i (by simpa using h)
    simp [List.findIdx?_cons, rest]

theorem slots_of_slot {r : Roster} {i : Nat} {q : RosterSlot} (h : r.slot i = some q) : r.slots.toList[i]? = some (some q) := by
  have lt := slot_lt r i q h
  simpa [Roster.slot, lt] using h

/-- A slot rewritten for the same station leaves every station where it was. -/
theorem indexOf_setSlot {r : Roster} {i : Nat} {q q' : RosterSlot} (h : r.slot i = some q) (same : q'.station = q.station) (n : Nat) :
    (r.setSlot i (some q')).indexOf n = r.indexOf n := by
  unfold Roster.indexOf Roster.setSlot
  rw [Vector.toList_setIfInBounds]
  exact findIdx?_set_same _ (by simp [same]) _ _ (slots_of_slot h)

theorem refreshSlot_known {s : State} {n i : Nat} {q : RosterSlot} (index : s.roster.indexOf n = some i) (slot : s.roster.slot i = some q)
    (here : q.state ≠ .lapsed) : s.refreshSlot n = s.setSlot i (some (s.refreshedSlot q)) := by
  simp only [State.refreshSlot, index, slot, if_neg here]
  rfl

theorem defineAtDu_off {s : State} (f : Frame) (off : s.cfg.sharing.receives = false) : s.defineAtDu f = s := by
  simp [State.defineAtDu, off]

theorem defineAtDu_admitted {s : State} {f : Frame} {i : Nat} {q : RosterSlot} (on : s.cfg.sharing.receives = true)
    (index : s.roster.indexOf f.station = some i) (slot : s.roster.slot i = some q) (admitted : q.state = .admitted) :
    s.defineAtDu f = s.offerDefine f i q := by
  simp only [State.defineAtDu, on, index, slot, admitted, if_true]

theorem offerDefine_again {s : State} {f : Frame} {q : RosterSlot} (i : Nat) (again : q.lastDefine = some (fieldAt f.body 1 1)) :
    s.offerDefine f i q = s := if_pos again

theorem offerDefine_lost {s : State} {f : Frame} {q : RosterSlot} (i : Nat) (new : q.lastDefine ≠ some (fieldAt f.body 1 1))
    (lost : DefineBody.parse f.body = none ∨ 8 ≤ s.du.queue.length) : s.offerDefine f i q = s.countReceivedLost := by
  rw [State.offerDefine, if_neg new]
  cases parsed : DefineBody.parse f.body with
  | none => rfl
  | some d =>
    have full : 8 ≤ s.du.queue.length := lost.resolve_left (by simp [parsed])
    exact if_neg (Nat.not_lt.mpr full)

theorem offerDefine_joins {s : State} {f : Frame} {q : RosterSlot} {d : DefineBody} (i : Nat)
    (new : q.lastDefine ≠ some (fieldAt f.body 1 1)) (parsed : DefineBody.parse f.body = some d) (room : s.du.queue.length < 8) :
    s.offerDefine f i q =
      (s.setDu { s.du with queue := s.du.queue ++ [d.entry q.station (fieldAt f.body 1 1)] }).setSlot i
        (some { q with lastDefine := some (fieldAt f.body 1 1) }) := by
  simp only [State.offerDefine, if_neg new, parsed, if_pos room]

/-- The frame taken off the queue and its station's slot refreshed. -/
def State.defineTaken (s : State) (rest : List Frame) (i : Nat) (q : RosterSlot) : State :=
  (s.setLnc { s.lnc with queue := rest }).setSlot i (some (s.refreshedSlot q))

theorem deliverDefine_eq {s : State} {f : Frame} {rest : List Frame} {i : Nat} {q : RosterSlot} (queue : s.lnc.queue = f :: rest)
    (kind : f.kind = .define) (index : s.roster.indexOf f.station = some i) (slot : s.roster.slot i = some q)
    (here : q.state ≠ .lapsed) : s.deliverDefine = (s.defineTaken rest i q).defineAtDu f := by
  simp only [State.deliverDefine, State.deliver, queue, if_pos kind]
  rw [refreshSlot_known (s := s.setLnc { s.lnc with queue := rest }) index slot here]
  rfl

theorem slot_setSlot_same {s : State} {i : Nat} (x : Option RosterSlot) (lt : i < 16) : (s.setSlot i x).roster.slot i = x := by
  rw [State.setSlot, State.setRoster_roster, roster_setSlot, if_pos ⟨rfl, lt⟩]

theorem slot_setSlot_other {s : State} {i j : Nat} (x : Option RosterSlot) (other : j ≠ i) :
    (s.setSlot i x).roster.slot j = s.roster.slot j := by
  rw [State.setSlot, State.setRoster_roster, roster_setSlot, if_neg fun h => other h.1.symm]

/-- A DEFINE frame leaves every other slot of the roster and the count of refused stations. -/
theorem offerDefine_roster (s : State) (f : Frame) (i : Nat) (q : RosterSlot) :
    (∀ j, j ≠ i → (s.offerDefine f i q).roster.slot j = s.roster.slot j) ∧ (s.offerDefine f i q).roster.refused = s.roster.refused := by
  unfold State.offerDefine
  split
  · exact ⟨fun _ _ => rfl, rfl⟩
  · split
    · exact ⟨fun _ _ => rfl, rfl⟩
    · split
      · exact ⟨fun j other => slot_setSlot_other _ other, rfl⟩
      · exact ⟨fun _ _ => rfl, rfl⟩

/-! ## GO's checks (R20, R190) -/

theorem exec_go (ps : List Byte) (s : State) : exec (.go ps) s = .next (s.go ps) := rfl

theorem exec_defOperationEnd (s : State) : exec .defOperationEnd s = .next s.defOperationEnd := rfl

theorem takenIn_go {s : State} (start : s.online = false) : takenIn 4 s.online = true := by
  rw [start]
  decide

theorem go_taken {s : State} (idle : s.lcp.inFlight = none) (start : s.online = false) : s.go [] = (s.taking 4 []).goTaken :=
  takeCommand_checked _ idle (by decide) (takenIn_go start) rfl

theorem goCheck_noConfig {s : State} (none : s.lcp.config = none) : goCheck s.lcp.config = some .noConfig := by
  rw [none]
  rfl

theorem goCheck_station {s : State} {g : Settings} (config : s.lcp.config = some g) (bad : g.station = 0 ∨ 30 < g.station) :
    goCheck s.lcp.config = some .station := by
  rw [config]
  exact if_pos bad

theorem goCheck_roles {s : State} {g : Settings} (config : s.lcp.config = some g) (low : 1 ≤ g.station) (high : g.station ≤ 30)
    (writer : g.writer = false) (viewer : g.viewer = false) : goCheck s.lcp.config = some .roles := by
  rw [config]
  exact (if_neg (by omega)).trans (if_pos ⟨writer, viewer⟩)

theorem goCheck_passes {s : State} {g : Settings} (config : s.lcp.config = some g) (low : 1 ≤ g.station) (high : g.station ≤ 30)
    (role : g.writer = true ∨ g.viewer = true) : goCheck s.lcp.config = none := by
  rw [config]
  refine (if_neg (by omega)).trans (if_neg fun ⟨writer, viewer⟩ => ?_)
  simp [writer, viewer] at role

/-- A GO whose record fails a check is REFUSED with the reason of the check. -/
theorem go_refused {s : State} {r : GoReason} (idle : s.lcp.inFlight = none) (start : s.online = false)
    (fails : goCheck s.lcp.config = some r) :
    SameBut [.lcp] s (s.go []) ∧ InFlight (s.go []) 4 [] ∧ Answers (s.go []) .refused (leBytes 1 r.code) := by
  have eq : s.go [] = (s.taking 4 []).refuseGo r := by
    rw [go_taken idle start, State.goTaken, show goCheck (s.taking 4 []).lcp.config = some r from fails]
  rw [eq]
  exact ⟨(frame_taking s 4 []).trans (frame_reply _ _ _), (inFlight_taking s 4 (by decide)).keep rfl, answers_reply _ _ _⟩

theorem goDirectory_more {s : State} {got : List Byte} (more : got.length < 64) :
    s.goDirectory got = (s.setDu { s.du with work := .goDirectory got }).request .defn (.read got.length 16) := if_pos more

theorem goDirectory_fails {s : State} {got : List Byte} (whole : 64 ≤ got.length) (bad : directoryOk got = false) :
    s.goDirectory got = s.goFails .directory := by
  simp [State.goDirectory, Nat.not_lt.mpr whole, bad]

theorem goDirectory_bounds {s : State} {got : List Byte} (whole : 64 ≤ got.length) (good : directoryOk got = true)
    (bad : caseBoundsOk (Directory.ofBytes got) = false) : s.goDirectory got = s.goFails .caseBounds := by
  simp [State.goDirectory, Nat.not_lt.mpr whole, good, bad]

/-- The CASE bounds leave nothing wrong with the root: the scan reads its header. -/
theorem startScan_reads {d : Directory} (bounds : caseBoundsOk d = true) :
    startScan d = .read d.caseRoot 8
      { tables := [], want := .header d.caseRoot, reached := [], textTop := none, fixes := [] } := by
  simp only [caseBoundsOk, Directory.inCells, inside, Bool.and_eq_true, decide_eq_true_eq] at bounds
  obtain ⟨⟨⟨⟨⟨⟨⟨⟨⟨⟨⟨⟨⟨⟨_, aligned⟩, low, high⟩, cells⟩, _⟩, _⟩, _⟩, _⟩, _⟩, _⟩, _⟩, _⟩, _⟩, _⟩, _⟩ := bounds
  refine scanEnter_reads _ aligned ?_ rfl
  simp only [Directory.inCells, inside, Bool.and_eq_true, decide_eq_true_eq]
  exact ⟨low, by omega⟩

theorem goDirectory_scans {s : State} {got : List Byte} {d : Directory} (whole : 64 ≤ got.length) (good : directoryOk got = true)
    (copy : d = Directory.ofBytes got) (bounds : caseBoundsOk d = true) :
    s.goDirectory got =
      (s.setDu { s.du with dir := some d,
                           work := .goScan { tables := [], want := .header d.caseRoot, reached := [], textTop := none, fixes := [] } }).request
        .defn (.read d.caseRoot 8) := by
  subst copy
  simp only [State.goDirectory, if_neg (Nat.not_lt.mpr whole), good, bounds, startScan_reads bounds]
  rfl

/-- The end of a directory read hands the bytes read so far to the check. -/
theorem defOperationEnd_directory {s : State} {got : List Byte} {n : Nat} (work : s.du.work = .goDirectory got)
    (service : s.arb.inService = some { cls := .defn, op := .read got.length n }) :
    s.defOperationEnd = (s.endOperation { cls := .defn, op := .read got.length n }).goDirectory (got ++ s.mem.bytesAt got.length n) := by
  rw [defOperationEnd_serves service, State.duData, endOperation_du, work]
  rfl

/-- GO refused after an operation of the DU. -/
theorem goFails_after {s u : State} (ended : SameBut [.arb] s u) (r : GoReason) :
    SameBut [.du, .arb, .lcp] s (u.goFails r) ∧ (u.goFails r).du = { s.du with work := .idle, dir := none }
    ∧ (u.goFails r).arb = u.arb ∧ Answers (u.goFails r) .refused (leBytes 1 r.code) := by
  refine ⟨ended.chain (frame_goFails u r) (by decide) (by decide), ?_, rfl, answers_reply _ _ _⟩
  rw [← ended.du (by decide)]
  rfl

end Sys2Proof.Machine

open Sys2Proof Sys2Proof.Machine

/-- Settles O11: the xor of a stroke with itself shifted down 11 bits, as numbers. -/
theorem theBucketIsTheFoldModulo : Obligations.TheBucketIsTheFoldModulo := by
  unfold Obligations.TheBucketIsTheFoldModulo
  exact ⟨fold_eq, fun _ _ => rfl, fun _ => Nat.mod_one _, fun _ _ => rfl⟩

/-- Settles O55: a command whose parameters pass their check hands the queue one entry; the queue has room for it or not. -/
theorem defineAndForgetJoinTheQueue : Obligations.DefineAndForgetJoinTheQueue := by
  unfold Obligations.DefineAndForgetJoinTheQueue
  constructor
  · intro ps s idle online short
    simp only [exec_define]
    refine ⟨fun vs text share good => ?_, fun bad => ⟨_, rfl, takeCommand_range _ idle short (takenIn_online (by decide) online) bad⟩⟩
    rw [hostDefine_sound idle short online good]
    exact ⟨fun room => ⟨_, rfl, taking_queueEntry_joins 6 _ short room⟩, fun full => ⟨_, rfl, taking_queueEntry_full 6 ps _ full⟩⟩
  · intro ps s idle online short
    simp only [exec_forget]
    refine ⟨fun vs good => ?_, fun bad => ⟨_, rfl, takeCommand_range _ idle short (takenIn_online (by decide) online) bad⟩⟩
    rw [hostForget_sound idle short online good]
    exact ⟨fun room => ⟨_, rfl, taking_queueEntry_joins 7 _ short room⟩, fun full => ⟨_, rfl, taking_queueEntry_full 7 ps _ full⟩⟩

/-- Settles O53: the record's check at the take, and the four ways on from a directory read. -/
theorem goChecksTheRecordAndTheDirectory : Obligations.GoChecksTheRecordAndTheDirectory := by
  unfold Obligations.GoChecksTheRecordAndTheDirectory
  constructor
  · intro s idle start
    simp only [exec_go]
    refine ⟨fun no => ⟨_, rfl, go_refused idle start (goCheck_noConfig no)⟩,
      fun g config bad => ⟨_, rfl, go_refused idle start (goCheck_station config bad)⟩,
      fun g config low high writer viewer => ⟨_, rfl, go_refused idle start (goCheck_roles config low high writer viewer)⟩, ?_,
      fun ps some short => ⟨_, rfl, takeCommand_range _ idle short (takenIn_go start) (noParams_of_ne some)⟩⟩
    intro g config low high role
    have taken : s.go [] = (s.taking 4 []).goDirectory [] := by
      rw [go_taken idle start, State.goTaken, show goCheck (s.taking 4 []).lcp.config = none from goCheck_passes config low high role]
    refine ⟨_, rfl, ?_⟩
    rw [taken, goDirectory_more (got := []) (by decide)]
    refine ⟨?_, (inFlight_taking s 4 (Nat.zero_le _)).keep rfl, rfl, rfl, rfl⟩
    exact (frame_taking s 4 []).chain (zs := [.lcp, .du, .arb])
      ((frame_setDu _ _).chain (zs := [.du, .arb]) (frame_request _ _ _) (by decide) (by decide)) (by decide) (by decide)
  · intro s got n work service
    have ended := frame_endOperation_read s .defn got.length n
    have long : (got ++ s.mem.bytesAt got.length n).length = got.length + n := by rw [List.length_append, bytesAt_length]
    simp only [exec_defOperationEnd, defOperationEnd_directory work service, ← long]
    refine ⟨fun more => ⟨_, rfl, ?_⟩, fun whole bad => ⟨_, rfl, ?_⟩, fun whole good bad => ⟨_, rfl, ?_⟩,
      fun d whole good copy bounds => ⟨_, rfl, ?_⟩⟩
    · rw [goDirectory_more more]
      exact ⟨ended.chain ((frame_setDu _ _).chain (zs := [.du, .arb]) (frame_request _ _ _) (by decide) (by decide))
        (by decide) (by decide), rfl, rfl⟩
    · rw [goDirectory_fails whole bad]
      exact goFails_after ended .directory
    · rw [goDirectory_bounds whole good bad]
      exact goFails_after ended .caseBounds
    · rw [goDirectory_scans whole good copy bounds]
      exact ⟨ended.chain ((frame_setDu _ _).chain (zs := [.du, .arb]) (frame_request _ _ _) (by decide) (by decide))
        (by decide) (by decide), rfl, rfl⟩

/-- Settles O31: the frame taken and its slot refreshed leave the definition, which sharing, the last number, the body and the queue
send one of three ways. -/
theorem aReceivedDefinitionIsQueued : Obligations.AReceivedDefinitionIsQueued := by
  unfold Obligations.AReceivedDefinitionIsQueued
  intro s f rest i q queue kind index slot admitted
  have lt := slot_lt s.roster i q slot
  have eq := deliverDefine_eq queue kind index slot (by rw [admitted]; decide)
  refine ⟨_, (exec_deliverDefine s).trans (congrArg Host.Outcome.next eq), ?_⟩
  rw [← eq]
  refine ⟨(frame_deliverDefine s).mono (by decide), ?_⟩
  rw [eq]
  have taken : (s.defineTaken rest i q).roster.slot i = some (s.refreshedSlot q) := slot_setSlot_same _ lt
  have others : ∀ j, j ≠ i → (s.defineTaken rest i q).roster.slot j = s.roster.slot j := fun j other => slot_setSlot_other _ other
  have cfg : (s.defineTaken rest i q).cfg = s.cfg := rfl
  have offered : s.cfg.sharing.receives = true →
      (s.defineTaken rest i q).defineAtDu f = (s.defineTaken rest i q).offerDefine f i (s.refreshedSlot q) := fun on =>
    defineAtDu_admitted on ((indexOf_setSlot (q' := s.refreshedSlot q) slot rfl f.station).trans index) taken admitted
  have off : s.cfg.sharing.receives = false → (s.defineTaken rest i q).defineAtDu f = s.defineTaken rest i q := fun off =>
    defineAtDu_off f off
  refine ⟨((frame_defineAtDu _ f).lnc (by decide)).trans rfl, ?_, ?_, ?_, ?_, ?_⟩
  · intro j other
    cases on : s.cfg.sharing.receives with
    | true => rw [offered on, (offerDefine_roster _ f i _).1 j other, others j other]
    | false => rw [off on, others j other]
  · cases on : s.cfg.sharing.receives with
    | true => rw [offered on, (offerDefine_roster _ f i _).2]; rfl
    | false => rw [off on]; rfl
  · intro on new d parsed room
    rw [offered on, offerDefine_joins i (s := s.defineTaken rest i q) (q := s.refreshedSlot q) new parsed room]
    exact ⟨rfl, slot_setSlot_same _ lt⟩
  · intro on new lost
    rw [offered on, offerDefine_lost i (s := s.defineTaken rest i q) (q := s.refreshedSlot q) new lost]
    exact ⟨rfl, taken⟩
  · intro stays
    have same : (s.defineTaken rest i q).defineAtDu f = s.defineTaken rest i q := by
      cases on : s.cfg.sharing.receives with
      | true => exact (offered on).trans (offerDefine_again i (q := s.refreshedSlot q) (stays.resolve_left (by simp [on])))
      | false => exact off on
    rw [same]
    exact ⟨rfl, taken⟩
end

section
/-! SUPPORT. Fences and generation raises at the Translation Engine, and the end of FINISH; with them O30. -/

namespace Sys2Proof.Machine

/-! ## Marks and raises at the TE (R47, R49, R72) -/

theorem mapMarks_eq_marked (t : Te) (f : ReqMarks → ReqMarks) : t.mapMarks f = t.marked f := by
  obtain ⟨_, _, _, _, _, _, walk, _, _, _, _, _, _, _, _, _, _, retr, _⟩ := t
  cases walk with
  | none => cases retr <;> rfl
  | some w => cases w <;> cases retr <;> rfl

theorem mapMarks_mapMarks (t : Te) (f g : ReqMarks → ReqMarks) : (t.mapMarks f).mapMarks g = t.mapMarks fun m => g (f m) := by
  obtain ⟨_, _, _, _, _, _, walk, _, _, _, _, _, _, _, _, _, _, retr, _⟩ := t
  cases walk with
  | none => cases retr <;> rfl
  | some w => cases w <;> cases retr <;> rfl

theorem raised_eq (t : Te) : t.raised =
    { t with rewalkDue := if t.phase = .idle then t.rewalkDue else true,
             resolveAt := if t.phase = .hold then none else t.resolveAt } := by
  obtain ⟨_, _, _, _, phase, _, _, _, _, _, _, _, _, _, _, _, _, _, _⟩ := t
  cases phase <;> rfl

/-- A fence and the generation raise after it. -/
theorem raised_fenced (t : Te) :
    ((t.mapMarks fun m => { m with fenceSeen := true }).mapMarks fun m => { m with raiseSeen := true }).raised = t.fencedAndRaised := by
  rw [mapMarks_mapMarks, raised_eq, mapMarks_eq_marked]
  rfl

theorem fence_of_stroke {s : State} {v : Stroke} (layer : Nat) (stroke : v ≠ 0) : s.fence (.strokeLayer v layer) =
    (s.setCache (s.cache.fence (.strokeLayer v layer))).setTe (s.te.mapMarks fun m => { m with fenceSeen := true }) := by
  exact if_neg (by simpa [FenceScope.void] using stroke)

/-! ## FINISH (R36, R38, R39) -/

theorem exec_fenceComplete (s : State) : exec .fenceComplete s = .next s.fenceComplete := rfl

/-- The fence of the stroke `v` done, with those of `rest` left. -/
def State.fencedFor (s : State) (e : DefEntry) (ref : TextRef) (v : Stroke) (rest : List Stroke) : State :=
  (s.fence (.strokeLayer v 0)).setDu { s.du with work := .finish e ref rest }

theorem fenceComplete_more {s : State} {e : DefEntry} {ref : TextRef} {v w : Stroke} {rest : List Stroke}
    (work : s.du.work = .finish e ref (v :: w :: rest)) : s.fenceComplete = s.fencedFor e ref v (w :: rest) := by
  rw [State.fenceComplete, work]
  rfl

theorem fenceComplete_last {s : State} {e : DefEntry} {ref : TextRef} {v : Stroke} (work : s.du.work = .finish e ref [v]) :
    s.fenceComplete = ((s.fencedFor e ref v []).finishEntry e ref).settled := by
  rw [State.fenceComplete, work]
  rfl

theorem fenceComplete_none {s : State} (none : ∀ e ref v rest, s.du.work ≠ .finish e ref (v :: rest)) : s.fenceComplete = s := by
  rw [State.fenceComplete]
  split
  next e ref v rest work => exact absurd work (none e ref v rest)
  next => rfl

theorem fencedFor_parts {s : State} (e : DefEntry) (ref : TextRef) {v : Stroke} (rest : List Stroke) (stroke : v ≠ 0) :
    SameBut [.cache, .te, .du] s (s.fencedFor e ref v rest) ∧ (s.fencedFor e ref v rest).cache = s.cache.fence (.strokeLayer v 0)
    ∧ (s.fencedFor e ref v rest).du = { s.du with work := .finish e ref rest }
    ∧ (s.fencedFor e ref v rest).te = s.te.mapMarks fun m => { m with fenceSeen := true } := by
  refine ⟨(frame_fence s _).chain (frame_setDu _ _) (by decide) (by decide), ?_, rfl, ?_⟩ <;>
    rw [State.fencedFor, fence_of_stroke 0 stroke] <;> rfl

theorem handRetr_te (s : State) (h : Handing) : (s.handRetr h).te =
    if s.te.handings.length < 8 then { s.te with handings := s.te.handings ++ [h] }
    else { s.te with retrLost := satSucc s.te.retrLost } := by
  unfold State.handRetr
  split <;> rfl

theorem leaveService_lcp (s : State) (ev : Event) : (s.leaveService ev).lcp = s.lcp.latched ev := rfl

theorem leaveService_du (s : State) (ev : Event) : (s.leaveService ev).du = { s.du with work := .idle } := rfl

/-- FINISH of a FORGET. -/
theorem finishEntry_forget {e : DefEntry} (s : State) (ref : TextRef) (kind : e.kind = .forget) :
    s.finishEntry e ref = s.raiseGeneration.leaveService (.defineResult .forgotten e.first) := by
  rw [State.finishEntry, kind]

/-- The definition of `e` reported done and handed for retranslation. -/
def State.finishDefine (s : State) (e : DefEntry) (ref : TextRef) : State :=
  (s.raiseGeneration.handRetr { strokes := e.strokes, ref := ref }).leaveService (e.event .done .applied)

theorem frame_finishDefine (s : State) (e : DefEntry) (ref : TextRef) : SameBut [.du, .te, .latches] s (s.finishDefine e ref) :=
  ((frame_raiseGeneration s).chain (zs := [.du, .te]) (frame_handRetr _ _) (by decide) (by decide)).chain (frame_leaveService _ _)
    (by decide) (by decide)

theorem finishEntry_define {e : DefEntry} (s : State) (ref : TextRef) (kind : e.kind = .define) :
    s.finishEntry e ref = if e.source = 0 ∧ e.share = true ∧ s.cfg.sharing.sends = true then
      (s.finishDefine e ref).sendDefinition e.strokes e.text else s.finishDefine e ref := by
  have cfg : (s.finishDefine e ref).cfg = s.cfg := (frame_finishDefine s e ref).cfg (by decide)
  rw [← cfg, State.finishEntry, kind]
  rfl

/-- The TE after the last fence of FINISH and the raise. -/
theorem raiseGeneration_fenced {s : State} (e : DefEntry) (ref : TextRef) {v : Stroke} (stroke : v ≠ 0) :
    (s.fencedFor e ref v []).raiseGeneration.te = s.te.fencedAndRaised := by
  obtain ⟨_, _, _, te⟩ := fencedFor_parts (s := s) e ref [] stroke
  rw [State.raiseGeneration, State.setTe_te, te, raised_fenced]

theorem finishDefine_te {s : State} (e : DefEntry) (ref : TextRef) {v : Stroke} (stroke : v ≠ 0) :
    ((s.fencedFor e ref v []).finishDefine e ref).te =
      if s.te.handings.length < 8 then
        { s.te.fencedAndRaised with handings := s.te.handings ++ [{ strokes := e.strokes, ref := ref }] }
      else { s.te.fencedAndRaised with retrLost := satSucc s.te.retrLost } := by
  rw [State.finishDefine, (frame_leaveService _ _).te (by decide), handRetr_te, raiseGeneration_fenced e ref stroke]
  rfl

theorem finishDefine_du (s : State) (e : DefEntry) (ref : TextRef) :
    (s.finishDefine e ref).du = { s.du with work := .idle, generation := s.du.generation + 1 } := by
  rw [State.finishDefine, leaveService_du, (frame_handRetr _ _).du (by decide)]
  rfl

theorem finishDefine_lcp (s : State) (e : DefEntry) (ref : TextRef) :
    (s.finishDefine e ref).lcp = s.lcp.latched (e.event .done .applied) := by
  rw [State.finishDefine, leaveService_lcp, (frame_handRetr _ _).lcp (by decide) (by decide), raiseGeneration_lcp]

/-- Where a definition is shared or not, FINISH changes no block but the Publisher for it. -/
theorem finishEntry_define_parts {e : DefEntry} (s : State) (ref : TextRef) (kind : e.kind = .define) :
    SameBut [.pub] (s.finishDefine e ref) (s.finishEntry e ref) := by
  rw [finishEntry_define s ref kind]
  exact frame_ite (frame_sendDefinition _ _ _) (SameBut.refl _ _)

/-- A definition handed to a define send list with room (R134). -/
theorem sendDefinition_joins {s : State} (strokes : List Stroke) (text : List Byte) (free : s.cu.conflict = false)
    (room : s.pub.defines.length < 8) : (s.sendDefinition strokes text).pub =
      { s.pub with defines := s.pub.defines ++ [{ number := s.pub.nextDefine, strokes := strokes, text := text, attempts := 0 }],
                   nextDefine := (s.pub.nextDefine + 1) % 256 } := by
  simp [State.sendDefinition, free, room]

end Sys2Proof.Machine

open Sys2Proof Sys2Proof.Machine

/-- Settles O30: one fence alone while strokes are left, the fence and the end of the entry at the last, nothing else without one. -/
theorem finishFencesEveryStroke : Obligations.FinishFencesEveryStroke := by
  unfold Obligations.FinishFencesEveryStroke
  refine ⟨?_, ?_, fun s none => (exec_fenceComplete s).trans (congrArg Host.Outcome.next (fenceComplete_none none))⟩
  · intro s e ref v w rest stroke work
    obtain ⟨frame, cache, du, te⟩ := fencedFor_parts (s := s) e ref (w :: rest) stroke
    exact ⟨_, congrArg Host.Outcome.next (fenceComplete_more work), frame, cache, du, te.trans (mapMarks_eq_marked _ _)⟩
  · intro s e ref v stroke work
    obtain ⟨fenced, cache, du, -⟩ := fencedFor_parts (s := s) e ref [] stroke
    have ended := frame_finishEntry (s.fencedFor e ref v []) e ref
    refine ⟨_, congrArg Host.Outcome.next (fenceComplete_last work), fenced.chain ended (by decide) (by decide),
      (ended.cache (by decide)).trans cache, ?_, ?_, ?_⟩
    · cases kind : e.kind with
      | forget => rw [finishEntry_forget _ ref kind]; rfl
      | define => rw [(finishEntry_define_parts _ ref kind).du (by decide), finishDefine_du]; rfl
    · intro kind
      rw [finishEntry_forget _ ref kind]
      refine ⟨?_, ?_, raiseGeneration_fenced e ref stroke⟩
      · rw [leaveService_lcp, raiseGeneration_lcp, fenced.lcp (by decide) (by decide)]
        rfl
      · rw [(frame_leaveService _ _).pub (by decide), raiseGeneration_pub, fenced.pub (by decide)]
    · intro kind
      have same := finishEntry_define_parts (s.fencedFor e ref v []) ref kind
      have done := fenced.chain (zs := [.cache, .te, .du, .latches]) (frame_finishDefine (s.fencedFor e ref v []) e ref)
        (by decide) (by decide)
      rw [same.lcp (by decide) (by decide), same.te (by decide), finishDefine_lcp, finishDefine_te e ref stroke,
        fenced.lcp (by decide) (by decide), finishEntry_define _ ref kind, fenced.cfg (by decide)]
      refine ⟨rfl, fun room => if_pos room, fun full => if_neg (Nat.not_lt.mpr full), ?_, ?_⟩
      · intro shared free room
        rw [if_pos shared, sendDefinition_joins e.strokes e.text, done.pub (by decide)]
        · rwa [done.cu (by decide)]
        · rwa [done.pub (by decide)]
      · intro own
        rw [if_neg own, done.pub (by decide)]
end

section
/-! SUPPORT. The steps of a lookup and of a text fetch, and what the walk side makes of them; with them O24. -/

namespace Sys2Proof.Machine

/-! ## A read that has ended (R52, R54) -/

/-- `u` is `s` with the read in service ended, and nothing else done. -/
def ReadDone (s u : State) : Prop := SameBut [.arb] s u ∧ u.arb = s.arb.next

theorem readDone_endOperation (s : State) (c : MemClass) (a n : Nat) : ReadDone s (s.endOperation { cls := c, op := .read a n }) :=
  ⟨frame_endOperation_read s c a n, rfl⟩

section
variable {s u : State}

theorem ReadDone.te (h : ReadDone s u) : u.te = s.te := h.1.te (by decide)
theorem ReadDone.du (h : ReadDone s u) : u.du = s.du := h.1.du (by decide)
theorem ReadDone.lcp (h : ReadDone s u) : u.lcp = s.lcp := h.1.lcp (by decide) (by decide)
theorem ReadDone.cache (h : ReadDone s u) : u.cache = s.cache := h.1.cache (by decide)

theorem ReadDone.dir (h : ReadDone s u) : u.dir = s.dir := by
  rw [State.dir, State.dir, h.du]

end

/-! ## Faults (R26) -/

theorem mem_faultIf {c : Bool} {kind : FaultKind} {a : Nat} {x : Damage} : x ∈ faultIf c kind a ↔ c = true ∧ x = (kind, a) := by
  cases c <;> simp [faultIf]

/-- What is wrong with a table once its exponent is read (R25 step 2, R26; R32 for the DU). -/
theorem mem_tableFaults {d : Directory} {du : Bool} {t b : Nat} {x : Damage} : x ∈ tableFaults d du t b ↔
    (12 < b ∧ x = (.exponent, t)) ∨ (b ≤ 12 ∧ memSize < t + tableBytes b ∧ x = (.address, t))
    ∨ (b ≤ 12 ∧ (du = true ∧ d.inCells t (tableBytes b) = false) ∧ x = (.region, t)) := by
  unfold tableFaults
  by_cases past : 12 < b
  · simp [past, Nat.not_le.mpr past]
  · simp [past, mem_faultIf, Nat.not_lt.mp past]

/-- What is wrong with a bucket head or a chain link (R26; R32 for the DU). -/
theorem mem_cellAddressFaults {d : Directory} {du : Bool} {a holder : Nat} {x : Damage} : x ∈ cellAddressFaults d du a holder ↔
    (a % 16 ≠ 0 ∧ x = (.address, holder)) ∨ ((du = true ∧ d.inCells a 16 = false) ∧ x = (.region, a)) := by
  simp [cellAddressFaults, mem_faultIf]

theorem textFits_iff (d : Directory) (layer : Nat) (t : TextRef) : d.textFits layer t = true ↔
    if layer = 0 then d.heapStart ≤ t.addr ∧ t.addr + t.len ≤ d.heapStart + d.heapSize
    else if layer = 1 then d.jobTextStart ≤ t.addr ∧ t.addr + t.len ≤ d.jobTextStart + d.jobTextSize
    else d.mainTextStart ≤ t.addr ∧ t.addr + t.len ≤ d.mainTextStart + d.mainTextSize := by
  match layer with
  | 0 => simp [Directory.textFits, Directory.textRegion, inside]
  | 1 => simp [Directory.textFits, Directory.textRegion, inside]
  | n + 2 => simp [Directory.textFits, Directory.textRegion, inside]

/-- What is wrong with a cell's own bytes (R26). -/
theorem mem_cellFaults {d : Directory} {layer a : Nat} {c : CellData} {kind : FaultKind} {x : Nat} :
    (kind, x) ∈ cellFaults d layer a c ↔ x = a
      ∧ ((kind = .address ∧ (c.link % 16 ≠ 0 ∨ (c.hasNext = true ∧ (c.next = 0 ∨ c.next % 8 ≠ 0))))
        ∨ (kind = .spare ∧ (8388608 ≤ c.stroke ∨ c.spare ≠ 0 ∨ 8 ≤ c.flags.toNat ∨ (layer ≠ 0 ∧ c.origin ≠ 0)))
        ∨ (kind = .length ∧ c.hasText = true ∧ (c.text.len = 0 ∨ 120 < c.text.len))
        ∨ (kind = .textRange ∧ c.hasText = true ∧ ¬ d.textFits layer c.text = true)) := by
  simp only [cellFaults, List.mem_append, mem_faultIf, clearFrom, Prod.mk.injEq, Bool.or_eq_true, Bool.and_eq_true, Bool.not_eq_true',
    decide_eq_true_eq, decide_eq_false_iff_not, Nat.not_lt, Bool.not_eq_true, or_assoc, and_assoc]
  constructor
  · rintro (⟨wrong, rfl, rfl⟩ | ⟨wrong, rfl, rfl⟩ | ⟨text, wrong, rfl, rfl⟩ | ⟨text, wrong, rfl, rfl⟩)
    · exact ⟨rfl, .inl ⟨rfl, wrong⟩⟩
    · exact ⟨rfl, .inr (.inl ⟨rfl, wrong⟩)⟩
    · exact ⟨rfl, .inr (.inr (.inl ⟨rfl, text, wrong⟩))⟩
    · exact ⟨rfl, .inr (.inr (.inr ⟨rfl, text, wrong⟩))⟩
  · rintro ⟨rfl, ⟨rfl, wrong⟩ | ⟨rfl, wrong⟩ | ⟨rfl, text, wrong⟩ | ⟨rfl, text, wrong⟩⟩
    · exact .inl ⟨wrong, rfl, rfl⟩
    · exact .inr (.inl ⟨wrong, rfl, rfl⟩)
    · exact .inr (.inr (.inl ⟨text, wrong, rfl, rfl⟩))
    · exact .inr (.inr (.inr ⟨text, wrong, rfl, rfl⟩))

/-! ## The steps of a lookup (R25) -/

theorem fieldAt_bytesAt_first (m : Memory) (a n : Nat) : fieldAt (m.bytesAt a (n + 1)) 0 1 = (m.byteAt a).toNat := by
  simp [fieldAt, Memory.bytesAt, leNat]

section
variable {d : Directory} {k : Lookup} {bs : List Byte}

theorem lookupStep_header_fault (stage : k.stage = .header) (faulty : tableFaults d k.duRules k.table (fieldAt bs 0 1) ≠ []) :
    ∃ x ∈ tableFaults d k.duRules k.table (fieldAt bs 0 1), lookupStep d k bs = .fault x := by
  obtain ⟨x, mem, picked⟩ := pickFault_mem _ faulty
  exact ⟨x, mem, by simp only [lookupStep, stage, picked]⟩

/-- A lookup with the header of its table read: the bucket head is next. -/
def Lookup.atHead (k : Lookup) (bs : List Byte) : Lookup :=
  { k with stage := .head, exponent := fieldAt bs 0 1, cellCount := fieldAt bs 1 2,
           headAddr := k.table + 8 + 3 * bucketOf k.stroke (fieldAt bs 0 1) }

theorem lookupStep_header_reads (stage : k.stage = .header) (sound : tableFaults d k.duRules k.table (fieldAt bs 0 1) = []) :
    lookupStep d k bs = .read (k.atHead bs).headAddr 3 (k.atHead bs) := by
  simp only [lookupStep, stage, sound, pickFault]
  rfl

theorem lookupStep_head_empty (stage : k.stage = .head) (empty : fieldAt bs 0 3 = 0) :
    lookupStep d k bs = .noEntry { k with head := 0 } := by
  simp only [lookupStep, stage, empty, if_true]

theorem readCell_fault {a holder : Nat} (prev : Option (Nat × List Byte)) (faulty : cellAddressFaults d k.duRules a holder ≠ []) :
    ∃ x ∈ cellAddressFaults d k.duRules a holder, readCell d k a holder prev = .fault x := by
  obtain ⟨x, mem, picked⟩ := pickFault_mem _ faulty
  exact ⟨x, mem, by simp only [readCell, picked]⟩

theorem readCell_reads {a holder : Nat} (prev : Option (Nat × List Byte)) (sound : cellAddressFaults d k.duRules a holder = []) :
    readCell d k a holder prev = .read a 16 { k with stage := .cell, cellAddr := a, place := k.place + 1, prev := prev } := by
  simp only [readCell, sound, pickFault]

theorem lookupStep_head_cell (stage : k.stage = .head) (some : fieldAt bs 0 3 ≠ 0) :
    lookupStep d k bs = readCell d { k with head := fieldAt bs 0 3 } (fieldAt bs 0 3) k.table none := by
  simp only [lookupStep, stage, if_neg some]

theorem lookupStep_cell_fault (stage : k.stage = .cell) (faulty : cellFaults d k.layer k.cellAddr (CellData.ofBytes bs) ≠ []) :
    ∃ x ∈ cellFaults d k.layer k.cellAddr (CellData.ofBytes bs), lookupStep d k bs = .fault x := by
  obtain ⟨x, mem, picked⟩ := pickFault_mem _ faulty
  exact ⟨x, mem, by simp only [lookupStep, stage, picked]⟩

variable (stage : k.stage = .cell) (sound : cellFaults d k.layer k.cellAddr (CellData.ofBytes bs) = [])
include stage sound

theorem lookupStep_cell_found (same : (CellData.ofBytes bs).stroke = k.stroke.toNat) : lookupStep d k bs = .found k bs := by
  simp [lookupStep, stage, sound, pickFault, chainLimit, same]

theorem lookupStep_cell_last (differ : (CellData.ofBytes bs).stroke ≠ k.stroke.toNat) (last : (CellData.ofBytes bs).link = 0) :
    lookupStep d k bs = .noEntry k := by
  simp [lookupStep, stage, sound, pickFault, chainLimit, differ, last]

theorem lookupStep_cell_limit (differ : (CellData.ofBytes bs).stroke ≠ k.stroke.toNat) (more : (CellData.ofBytes bs).link ≠ 0)
    (limit : 24 ≤ k.place) : lookupStep d k bs = .fault (.chainLimit, k.table) := by
  simp [lookupStep, stage, sound, pickFault, chainLimit, differ, more, limit]

theorem lookupStep_cell_chain (differ : (CellData.ofBytes bs).stroke ≠ k.stroke.toNat) (more : (CellData.ofBytes bs).link ≠ 0)
    (short : k.place < 24) :
    lookupStep d k bs = readCell d k (CellData.ofBytes bs).link k.cellAddr (some (k.cellAddr, bs)) := by
  simp [lookupStep, stage, sound, pickFault, chainLimit, differ, more, Nat.not_le.mpr short]

end

/-! ## The walk side's lookup (R25, R49) -/

section
variable {s u : State}

theorem walkLookup_read (done : ReadDone s u) (m : ReqMarks) (a n : Nat) (k : Lookup) :
    LookupGoesOn s (u.walkLookup m (.read a n k)) k m a n := by
  refine ⟨done.1.chain ((frame_setTe _ _).chain (zs := [.te, .arb]) (frame_request _ _ _) (by decide) (by decide)) (by decide) (by decide), ?_, ?_⟩
  · rw [← done.te]
    rfl
  · rw [← done.2]
    rfl

theorem walkLookup_fault (done : ReadDone s u) (m : ReqMarks) (x : Damage) : LookupFaults s (u.walkLookup m (.fault x)) m x.1 x.2 := by
  have latched : SameBut [.arb, .latches] s (u.latchDamage u.te.stepLayer x) := done.1.chain (frame_latch _ _) (by decide) (by decide)
  rw [State.walkLookup]
  unfold LookupFaults
  rw [← done.te, ← done.2, ← done.lcp]
  cases m.raiseSeen <;>
    exact ⟨latched.chain (frame_setTe _ _) (by decide) (by decide), rfl, rfl, rfl⟩

theorem walkLookup_noEntry (done : ReadDone s u) (m : ReqMarks) (k : Lookup) :
    SameBut [.te, .arb] s (u.walkLookup m (.noEntry k)) ∧ LookupEnds s (u.walkLookup m (.noEntry k)) k m .off := by
  rw [State.walkLookup]
  unfold LookupEnds
  rw [← done.te, ← done.2]
  cases m.raiseSeen <;>
    exact ⟨done.1.chain (frame_setTe _ _) (by decide) (by decide), rfl, rfl⟩

theorem walkLookup_found (done : ReadDone s u) (m : ReqMarks) (k : Lookup) (bs : List Byte) :
    SameBut [.cache, .te, .arb] s (u.walkLookup m (.found k bs))
    ∧ LookupEnds s (u.walkLookup m (.found k bs)) k m (.at ((CellData.ofBytes bs).content k.cellAddr))
    ∧ (u.walkLookup m (.found k bs)).cache = (if m.raiseSeen = true ∨ m.fenceSeen = true then s.cache
        else s.cache.fill { layer := k.layer, table := k.table, stroke := k.stroke,
                            content := (CellData.ofBytes bs).content k.cellAddr }) := by
  rw [State.walkLookup]
  unfold LookupEnds
  rw [← done.te, ← done.2, ← done.cache]
  have te : ∀ x, SameBut [.cache, .te, .arb] s (u.setTe x) := fun x => done.1.chain (frame_setTe _ _) (by decide) (by decide)
  cases m.raiseSeen with
  | true => exact ⟨te _, ⟨rfl, rfl⟩, rfl⟩
  | false =>
    cases m.fenceSeen with
    | true => exact ⟨te _, ⟨rfl, rfl⟩, rfl⟩
    | false =>
      refine ⟨?_, ⟨rfl, rfl⟩, rfl⟩
      exact done.1.chain ((frame_setCache _ _).chain (zs := [.cache, .te]) (frame_setTe _ _) (by decide) (by decide)) (by decide) (by decide)

end

/-! ## Text fetches (R27) -/

theorem firstBad_none {bs : List Byte} (good : ∀ b ∈ bs, inTextCode b = true) : firstBad bs = none := by
  induction bs with
  | nil => rfl
  | cons b bs ih =>
    obtain ⟨first, rest⟩ := List.forall_mem_cons.mp good
    simp only [firstBad, first, if_true, ih rest]

/-- The first byte outside the code, of those read from an address. -/
theorem firstBad_bytesAt (m : Memory) (n : Nat) : ∀ a i : Nat, i < n → (∀ j, j < i → inTextCode (m.byteAt (a + j)) = true) →
    inTextCode (m.byteAt (a + i)) = false → firstBad (m.bytesAt a n) = some i := by
  induction n with
  | zero => exact fun a i short => absurd short (Nat.not_lt_zero i)
  | succ n ih =>
    intro a i short good bad
    cases i with
    | zero => simp [Memory.bytesAt, firstBad, show inTextCode (m.byteAt a) = false from bad]
    | succ i =>
      have first : inTextCode (m.byteAt a) = true := good 0 (Nat.zero_lt_succ i)
      have rest : firstBad (m.bytesAt (a + 1) n) = some i := by
        refine ih (a + 1) i (Nat.lt_of_succ_lt_succ short) (fun j lt => ?_) ?_
        · rw [Nat.add_assoc, Nat.add_comm 1 j]
          exact good (j + 1) (Nat.succ_lt_succ lt)
        · rw [Nat.add_assoc, Nat.add_comm 1 i]
          exact bad
      simp only [Memory.bytesAt, firstBad, first, if_true, rest]

section
variable {t : TextRef} {got bs : List Byte}

theorem fetchStep_text (good : ∀ b ∈ bs, inTextCode b = true) (whole : t.len ≤ (got ++ bs).length) :
    fetchStep t got bs = .text (got ++ bs) := by
  simp only [fetchStep, firstBad_none good, if_pos whole]

theorem fetchStep_more (good : ∀ b ∈ bs, inTextCode b = true) (left : (got ++ bs).length < t.len) :
    fetchStep t got bs = .more (got ++ bs) := by
  simp only [fetchStep, firstBad_none good, if_neg (Nat.not_le.mpr left)]

theorem fetchStep_bad {i : Nat} (bad : firstBad bs = some i) : fetchStep t got bs = .bad (t.addr + got.length + i) := by
  simp only [fetchStep, bad]

end

/-! ## The end of a WALK operation -/

theorem exec_walkReadEnd (s : State) : exec .walkReadEnd s = .next s.walkReadEnd := rfl

theorem walkReadEnd_serves {s : State} {a n : Nat} (h : s.arb.inService = some { cls := .walk, op := .read a n }) :
    s.walkReadEnd = ((s.endOperation { cls := .walk, op := .read a n }).walkData (s.mem.bytesAt a n)).settled := by
  have serving : s.serving .walk = some { cls := .walk, op := .read a n } := by rw [State.serving, h]; rfl
  rw [State.walkReadEnd, serving]
  rfl

theorem walkReadEnd_idle {s : State} (none : s.serving .walk = none) : s.walkReadEnd = s := by
  rw [State.walkReadEnd, none]

/-- The end of a WALK read that a lookup waited for: the lookup's step, taken by the walk side. -/
theorem walkReadEnd_lookup {s : State} {k : Lookup} {m : ReqMarks} {a n : Nat} (req : s.te.walkReq = some (.lookup k m))
    (service : s.arb.inService = some { cls := .walk, op := .read a n }) :
    s.walkReadEnd = ((s.endOperation { cls := .walk, op := .read a n }).walkLookup m
      (lookupStep s.dir k (s.mem.bytesAt a n))).settled := by
  rw [walkReadEnd_serves service, State.walkData, endOperation_te, req, (readDone_endOperation s .walk a n).dir]

/-- The end of a WALK read that a text fetch waited for. -/
theorem walkReadEnd_fetch {s : State} {r : LayerRef} {k : Nat} {got : List Byte} {m : ReqMarks} {a n : Nat}
    (req : s.te.walkReq = some (.fetch r k got m)) (service : s.arb.inService = some { cls := .walk, op := .read a n }) :
    s.walkReadEnd = ((s.endOperation { cls := .walk, op := .read a n }).walkFetch r k m
      (fetchStep r.ref got (s.mem.bytesAt a n))).settled := by
  rw [walkReadEnd_serves service, State.walkData, endOperation_te, req]

section
variable {s u : State} {r : LayerRef} {k : Nat} {m : ReqMarks}

/-- The walk's text fetch has its text whole (R27, R49, R64). -/
theorem walkFetch_text (done : ReadDone s u) (all : List Byte) :
    SameBut [.te, .arb] s (u.walkFetch r k m (.text all)) ∧ (u.walkFetch r k m (.text all)).arb = s.arb.next
    ∧ (u.walkFetch r k m (.text all)).te =
      { s.te with walkReq := none, kept := if m.raiseSeen = true then s.te.kept else some { ref := r.ref, text := all } } := by
  rw [State.walkFetch, ← done.te, ← done.2]
  have te : ∀ x, SameBut [.te, .arb] s (u.setTe x) := fun x => done.1.chain (frame_setTe _ _) (by decide) (by decide)
  cases m.raiseSeen <;> exact ⟨te _, rfl, rfl⟩

/-- The walk's text fetch goes on (R27, log 26). -/
theorem walkFetch_more (done : ReadDone s u) (all : List Byte) :
    SameBut [.te, .arb] s (u.walkFetch r k m (.more all))
    ∧ (u.walkFetch r k m (.more all)).te = { s.te with walkReq := some (.fetch r k all m) }
    ∧ (u.walkFetch r k m (.more all)).arb = s.arb.next.request { cls := .walk, op := fetchOp r.ref all.length } := by
  rw [State.walkFetch, ← done.te, ← done.2]
  exact ⟨done.1.chain ((frame_setTe _ _).chain (zs := [.te, .arb]) (frame_request _ _ _) (by decide) (by decide))
    (by decide) (by decide), rfl, rfl⟩

/-- The walk's text fetch has met a byte outside the code (R27, R64). -/
theorem walkFetch_bad (done : ReadDone s u) (a : Nat) :
    SameBut [.te, .arb, .latches] s (u.walkFetch r k m (.bad a)) ∧ (u.walkFetch r k m (.bad a)).arb = s.arb.next
    ∧ (u.walkFetch r k m (.bad a)).lcp = s.lcp.latched (.dictFault r.layer .textCode a)
    ∧ (u.walkFetch r k m (.bad a)).te = (if m.raiseSeen = true then { s.te with walkReq := none } else s.te.dropRef k r) := by
  rw [State.walkFetch, ← done.te, ← done.2, ← done.lcp]
  have latched : SameBut [.arb, .latches] s (u.latchDamage r.layer (.textCode, a)) :=
    done.1.chain (frame_latch _ _) (by decide) (by decide)
  cases m.raiseSeen <;> exact ⟨latched.chain (frame_setTe _ _) (by decide) (by decide), rfl, rfl, rfl⟩

end

end Sys2Proof.Machine

open Sys2Proof Sys2Proof.Machine

/-- Settles O24: at each stage the lookup's step by what the read gave, then what the walk side makes of that step; a text fetch in the
same way. -/
theorem aWalkReadEndsItsRequest : Obligations.AWalkReadEndsItsRequest := by
  unfold Obligations.AWalkReadEndsItsRequest
  refine ⟨?_, ?_, ?_, ?_, ?_, fun s none => (exec_walkReadEnd s).trans (congrArg Host.Outcome.next (walkReadEnd_idle none))⟩
  · intro s k m b req walk stage service exponent
    have done := readDone_endOperation s .walk k.table 8
    refine ⟨_, (exec_walkReadEnd s).trans (congrArg Host.Outcome.next (walkReadEnd_lookup req service)), ?_⟩
    obtain rfl : b = fieldAt (s.mem.bytesAt k.table 8) 0 1 := exponent.trans (fieldAt_bytesAt_first _ _ _).symm
    have faults := @mem_tableFaults s.dir k.duRules k.table (fieldAt (s.mem.bytesAt k.table 8) 0 1)
    simp only [walk, Bool.false_eq_true, false_and, and_false, or_false] at faults
    rw [← walk] at faults
    refine ⟨fun low fits => ?_, fun past => ?_, fun low past => ?_⟩
    · rw [lookupStep_header_reads stage (List.eq_nil_iff_forall_not_mem.mpr fun x mem => by have := faults.mp mem; omega)]
      exact walkLookup_read done m _ _ _
    · obtain ⟨x, mem, step⟩ := lookupStep_header_fault stage
        (List.ne_nil_of_mem (faults.mpr (.inl ⟨past, rfl⟩)))
      obtain ⟨-, rfl⟩ := (faults.mp mem).resolve_right (by omega)
      rw [step]
      exact walkLookup_fault done m _
    · obtain ⟨x, mem, step⟩ := lookupStep_header_fault stage
        (List.ne_nil_of_mem (faults.mpr (.inr ⟨low, past, rfl⟩)))
      obtain ⟨-, -, rfl⟩ := (faults.mp mem).resolve_left (by omega)
      rw [step]
      exact walkLookup_fault done m _
  · intro s k m h req walk stage service head
    have done := readDone_endOperation s .walk k.headAddr 3
    refine ⟨_, (exec_walkReadEnd s).trans (congrArg Host.Outcome.next (walkReadEnd_lookup req service)), ?_⟩
    subst head
    refine ⟨fun empty => ?_, fun some aligned => ?_, fun odd => ?_⟩
    · rw [lookupStep_head_empty stage empty]
      exact walkLookup_noEntry done m { k with head := 0 }
    · rw [lookupStep_head_cell stage some, readCell_reads none (List.eq_nil_iff_forall_not_mem.mpr fun x mem => by
        simpa [walk, aligned] using mem_cellAddressFaults.mp mem)]
      exact walkLookup_read done m _ _ _
    · rw [lookupStep_head_cell stage (by omega)]
      obtain ⟨x, mem, step⟩ := readCell_fault (k := { k with head := fieldAt (s.mem.bytesAt k.headAddr 3) 0 3 }) none
        (List.ne_nil_of_mem (mem_cellAddressFaults.mpr (.inl ⟨odd, rfl⟩)))
      obtain ⟨-, rfl⟩ := (mem_cellAddressFaults.mp mem).resolve_right (by simp [walk])
      rw [step]
      exact walkLookup_fault done m _
  · intro s k m bs c req walk stage service read fields
    have done := readDone_endOperation s .walk k.cellAddr 16
    refine ⟨_, (exec_walkReadEnd s).trans (congrArg Host.Outcome.next (walkReadEnd_lookup req service)), ?_⟩
    rw [← read]
    subst fields
    refine ⟨fun faulty => ?_, fun sound => ⟨fun same => ?_, fun differ last => ?_, fun differ more short => ?_,
      fun differ more limit => ?_⟩⟩
    · obtain ⟨x, mem, step⟩ := lookupStep_cell_fault stage faulty
      rw [step]
      exact ⟨x, mem, walkLookup_fault done m x⟩
    · rw [lookupStep_cell_found stage sound same]
      exact walkLookup_found done m k bs
    · rw [lookupStep_cell_last stage sound differ last]
      exact walkLookup_noEntry done m k
    · rw [lookupStep_cell_chain stage sound differ more short, readCell_reads _ (List.eq_nil_iff_forall_not_mem.mpr fun x mem => by
        simpa [walk, link_aligned sound] using mem_cellAddressFaults.mp mem)]
      exact stage ▸ walkLookup_read done m _ _ _
    · rw [lookupStep_cell_limit stage sound differ more limit]
      exact walkLookup_fault done m _
  · intro d layer a x kind c
    rw [mem_cellFaults, textFits_iff]
  · intro s r k got all m a n service req whole
    have done := readDone_endOperation s .walk a n
    have ended := (exec_walkReadEnd s).trans (congrArg Host.Outcome.next (walkReadEnd_fetch req service))
    subst whole
    refine ⟨fun good whole => ⟨_, ended, ?_⟩, fun good left => ⟨_, ended, ?_⟩, fun i short good bad => ⟨_, ended, ?_⟩⟩
    · rw [fetchStep_text good whole]
      exact walkFetch_text done _
    · rw [fetchStep_more good left]
      exact walkFetch_more done _
    · rw [fetchStep_bad (firstBad_bytesAt _ _ _ _ short good bad)]
      exact walkFetch_bad done _
end

section
/-! SUPPORT. The walk of PLAN, the writes of WRITE, and the end of PLAN; with them O28. -/

namespace Sys2Proof.Machine

/-! ## A lookup begins (R25 step 1, R32) -/

/-- What is wrong with a table's address before its header is read (R25 step 1; R32 for the DU). -/
theorem mem_tableAddressFaults {d : Directory} {du : Bool} {t : Nat} {x : Damage} : x ∈ tableAddressFaults d du t ↔
    (t % 8 ≠ 0 ∧ x = (.address, t)) ∨ ((du = true ∧ d.inCells t 8 = false) ∧ x = (.region, t)) := by
  simp [tableAddressFaults, mem_faultIf]

theorem tableAddressFaults_sound {d : Directory} {t : Nat} (aligned : t % 8 = 0) (inside : d.inCells t 8 = true) (du : Bool) :
    tableAddressFaults d du t = [] :=
  List.eq_nil_iff_forall_not_mem.mpr fun x mem => by simpa [aligned, inside] using mem_tableAddressFaults.mp mem

/-- A lookup before its first read. -/
def Lookup.starting (layer t : Nat) (v : Stroke) (du : Bool) : Lookup :=
  { layer := layer, table := t, stroke := v, duRules := du, stage := .header, exponent := 0, cellCount := 0, headAddr := 0, head := 0,
    cellAddr := 0, place := 0, prev := none }

theorem startLookup_reads {d : Directory} {t : Nat} {du : Bool} (layer : Nat) (v : Stroke) (sound : tableAddressFaults d du t = []) :
    startLookup d layer t v du = .read t 8 (.starting layer t v du) := by
  simp only [startLookup, sound, pickFault]
  rfl

theorem startLookup_fault {d : Directory} {t : Nat} {du : Bool} (layer : Nat) (v : Stroke) (faulty : tableAddressFaults d du t ≠ []) :
    ∃ x ∈ tableAddressFaults d du t, startLookup d layer t v du = .fault x := by
  obtain ⟨x, mem, picked⟩ := pickFault_mem _ faulty
  exact ⟨x, mem, by simp only [startLookup, picked]⟩

/-! ## PLAN (R32) -/

theorem event_fault (e : DefEntry) : e.event .fault .fault =
    if e.source = 0 then .defineResult .fault (e.strokes.headD 0) else .defineReceived .fault e.source := rfl

theorem frame_planFault_idle (s : State) (e : DefEntry) (x : Damage) : SameBut [.du, .latches] s (s.planFault e x) :=
  (frame_latch _ _).chain (frame_leaveService _ _) (by decide) (by decide)

theorem planFault_du (s : State) (e : DefEntry) (x : Damage) : (s.planFault e x).du = { s.du with work := .idle } := rfl

theorem planFault_lcp (s : State) (e : DefEntry) (x : Damage) :
    (s.planFault e x).lcp = (s.lcp.latched (.dictFault 0 x.1 x.2)).latched (e.event .fault .fault) := rfl

/-- The fault that ends PLAN is told by its own event; the outcome's event is another. -/
theorem planFault_latched (s : State) (e : DefEntry) (x : Damage) : Latched s (s.planFault e x) 9 (.dictFault 0 x.1 x.2) := by
  have outcome : LatchesBut [10, 11] (s.latchDamage 0 x) (s.planFault e x) := by
    refine (latches_latch ((s.latchDamage 0 x).setDu { s.du with work := .idle }) (e.event .fault .fault)).mono ?_
    unfold DefEntry.event
    split <;> simp [Event.priority]
  have told : Latched s (s.latchDamage 0 x) 9 (.dictFault 0 x.1 x.2) := latched_latch s (.dictFault 0 x.1 x.2)
  exact told.keep outcome (by decide) (by decide)

theorem planStart_reads {s : State} {table : Nat} (e : DefEntry) (path : List PlanStep)
    (sound : tableAddressFaults s.dir true table = []) : s.planStart e path table =
      (s.setDu { s.du with work := .plan e (.starting 0 table ((e.strokes[path.length]?).getD 0) true) path }).request .defn
        (.read table 8) := by
  simp only [State.planStart, startLookup_reads _ _ sound]

theorem planStart_fault {s : State} {table : Nat} (e : DefEntry) (path : List PlanStep)
    (faulty : tableAddressFaults s.dir true table ≠ []) :
    ∃ x ∈ tableAddressFaults s.dir true table, s.planStart e path table = s.planFault e x := by
  obtain ⟨x, mem, start⟩ := startLookup_fault 0 ((e.strokes[path.length]?).getD 0) faulty
  exact ⟨x, mem, by simp only [State.planStart, start]⟩

theorem planFound_deeper {s : State} {e : DefEntry} {path : List PlanStep} {c : CellData} (more : path.length < e.strokes.length)
    (next : c.hasNext = true) : s.planFound e path c = s.planStart e path c.next := if_pos ⟨more, next⟩

theorem planFound_ends {s : State} {e : DefEntry} {path : List PlanStep} {c : CellData}
    (ends : e.strokes.length ≤ path.length ∨ c.hasNext = false) : s.planFound e path c = s.planEnds e path none := by
  refine if_neg fun ⟨more, next⟩ => ?_
  rw [next] at ends
  exact Nat.not_lt.mpr (ends.resolve_right (by decide)) more

section
variable {s u : State}

/-- A fault found at the end of a read ends PLAN. -/
theorem ReadDone.planFaults (done : ReadDone s u) (e : DefEntry) (x : Damage) : PlanFaults s (u.planFault e x) e x := by
  refine ⟨done.1.chain (frame_planFault_idle u e x) (by decide) (by decide), done.2, ?_, ?_⟩
  · rw [planFault_du, done.du]
  · rw [planFault_lcp, done.lcp, event_fault]

/-- PLAN's lookup goes on after the end of a read. -/
theorem ReadDone.planGoesOn (done : ReadDone s u) (e : DefEntry) (path : List PlanStep) (a n : Nat) (k : Lookup) :
    PlanGoesOn s (u.planLookup e path (.read a n k)) e k path a n := by
  refine ⟨done.1.chain ((frame_setDu _ _).chain (zs := [.du, .arb]) (frame_request _ _ _) (by decide) (by decide))
    (by decide) (by decide), ?_, ?_⟩
  · rw [← done.du]
    rfl
  · rw [← done.2]
    rfl

end

/-- The end of a DU read that PLAN waited for: the lookup's step, taken by PLAN. -/
theorem defOperationEnd_plan {s : State} {e : DefEntry} {k : Lookup} {path : List PlanStep} {a n : Nat} (work : s.du.work = .plan e k path)
    (service : s.arb.inService = some { cls := .defn, op := .read a n }) :
    s.defOperationEnd = (s.endOperation { cls := .defn, op := .read a n }).planLookup e path (lookupStep s.dir k (s.mem.bytesAt a n)) := by
  rw [defOperationEnd_serves service, State.duData, endOperation_du, work, (readDone_endOperation s .defn a n).dir]
  rfl

theorem defOperationEnd_idle {s : State} (none : s.serving .defn = none) : s.defOperationEnd = s := by
  rw [State.defOperationEnd, none]

/-! ## DU_SERVICE_START (R31) -/

theorem exec_duServiceStart (s : State) : exec .duServiceStart s = .next s.duServiceStart := rfl

theorem duServiceStart_takes {s : State} {e : DefEntry} {rest : List DefEntry} (idle : s.du.work = .idle) (queue : s.du.queue = e :: rest) :
    s.duServiceStart = (s.setDu { s.du with queue := rest }).planStart e [] s.dir.caseRoot := by
  simp only [State.duServiceStart, idle, queue]

theorem duServiceStart_none {s : State} (none : s.du.work ≠ .idle ∨ s.du.queue = []) : s.duServiceStart = s := by
  unfold State.duServiceStart
  split
  next idle queue => simp [idle, queue] at none
  next => rfl

/-! ## WRITE (R31, R35, R38) -/

theorem defOperationEnd_write {s : State} {e : DefEntry} {ref : TextRef} {w : PlannedWrite} {rest : List PlannedWrite}
    (work : s.du.work = .write e ref (w :: rest)) (service : s.arb.inService = some { cls := .defn, op := .write w.addr w.bytes }) :
    s.defOperationEnd = ((s.endOperation { cls := .defn, op := .write w.addr w.bytes }).freeCellsOf w).writeOn e ref rest := by
  rw [defOperationEnd_serves service, State.duData, endOperation_du, work]

/-! ## The end of PLAN (R33, R34, R37) -/

theorem planEnds_define {e : DefEntry} (s : State) (path : List PlanStep) (k : Option Lookup) (kind : e.kind = .define) :
    s.planEnds e path k = s.planDefine e path k := by
  rw [State.planEnds, kind]

theorem planEnds_forget {e : DefEntry} (s : State) (path : List PlanStep) (k : Option Lookup) (kind : e.kind = .forget) :
    s.planEnds e path k = s.planForget e path k := by
  rw [State.planEnds, kind]

theorem planDefine_inTable (s : State) (e : DefEntry) (path : List PlanStep) (k : Lookup) :
    s.planDefine e path (some k) =
      s.claimSpace e ((e.strokes.drop path.length).length - 1) (e.strokes.drop path.length).length
        (writesInTable s.du.generation e (s.newRef e) (e.strokes.drop path.length) k) := rfl

theorem planDefine_onCell {s : State} {e : DefEntry} {path : List PlanStep} {p : PlanStep} (whole : path.length = e.strokes.length)
    (last : path.getLast? = some p) : s.planDefine e path none =
      if s.mayReplace e (CellData.ofBytes p.bytes) then s.claimSpace e 0 0 fun _ => writesOnCell e (s.newRef e) p
      else s.leaveService (.defineReceived .dropped e.source) := by
  simp only [State.planDefine, last, whole, List.drop_length, List.isEmpty_nil, if_true]

theorem planDefine_underCell {s : State} {e : DefEntry} {path : List PlanStep} {p : PlanStep} {v : Stroke} {vs : List Stroke}
    (last : path.getLast? = some p) (missing : e.strokes.drop path.length = v :: vs) : s.planDefine e path none =
      s.claimSpace e (vs.length + 1) (vs.length + 1) (writesUnderCell s.du.generation e (s.newRef e) (v :: vs) p) := by
  simp only [State.planDefine, last, missing, List.isEmpty_cons, List.length_cons]
  rfl

/-- The conflict rule (R33): text of the node's own, or of a station that ranks higher, is kept from a received entry. -/
theorem mayReplace_iff (s : State) (e : DefEntry) (c : CellData) : s.mayReplace e c = true ↔
    c.hasText = false ∨ e.source = 0 ∨ (c.origin ≠ 0 ∧ s.roster.rankOf c.origin ≤ e.rank) := by
  simp [State.mayReplace, or_assoc]

theorem allocate_none (free : List Nat) : allocate 0 0 free = some { tables := [], cells := [], free := free } := rfl

theorem planForget_found {s : State} {path : List PlanStep} {p : PlanStep} {up : List PlanStep} (e : DefEntry)
    (reverse : path.reverse = p :: up) : s.planForget e path none =
      if path.length = e.strokes.length ∧ (CellData.ofBytes p.bytes).hasText = true then
        s.writeOn e { addr := 0, len := 0 } (forgetWrites s.dir.caseRoot p up)
      else s.leaveService (.defineResult .notFound e.first) := by
  simp only [State.planForget, reverse]

/-- WRITE begins with the writes of a FORGET, which takes no space. -/
theorem writeOn_begins (s : State) (e : DefEntry) (ref : TextRef) (w : PlannedWrite) (rest : List PlannedWrite) :
    BeginsWrite s (s.writeOn e ref (w :: rest)) e ref s.du.freeCells s.du.heapTop (w :: rest) :=
  ⟨(frame_setDu _ _).chain (zs := [.du, .arb]) (frame_request _ _ _) (by decide) (by decide), rfl, w, rest, rfl, rfl⟩

/-- The writes of a planned list that ends with one write are a first write and the rest. -/
theorem exists_cons_of_concat (ws : List PlannedWrite) (w : PlannedWrite) : ∃ x xs, ws ++ [w] = x :: xs := by
  cases ws with
  | nil => exact ⟨w, [], rfl⟩
  | cons x xs => exact ⟨x, xs ++ [w], rfl⟩

/-- With the cells and the heap room, WRITE begins with the writes `ws`. -/
theorem claimSpace_begins {s : State} {e : DefEntry} {t c : Nat} {writes : Alloc → List PlannedWrite} {a : Alloc}
    {ws : List PlannedWrite} {w : PlannedWrite} (cells : allocate t c s.du.freeCells = some a) (heap : HeapTakes s e)
    (same : writes a = ws ++ [w]) :
    BeginsWrite s (s.claimSpace e t c writes) e (s.newRef e) a.free (some (s.heapTop + e.text.length)) (ws ++ [w]) := by
  obtain ⟨x, xs, split⟩ := exists_cons_of_concat ws w
  rw [← same]
  exact claimSpace_room s e t c writes a x xs cells heap (same.trans split)

/-! ## Pruning (R38) -/

theorem pruneWrites_stops {root : Nat} {p : PlanStep} (up : List PlanStep) (stays : 1 < p.cellCount ∨ p.table = root) :
    pruneWrites root (p :: up) =
      [unlinkWrite p, { addr := p.table, bytes := headerBytes p.exponent (p.cellCount - 1), freed := [p.cellAddr] }] := by
  have stay : ¬ (p.cellCount ≤ 1 ∧ p.table ≠ root) := by omega
  cases up <;> rw [pruneWrites, if_neg stay, List.append_nil]

theorem pruneWrites_goes {root : Nat} {p q : PlanStep} {rest : List PlanStep} (empty : p.cellCount ≤ 1) (inner : p.table ≠ root) :
    pruneWrites root (p :: q :: rest) =
      [unlinkWrite p, { addr := p.table, bytes := headerBytes p.exponent (p.cellCount - 1), freed := [p.cellAddr] },
        { addr := q.cellAddr, bytes := cellWithoutNext q.bytes, freed := tableCellList p }]
      ++ (if (CellData.ofBytes q.bytes).hasText then [] else pruneWrites root (q :: rest)) := by
  rw [pruneWrites, if_pos ⟨empty, inner⟩]
  rfl

/-! ## What WRITE writes (R35) -/

theorem leBytes_length (n x : Nat) : (leBytes n x).length = n := by
  induction n generalizing x with
  | zero => rfl
  | succ n ih => simp [leBytes, ih]

theorem length_patch {bs new : List Byte} {i : Nat} (fits : i + new.length ≤ bs.length) : (patch bs i new).length = bs.length := by
  simp only [patch, List.length_append, List.length_take, List.length_drop]
  omega

theorem getD_patch {bs new : List Byte} {i : Nat} (fits : i + new.length ≤ bs.length) (j : Nat) :
    (patch bs i new).getD j 0 = if i ≤ j ∧ j < i + new.length then new.getD (j - i) 0 else bs.getD j 0 := by
  have head : (bs.take i).length = i := by rw [List.length_take]; omega
  simp only [patch, List.getD_eq_getElem?_getD, List.append_assoc]
  by_cases before : j < i
  · rw [List.getElem?_append_left (by omega), List.getElem?_take_of_lt before, if_neg (by omega)]
  · rw [List.getElem?_append_right (by omega), head]
    by_cases within : j < i + new.length
    · rw [List.getElem?_append_left (by omega), if_pos (by omega)]
    · rw [List.getElem?_append_right (by omega), List.getElem?_drop, if_neg (by omega)]
      congr 2
      omega

/-- A new table before its bucket head: exponent 4, count 1, zeros. -/
theorem blankTable_eq : headerBytes 4 1 ++ List.replicate 56 0 = (4 : Byte) :: 1 :: List.replicate 62 0 := rfl

theorem getD_blankTable (i : Nat) :
    (headerBytes 4 1 ++ List.replicate 56 0).getD i 0 = if i = 0 then 4 else if i = 1 then 1 else (0 : Byte) := by
  rw [blankTable_eq]
  match i with
  | 0 => rfl
  | 1 => rfl
  | i + 2 =>
    rw [List.getD_cons_succ, List.getD_cons_succ, if_neg (by omega), if_neg (by omega), List.getD_eq_getElem?_getD,
      List.getElem?_replicate]
    split <;> rfl

theorem bucketOf_lt (v : Stroke) (b : Nat) : bucketOf v b < 2 ^ b := Nat.mod_lt _ (Nat.two_pow_pos b)

/-- The bucket head of a new table lies within its 64 bytes. -/
theorem newTable_fits (v : Stroke) (cell : Nat) :
    8 + 3 * bucketOf v 4 + (leBytes 3 cell).length ≤ (headerBytes 4 1 ++ List.replicate 56 (0 : Byte)).length := by
  have := bucketOf_lt v 4
  rw [leBytes_length, blankTable_eq]
  simp only [List.length_cons, List.length_replicate]
  omega

theorem newTableBytes_length (v : Stroke) (cell : Nat) : (newTableBytes v cell).length = 64 :=
  (length_patch (newTable_fits v cell)).trans rfl

theorem getD_newTableBytes (v : Stroke) (cell i : Nat) : (newTableBytes v cell).getD i 0 =
    if i = 0 then 4 else if i = 1 then 1
    else if 8 + 3 * bucketOf v 4 ≤ i ∧ i < 11 + 3 * bucketOf v 4 then (leBytes 3 cell).getD (i - 8 - 3 * bucketOf v 4) 0
    else 0 := by
  have bound : 8 + 3 * bucketOf v 4 + 3 = 11 + 3 * bucketOf v 4 := by omega
  rw [newTableBytes, getD_patch (newTable_fits v cell), getD_blankTable, leBytes_length, Nat.sub_sub, bound]
  by_cases head : 8 + 3 * bucketOf v 4 ≤ i ∧ i < 11 + 3 * bucketOf v 4
  · simp only [if_pos head, if_neg (show ¬ i = 0 by omega), if_neg (show ¬ i = 1 by omega)]
  · simp only [if_neg head]

/-- The bytes of the last new cell (R35): those of the absent next level are free. -/
theorem newCellBytes_last (absent : Nat → Byte) (v : Stroke) (ref : TextRef) (link origin : Nat) :
    ∃ free : List Byte, free.length = 3 ∧ newCellBytes absent v (some ref) none link origin =
      leBytes 3 v.toNat ++ [1] ++ leBytes 3 ref.addr ++ leBytes 1 ref.len ++ free ++ leBytes 3 link ++ leBytes 1 origin ++ [0] := by
  have flags : cellFlags true false false = 1 := by decide
  exact ⟨(List.range' 8 3).map absent, rfl, by simp [newCellBytes, flags]⟩

/-- The bytes of a new cell above the last (R35): those of the absent text and origin are free. -/
theorem newCellBytes_above (absent : Nat → Byte) (v : Stroke) (table link origin : Nat) :
    ∃ (free : List Byte) (last : Byte), free.length = 4 ∧ newCellBytes absent v none (some table) link origin =
      leBytes 3 v.toNat ++ [2] ++ free ++ leBytes 3 table ++ leBytes 3 link ++ [last, 0] := by
  have flags : cellFlags false true false = 2 := by decide
  exact ⟨(List.range' 4 4).map absent, absent 14, rfl, by simp [newCellBytes, flags]⟩

section
variable {g : BitVec 16} {ref : TextRef} {origin : Nat}

theorem cellWrites_cons (v w : Stroke) (vs : List Stroke) (c : Nat) (cs : List Nat) (t : Nat) (ts : List Nat) (link : Nat) :
    cellWrites g ref origin (v :: w :: vs) (c :: cs) (t :: ts) link =
      aWrite c (newCellBytes (fun i => Config.absentByte g (c + i)) v none (some t) link origin)
        :: cellWrites g ref origin (w :: vs) cs ts 0 := rfl

/-- One write for each new cell. -/
theorem cellWrites_length : ∀ (vs : List Stroke) (cells tables : List Nat) (head : Nat), vs.length ≤ cells.length →
    vs.length ≤ tables.length + 1 → (cellWrites g ref origin vs cells tables head).length = vs.length
  | [], _, _, _, _, _ => rfl
  | [_], _ :: _, _, _, _, _ => rfl
  | v :: w :: vs, c :: cs, t :: ts, head, hc, ht => by
    rw [cellWrites_cons, List.length_cons, cellWrites_length (w :: vs) cs ts 0 (Nat.le_of_succ_le_succ hc) (Nat.le_of_succ_le_succ ht)]
    rfl

/-- The write of the new cell at a depth. -/
theorem cellWrites_getElem? : ∀ (vs : List Stroke) (cells tables : List Nat) (head : Nat), vs.length ≤ cells.length →
    vs.length ≤ tables.length + 1 → ∀ (i c : Nat) (v : Stroke), vs[i]? = some v → cells[i]? = some c →
    (i + 1 = vs.length → (cellWrites g ref origin vs cells tables head)[i]? =
      some (aWrite c (newCellBytes (fun j => Config.absentByte g (c + j)) v (some ref) none (if i = 0 then head else 0) origin)))
    ∧ ∀ t, i + 1 < vs.length → tables[i]? = some t → (cellWrites g ref origin vs cells tables head)[i]? =
      some (aWrite c (newCellBytes (fun j => Config.absentByte g (c + j)) v none (some t) (if i = 0 then head else 0) origin))
  | [], _, _, _, _, _, _, _, _, hv, _ => by simp at hv
  | [v], c :: _, _, head, _, _, i, c', v', hv, hc => by
    obtain ⟨rfl, rfl⟩ : i = 0 ∧ v = v' := by simpa [List.getElem?_singleton] using hv
    obtain rfl : c = c' := by simpa using hc
    exact ⟨fun _ => rfl, fun t deeper => absurd deeper (Nat.lt_irrefl 1)⟩
  | v :: w :: vs, c :: cs, t :: ts, head, lc, lt, 0, c', v', hv, hc => by
    obtain rfl : v = v' := by simpa using hv
    obtain rfl : c = c' := by simpa using hc
    refine ⟨fun last => by simp at last, fun t' _ ht => ?_⟩
    obtain rfl : t = t' := by simpa using ht
    rfl
  | v :: w :: vs, c :: cs, t :: ts, head, lc, lt, i + 1, c', v', hv, hc => by
    obtain ⟨last, above⟩ := cellWrites_getElem? (w :: vs) cs ts 0 (Nat.le_of_succ_le_succ lc) (Nat.le_of_succ_le_succ lt) i c' v'
      (by simpa using hv) (by simpa using hc)
    rw [cellWrites_cons, List.getElem?_cons_succ, if_neg (Nat.succ_ne_zero i)]
    simp only [ite_self] at last above
    exact ⟨fun h => last (Nat.succ.inj h), fun t' h ht => above t' (Nat.lt_of_succ_lt_succ h) (by simpa using ht)⟩

end

theorem writesOf_length (n : Nat) : ∀ (a : Nat) (bs : List Byte), bs.length ≤ 16 * n →
    (writesOf n a bs).length = (bs.length + 15) / 16 := by
  induction n with
  | zero =>
    intro a bs short
    rw [Nat.le_zero.mp short]
    rfl
  | succ n ih =>
    intro a bs short
    cases bs with
    | nil => rfl
    | cons b bs =>
      have rest : (writesOf n (a + 16) ((b :: bs).drop 16)).length = (((b :: bs).drop 16).length + 15) / 16 :=
        ih _ _ (by rw [List.length_drop]; omega)
      rw [List.length_drop] at rest
      simp only [writesOf, List.isEmpty_cons, Bool.false_eq_true, if_false, List.length_cons (as := writesOf _ _ _), rest]
      simp only [List.length_cons]
      omega

theorem writesOf_getElem? (n : Nat) : ∀ (a : Nat) (bs : List Byte), bs.length ≤ 16 * n → ∀ i : Nat, 16 * i < bs.length →
    (writesOf n a bs)[i]? = some { addr := a + 16 * i, bytes := (bs.drop (16 * i)).take 16, freed := [] } := by
  induction n with
  | zero => exact fun a bs short i lt => by omega
  | succ n ih =>
    intro a bs short i lt
    have some : bs.isEmpty = false := by cases bs with | nil => simp at lt | cons => rfl
    simp only [writesOf, some, Bool.false_eq_true, if_false]
    cases i with
    | zero => rfl
    | succ i =>
      rw [List.getElem?_cons_succ, ih _ _ (by rw [List.length_drop]; omega) i (by rw [List.length_drop]; omega), List.drop_drop]
      have step : 16 + 16 * i = 16 * (i + 1) := by omega
      rw [Nat.add_assoc, step]

/-! ## What is chosen (R34) -/

theorem allocate_some {t c : Nat} {free : List Nat} {a : Alloc} (h : allocate t c free = some a) :
    ∃ r, takeTables t free = some r ∧ c ≤ r.2.length ∧ a = { tables := r.1, cells := r.2.take c, free := r.2.drop c } := by
  unfold allocate at h
  split at h
  next r taken =>
    split at h
    next room =>
      cases h
      exact ⟨r, taken, room, rfl⟩
    next => cases h
  next => cases h

/-- The first table stands at the lowest run of the free cells. -/
theorem takeTables_head {t : Nat} {free : List Nat} {r : List Nat × List Nat} {x : Nat} (taken : takeTables t free = some r)
    (first : r.1.head? = some x) : lowestRun free = some x := by
  cases t with
  | zero =>
    cases taken
    simp at first
  | succ t =>
    unfold takeTables at taken
    split at taken
    next y run =>
      split at taken
      next q rest =>
        cases taken
        rw [run]
        simpa using first
      next => cases taken
    next => cases taken

theorem take_below_drop {l : List Nat} (rising : l.Pairwise fun x y => x < y) (n : Nat) : ∀ x ∈ l.take n, ∀ y ∈ l.drop n, x < y := by
  rw [← List.take_append_drop n l] at rising
  exact (List.pairwise_append.mp rising).2.2

/-! ## The clauses of O28 -/

/-- The oldest entry enters PLAN (R31). -/
theorem duServiceStart_plans {s : State} {e : DefEntry} {rest : List DefEntry} (idle : s.du.work = .idle) (queue : s.du.queue = e :: rest)
    (aligned : s.dir.caseRoot % 8 = 0) (inside : s.dir.inCells s.dir.caseRoot 8 = true) :
    SameBut [.du, .arb] s s.duServiceStart
    ∧ s.duServiceStart.du =
      { s.du with queue := rest, work := .plan e (.starting 0 s.dir.caseRoot ((e.strokes[0]?).getD 0) true) [] }
    ∧ s.duServiceStart.arb = s.arb.request { cls := .defn, op := .read s.dir.caseRoot 8 } := by
  have sound : tableAddressFaults (s.setDu { s.du with queue := rest }).dir true s.dir.caseRoot = [] :=
    tableAddressFaults_sound aligned inside true
  rw [duServiceStart_takes idle queue, planStart_reads e [] sound]
  exact ⟨(frame_setDu _ _).chain (zs := [.du, .arb]) ((frame_setDu _ _).chain (zs := [.du, .arb]) (frame_request _ _ _)
    (by decide) (by decide)) (by decide) (by decide), rfl, rfl⟩

/-- The oldest entry ends with the fault of the CASE root (R32). -/
theorem duServiceStart_faults {s : State} {e : DefEntry} {rest : List DefEntry} (idle : s.du.work = .idle) (queue : s.du.queue = e :: rest)
    (bad : ¬ (s.dir.caseRoot % 8 = 0 ∧ s.dir.inCells s.dir.caseRoot 8 = true)) :
    ∃ x ∈ tableAddressFaults s.dir true s.dir.caseRoot, s.duServiceStart = (s.setDu { s.du with queue := rest }).planFault e x := by
  have faulty : tableAddressFaults (s.setDu { s.du with queue := rest }).dir true s.dir.caseRoot ≠ [] := by
    rw [show (s.setDu { s.du with queue := rest }).dir = s.dir from rfl]
    simpa [tableAddressFaults, faultIf_eq_nil] using bad
  rw [duServiceStart_takes idle queue]
  exact planStart_fault e [] faulty

/-- The end of a write of WRITE, up to what comes next (R31, R38). -/
theorem writeEnds_parts {s u : State} {e : DefEntry} {ref : TextRef} {w : PlannedWrite} {rest : List PlannedWrite} (wf : s.mem.wf = true)
    (fits : w.addr + w.bytes.length ≤ memSize)
    (ends : u = ((s.endOperation { cls := .defn, op := .write w.addr w.bytes }).freeCellsOf w).writeOn e ref rest) :
    SameBut [.mem, .du, .arb] s u
    ∧ (∀ b, u.mem.byteAt b = if w.addr ≤ b ∧ b < w.addr + w.bytes.length then w.bytes.getD (b - w.addr) 0 else s.mem.byteAt b)
    ∧ u.du.freeCells = w.freed.foldl (fun l a => freeCell a l) s.du.freeCells
    ∧ u.du = { s.du with freeCells := u.du.freeCells, work := u.du.work } := by
  subst ends
  have freed : SameBut [.mem, .arb, .du] s ((s.endOperation { cls := .defn, op := .write w.addr w.bytes }).freeCellsOf w) :=
    (frame_endOperation _ _).chain (frame_setDu _ _) (by decide) (by decide)
  cases rest with
  | nil => exact ⟨freed.chain (frame_setDu _ _) (by decide) (by decide), byteAt_served_write wf fits, rfl, rfl⟩
  | cons v vs =>
    exact ⟨freed.chain ((frame_setDu _ _).chain (zs := [.du, .arb]) (frame_request _ _ _) (by decide) (by decide))
      (by decide) (by decide), byteAt_served_write wf fits, rfl, rfl⟩

section
variable {s : State} {e : DefEntry} {k : Lookup} {path : List PlanStep} (work : s.du.work = .plan e k path)
include work

/-- The end of a header read in PLAN: the bucket head is next. -/
theorem planHeader_reads {b : Nat} (stage : k.stage = .header) (service : s.arb.inService = some { cls := .defn, op := .read k.table 8 })
    (exponent : b = (s.mem.byteAt k.table).toNat) (low : b ≤ 12) (fits : k.table + tableBytes b ≤ memSize)
    (inside : s.dir.inCells k.table (tableBytes b) = true) :
    PlanGoesOn s s.defOperationEnd e (k.atHead (s.mem.bytesAt k.table 8)) path (k.table + 8 + 3 * bucketOf k.stroke b) 3 := by
  obtain rfl : b = fieldAt (s.mem.bytesAt k.table 8) 0 1 := exponent.trans (fieldAt_bytesAt_first _ _ _).symm
  rw [defOperationEnd_plan work service, lookupStep_header_reads stage (List.eq_nil_iff_forall_not_mem.mpr fun x mem => by
    have faults := mem_tableFaults.mp mem
    simp only [inside, Bool.true_eq_false, and_false, false_and, or_false] at faults
    omega)]
  exact (readDone_endOperation s .defn k.table 8).planGoesOn e path _ _ _

/-- The end of a header read in PLAN that shows a fault (R26, R32). -/
theorem planHeader_faults {b : Nat} (stage : k.stage = .header) (service : s.arb.inService = some { cls := .defn, op := .read k.table 8 })
    (exponent : b = (s.mem.byteAt k.table).toNat) (faulty : tableFaults s.dir k.duRules k.table b ≠ []) :
    ∃ x ∈ tableFaults s.dir k.duRules k.table b, PlanFaults s s.defOperationEnd e x := by
  obtain rfl : b = fieldAt (s.mem.bytesAt k.table 8) 0 1 := exponent.trans (fieldAt_bytesAt_first _ _ _).symm
  obtain ⟨x, mem, step⟩ := lookupStep_header_fault stage faulty
  refine ⟨x, mem, ?_⟩
  rw [defOperationEnd_plan work service, step]
  exact (readDone_endOperation s .defn k.table 8).planFaults e x

/-- The end of a bucket head read in PLAN that gives a cell. -/
theorem planHead_reads {h : Nat} (stage : k.stage = .head) (service : s.arb.inService = some { cls := .defn, op := .read k.headAddr 3 })
    (head : h = fieldAt (s.mem.bytesAt k.headAddr 3) 0 3) (some : h ≠ 0) (aligned : h % 16 = 0) (inside : s.dir.inCells h 16 = true) :
    PlanGoesOn s s.defOperationEnd e { k with stage := .cell, head := h, cellAddr := h, place := k.place + 1, prev := none } path h 16 := by
  subst head
  rw [defOperationEnd_plan work service, lookupStep_head_cell stage some,
    readCell_reads none (List.eq_nil_iff_forall_not_mem.mpr fun x mem => by simpa [aligned, inside] using mem_cellAddressFaults.mp mem)]
  exact (readDone_endOperation s .defn k.headAddr 3).planGoesOn e path _ _ _

/-- The end of a bucket head read in PLAN that shows a fault (R26, R32). -/
theorem planHead_faults {h : Nat} (stage : k.stage = .head) (service : s.arb.inService = some { cls := .defn, op := .read k.headAddr 3 })
    (head : h = fieldAt (s.mem.bytesAt k.headAddr 3) 0 3) (some : h ≠ 0) (faulty : cellAddressFaults s.dir k.duRules h k.table ≠ []) :
    ∃ x ∈ cellAddressFaults s.dir k.duRules h k.table, PlanFaults s s.defOperationEnd e x := by
  subst head
  obtain ⟨x, mem, step⟩ := readCell_fault (k := { k with head := fieldAt (s.mem.bytesAt k.headAddr 3) 0 3 }) none faulty
  refine ⟨x, mem, ?_⟩
  rw [defOperationEnd_plan work service, lookupStep_head_cell stage some, step]
  exact (readDone_endOperation s .defn k.headAddr 3).planFaults e x

variable {bs : List Byte} (stage : k.stage = .cell) (service : s.arb.inService = some { cls := .defn, op := .read k.cellAddr 16 })
  (read : bs = s.mem.bytesAt k.cellAddr 16)
include stage service read

theorem planCell_faults (faulty : cellFaults s.dir k.layer k.cellAddr (CellData.ofBytes bs) ≠ []) :
    ∃ x ∈ cellFaults s.dir k.layer k.cellAddr (CellData.ofBytes bs), PlanFaults s s.defOperationEnd e x := by
  subst read
  obtain ⟨x, mem, step⟩ := lookupStep_cell_fault stage faulty
  refine ⟨x, mem, ?_⟩
  rw [defOperationEnd_plan work service, step]
  exact (readDone_endOperation s .defn k.cellAddr 16).planFaults e x

variable (sound : cellFaults s.dir k.layer k.cellAddr (CellData.ofBytes bs) = [])
include sound

theorem planCell_last (differ : (CellData.ofBytes bs).stroke ≠ k.stroke.toNat) (last : (CellData.ofBytes bs).link = 0) :
    s.defOperationEnd = (s.endOperation { cls := .defn, op := .read k.cellAddr 16 }).planEnds e path (some k) := by
  subst read
  rw [defOperationEnd_plan work service, lookupStep_cell_last stage sound differ last]
  rfl

theorem planCell_found (same : (CellData.ofBytes bs).stroke = k.stroke.toNat) :
    s.defOperationEnd = (s.endOperation { cls := .defn, op := .read k.cellAddr 16 }).planFound e (path ++ [k.planStep bs])
      (CellData.ofBytes bs) := by
  subst read
  rw [defOperationEnd_plan work service, lookupStep_cell_found stage sound same]
  rfl

theorem planCell_limit (differ : (CellData.ofBytes bs).stroke ≠ k.stroke.toNat) (more : (CellData.ofBytes bs).link ≠ 0)
    (limit : 24 ≤ k.place) : PlanFaults s s.defOperationEnd e (.chainLimit, k.table) := by
  subst read
  rw [defOperationEnd_plan work service, lookupStep_cell_limit stage sound differ more limit]
  exact (readDone_endOperation s .defn k.cellAddr 16).planFaults e _

theorem planCell_chain (differ : (CellData.ofBytes bs).stroke ≠ k.stroke.toNat) (more : (CellData.ofBytes bs).link ≠ 0)
    (short : k.place < 24) (inside : s.dir.inCells (CellData.ofBytes bs).link 16 = true) :
    PlanGoesOn s s.defOperationEnd e
      { k with cellAddr := (CellData.ofBytes bs).link, place := k.place + 1, prev := some (k.cellAddr, bs) } path
      (CellData.ofBytes bs).link 16 := by
  subst read
  rw [defOperationEnd_plan work service, lookupStep_cell_chain stage sound differ more short,
    readCell_reads _ (List.eq_nil_iff_forall_not_mem.mpr fun x mem => by
      simpa [link_aligned sound, inside] using mem_cellAddressFaults.mp mem)]
  exact stage ▸ (readDone_endOperation s .defn k.cellAddr 16).planGoesOn e path _ _ _

/-- The link of a sound cell leads out of the CASE cells (R32). -/
theorem planCell_outside (du : k.duRules = true) (differ : (CellData.ofBytes bs).stroke ≠ k.stroke.toNat)
    (more : (CellData.ofBytes bs).link ≠ 0) (short : k.place < 24) (outside : s.dir.inCells (CellData.ofBytes bs).link 16 = false) :
    PlanFaults s s.defOperationEnd e (.region, (CellData.ofBytes bs).link) := by
  subst read
  obtain ⟨x, mem, step⟩ := readCell_fault (some (k.cellAddr, s.mem.bytesAt k.cellAddr 16))
    (List.ne_nil_of_mem (mem_cellAddressFaults.mpr (.inr ⟨⟨du, outside⟩, rfl⟩)))
  obtain ⟨-, rfl⟩ := (mem_cellAddressFaults.mp mem).resolve_left (by simp [link_aligned sound])
  rw [defOperationEnd_plan work service, lookupStep_cell_chain stage sound differ more short, step]
  exact (readDone_endOperation s .defn k.cellAddr 16).planFaults e _

omit work stage service read in
/-- The next level of a sound cell is at the address of a table. -/
theorem next_aligned (next : (CellData.ofBytes bs).hasNext = true) : (CellData.ofBytes bs).next % 8 = 0 := by
  by_contra odd
  have wrong : (FaultKind.address, k.cellAddr) ∈ cellFaults s.dir k.layer k.cellAddr (CellData.ofBytes bs) :=
    mem_cellFaults.mpr ⟨rfl, .inl ⟨rfl, .inr ⟨next, .inr odd⟩⟩⟩
  rw [sound] at wrong
  exact List.not_mem_nil wrong

/-- A cell found leads PLAN into its next level (R32). -/
theorem planCell_deeper (same : (CellData.ofBytes bs).stroke = k.stroke.toNat)
    (more : (path ++ [k.planStep bs]).length < e.strokes.length) (next : (CellData.ofBytes bs).hasNext = true)
    (inside : s.dir.inCells (CellData.ofBytes bs).next 8 = true) :
    PlanGoesOn s s.defOperationEnd e
      (.starting 0 (CellData.ofBytes bs).next ((e.strokes[(path ++ [k.planStep bs]).length]?).getD 0) true) (path ++ [k.planStep bs])
      (CellData.ofBytes bs).next 8 := by
  have done := readDone_endOperation s .defn k.cellAddr 16
  have fine := tableAddressFaults_sound (next_aligned sound next) inside true
  rw [← done.dir] at fine
  rw [planCell_found work stage service read sound same, planFound_deeper more next, planStart_reads _ _ fine]
  exact done.planGoesOn e _ _ _ _

/-- The next level of a cell found lies outside the CASE cells (R32). -/
theorem planCell_nextOutside (same : (CellData.ofBytes bs).stroke = k.stroke.toNat)
    (more : (path ++ [k.planStep bs]).length < e.strokes.length) (next : (CellData.ofBytes bs).hasNext = true)
    (outside : s.dir.inCells (CellData.ofBytes bs).next 8 = false) :
    PlanFaults s s.defOperationEnd e (.region, (CellData.ofBytes bs).next) := by
  have done := readDone_endOperation s .defn k.cellAddr 16
  have wrong : (FaultKind.region, (CellData.ofBytes bs).next) ∈ tableAddressFaults s.dir true (CellData.ofBytes bs).next :=
    mem_tableAddressFaults.mpr (.inr ⟨⟨rfl, outside⟩, rfl⟩)
  rw [← done.dir] at wrong
  obtain ⟨x, mem, start⟩ := planStart_fault e (path ++ [k.planStep bs]) (List.ne_nil_of_mem wrong)
  obtain ⟨-, rfl⟩ := (mem_tableAddressFaults.mp mem).resolve_left (by simp [next_aligned sound next])
  rw [planCell_found work stage service read sound same, planFound_deeper more next, start]
  exact done.planFaults e _

end

section
variable {s : State} {e : DefEntry} {path : List PlanStep} (kind : e.kind = .define)
include kind

/-- A DEFINE whose final cell exists (R33, R34, R35). -/
theorem planEnds_onCell {p : PlanStep} (whole : path.length = e.strokes.length) (last : path.getLast? = some p) :
    (s.mayReplace e (CellData.ofBytes p.bytes) = false →
      LeavesService s (s.planEnds e path none) (.defineReceived .dropped e.source))
    ∧ (s.mayReplace e (CellData.ofBytes p.bytes) = true →
      (HeapTakes s e → BeginsWrite s (s.planEnds e path none) e (s.newRef e) s.du.freeCells (some (s.heapTop + e.text.length))
        (writesOf e.text.length s.heapTop e.text ++ [aWrite p.cellAddr (cellWithText p.bytes (s.newRef e) e.source)]))
      ∧ (¬ HeapTakes s e → LeavesService s (s.planEnds e path none) (e.event .full .full))) := by
  rw [planEnds_define s path none kind, planDefine_onCell whole last]
  refine ⟨fun keeps => ?_, fun takes => ⟨fun heap => ?_, fun heap => ?_⟩⟩
  · rw [keeps]
    exact leaveService_leaves s _
  · rw [takes, if_pos rfl]
    exact claimSpace_begins (allocate_none _) heap (by simp [writesOnCell, buildWrites, tableWrites, State.newRef])
  · rw [takes, if_pos rfl]
    exact claimSpace_full s e 0 0 _ (.inr heap)

/-- A DEFINE with strokes missing from an existing table (R34, R35). -/
theorem planEnds_inTable {k : Lookup} {v : Stroke} {vs : List Stroke} (missing : e.strokes.drop path.length = v :: vs) :
    (∀ a, allocate vs.length (vs.length + 1) s.du.freeCells = some a → HeapTakes s e →
      BeginsWrite s (s.planEnds e path (some k)) e (s.newRef e) a.free (some (s.heapTop + e.text.length))
        (tableWrites vs (a.cells.drop 1) a.tables ++ writesOf e.text.length s.heapTop e.text
          ++ (cellWrites s.du.generation (s.newRef e) e.source (v :: vs) a.cells a.tables k.head).reverse
          ++ [aWrite k.headAddr (leBytes 3 (a.cells.headD 0)), aWrite k.table (headerBytes k.exponent (k.cellCount + 1))]))
    ∧ ((allocate vs.length (vs.length + 1) s.du.freeCells = none ∨ ¬ HeapTakes s e) →
      LeavesService s (s.planEnds e path (some k)) (e.event .full .full)) := by
  rw [planEnds_define s path (some k) kind, planDefine_inTable, missing]
  refine ⟨fun a cells heap => ?_, fun full => claimSpace_full s e _ _ _ full⟩
  rw [List.append_cons]
  exact claimSpace_begins cells heap (List.append_assoc _ [_] [_]).symm

/-- A DEFINE with strokes missing under a cell (R34, R35). -/
theorem planEnds_underCell {p : PlanStep} {v : Stroke} {vs : List Stroke} (last : path.getLast? = some p)
    (missing : e.strokes.drop path.length = v :: vs) :
    (∀ a, allocate (vs.length + 1) (vs.length + 1) s.du.freeCells = some a → HeapTakes s e →
      BeginsWrite s (s.planEnds e path none) e (s.newRef e) a.free (some (s.heapTop + e.text.length))
        (tableWrites (v :: vs) a.cells a.tables ++ writesOf e.text.length s.heapTop e.text
          ++ (cellWrites s.du.generation (s.newRef e) e.source (v :: vs) a.cells (a.tables.drop 1) 0).reverse
          ++ [aWrite p.cellAddr (cellWithNext p.bytes (a.tables.headD 0))]))
    ∧ ((allocate (vs.length + 1) (vs.length + 1) s.du.freeCells = none ∨ ¬ HeapTakes s e) →
      LeavesService s (s.planEnds e path none) (e.event .full .full)) := by
  rw [planEnds_define s path none kind, planDefine_underCell last missing]
  exact ⟨fun a cells heap => claimSpace_begins cells heap rfl, fun full => claimSpace_full s e _ _ _ full⟩

end

/-- A FORGET whose walk found the steps of `p` and `up` (R37, R38). -/
theorem planEnds_forgets {s : State} {e : DefEntry} {path up : List PlanStep} {p : PlanStep} (kind : e.kind = .forget)
    (reverse : path.reverse = p :: up) :
    ((path.length = e.strokes.length ∧ (CellData.ofBytes p.bytes).hasText = true) →
      BeginsWrite s (s.planEnds e path none) e { addr := 0, len := 0 } s.du.freeCells s.du.heapTop
        (forgetWrites s.dir.caseRoot p up))
    ∧ (¬ (path.length = e.strokes.length ∧ (CellData.ofBytes p.bytes).hasText = true) →
      LeavesService s (s.planEnds e path none) (.defineResult .notFound e.first)) := by
  rw [planEnds_forget s path none kind, planForget_found e reverse]
  refine ⟨fun found => ?_, fun missing => ?_⟩
  · rw [if_pos found]
    exact writeOn_begins s e _ _ _
  · rw [if_neg missing]
    exact leaveService_leaves s _

/-- The cells and tables chosen (R34). -/
theorem allocate_chooses {t c : Nat} {free : List Nat} {a : Alloc} (rising : free.Pairwise (fun x y => x < y))
    (cells16 : ∀ x ∈ free, x % 16 = 0) (chosen : allocate t c free = some a) :
    a.tables.length = t ∧ a.cells.length = c
    ∧ (∀ x ∈ a.tables, x ∈ free ∧ x + 16 ∈ free ∧ x + 32 ∈ free ∧ x + 48 ∈ free)
    ∧ (∀ x, a.tables.head? = some x → ∀ y ∈ free, y + 16 ∈ free → y + 32 ∈ free → y + 48 ∈ free → x ≤ y)
    ∧ (∀ x ∈ a.cells, x ∈ free ∧ (∀ y ∈ a.tables, x < y ∨ y + 48 < x) ∧ ∀ y ∈ a.free, x < y)
    ∧ ∀ x ∈ free, x ∈ a.cells ∨ x ∈ a.free ∨ ∃ y ∈ a.tables, y ≤ x ∧ x ≤ y + 48 := by
  obtain ⟨r, taken, room, rfl⟩ := allocate_some chosen
  obtain ⟨count, left, runs, apart, rest⟩ := takeTables_spec t free r rising taken
  refine ⟨count, List.length_take_of_le room, runs, fun x first => lowestRun_le free rising cells16 x (takeTables_head taken first),
    fun x mem => ?_, fun x mem => ?_⟩
  · obtain ⟨listed, outside⟩ := apart x (List.mem_of_mem_take mem)
    exact ⟨listed, outside, take_below_drop left c x mem⟩
  · rw [← or_assoc, ← List.mem_append, List.take_append_drop]
    exact rest x mem

end Sys2Proof.Machine

open Sys2Proof Sys2Proof.Machine

/-- Settles O28, clause by clause: the entry enters PLAN; a write ends; PLAN's reads end in its lookup's step; the walk's end by the kind
of entry and what was found; what is written and what is chosen. -/
theorem aDefinitionIsServedByOperations : Obligations.ADefinitionIsServedByOperations := by
  unfold Obligations.ADefinitionIsServedByOperations
  have ends : ∀ s : State, exec .defOperationEnd s = .next s.defOperationEnd := exec_defOperationEnd
  refine ⟨⟨fun s e rest idle queue => ⟨?_, ?_⟩, ?_⟩, ⟨?_, ?_, ?_⟩, ?_, ?_, ?_, ?_, ?_, ?_, ?_, ?_, ?_, ?_, ?_, ?_, ?_⟩
  · rintro ⟨aligned, inside⟩
    obtain ⟨frame, du, arb⟩ := duServiceStart_plans idle queue aligned inside
    exact ⟨_, _, exec_duServiceStart s, frame, du, rfl, rfl, rfl, rfl, rfl, arb⟩
  · intro bad
    obtain ⟨⟨kind, a⟩, mem, start⟩ := duServiceStart_faults idle queue bad
    refine ⟨_, kind, (exec_duServiceStart s).trans (congrArg Host.Outcome.next start), ?_⟩
    have frame : SameBut [.du, .latches] s ((s.setDu { s.du with queue := rest }).planFault e (kind, a)) :=
      (frame_setDu _ _).chain (frame_planFault_idle _ e _) (by decide) (by decide)
    have told := planFault_latched (s.setDu { s.du with queue := rest }) e (kind, a)
    simp only [mem_tableAddressFaults, Prod.mk.injEq] at mem
    obtain ⟨odd, rfl, rfl⟩ | ⟨⟨-, outside⟩, rfl, rfl⟩ := mem
    · exact ⟨frame, rfl, told, .inl ⟨rfl, odd⟩, rfl⟩
    · exact ⟨frame, rfl, told, .inr ⟨rfl, outside⟩, rfl⟩
  · exact fun s none => (exec_duServiceStart s).trans (congrArg Host.Outcome.next (duServiceStart_none none))
  · intro s e ref w rest wf work service fits
    have ended := defOperationEnd_write work service
    obtain ⟨frame, bytes, freed, du⟩ := writeEnds_parts wf fits ended
    refine ⟨_, ends s, frame, bytes, freed, du, fun last => ?_, fun v vs more => ?_⟩
    · rw [ended, last]
      exact ⟨rfl, rfl⟩
    · rw [ended, more]
      exact ⟨rfl, rfl⟩
  · intro s e k path b work stage service exponent low fits inside
    obtain ⟨frame, du, arb⟩ := planHeader_reads work stage service exponent low fits inside
    obtain rfl : b = fieldAt (s.mem.bytesAt k.table 8) 0 1 := exponent.trans (fieldAt_bytesAt_first _ _ _).symm
    exact ⟨_, _, ends s, frame, du, rfl, rfl, rfl, rfl, arb⟩
  · exact fun s none => (ends s).trans (congrArg Host.Outcome.next (defOperationEnd_idle none))
  · intro s e k path r work stage op service empty
    subst op
    rw [ends, defOperationEnd_plan work service, lookupStep_head_empty stage empty]
    rfl
  · intro s e k path path' r bs c work stage op service read fields sound found
    subst op fields found
    refine ⟨fun differ last => ?_, fun same final => ?_, fun same more next inside => ?_⟩
    · rw [ends, planCell_last work stage service read sound differ last]
    · rw [ends, planCell_found work stage service read sound same, planFound_ends final]
    · obtain ⟨frame, du, arb⟩ := planCell_deeper work stage service read sound same more next inside
      exact ⟨_, _, ends s, frame, du, rfl, rfl, rfl, rfl, arb⟩
  · intro s e path ref top text full kind href htop htext hfull
    subst href htop htext hfull
    refine ⟨fun p c u whole last fields result => ?_, fun k v vs u missing result => ?_, fun p v vs u last missing result => ?_⟩
    · subst fields result
      obtain ⟨keeps, takes⟩ := planEnds_onCell (s := s) kind whole last
      refine ⟨fun keep => keeps ?_, fun take => takes ((mayReplace_iff _ _ _).mpr take)⟩
      obtain ⟨text, received, older⟩ := keep
      rw [← Bool.not_eq_true, mayReplace_iff]
      simp only [text, received, Bool.true_eq_false, false_or, not_and]
      exact fun other => by omega
    · subst result
      exact planEnds_inTable kind missing
    · subst result
      exact planEnds_underCell kind last missing
  · intro s e path kind
    refine ⟨fun k => ?_, fun p up u reverse result => ?_⟩
    · rw [planEnds_forget s path (some k) kind]
      exact leaveService_leaves s _
    · subst result
      exact planEnds_forgets kind reverse
  · intro root p up link unlink lowered hlink hunlink hlowered
    have same : unlink = unlinkWrite p := by
      rw [hunlink, hlink, unlinkWrite]
      cases p.prev <;> rfl
    subst same hlowered
    refine ⟨pruneWrites_stops up, fun q rest empty inner above => ?_⟩
    subst above
    exact pruneWrites_goes empty inner
  · exact fun v cell => ⟨newTableBytes_length v cell, fun i _ => getD_newTableBytes v cell i⟩
  · intro g ref origin head vs cells tables ws hc ht hws
    subst hws
    refine ⟨cellWrites_length vs cells tables head hc ht, fun i c link v hv hcell hlink => ?_⟩
    subst hlink
    obtain ⟨last, above⟩ := cellWrites_getElem? (g := g) (ref := ref) (origin := origin) vs cells tables head hc ht i c v hv hcell
    constructor
    · intro h
      obtain ⟨free, long, bytes⟩ := newCellBytes_last (fun j => Config.absentByte g (c + j)) v ref (if i = 0 then head else 0) origin
      exact ⟨free, long, (last h).trans (by rw [bytes]; rfl)⟩
    · intro t h htable
      obtain ⟨free, x, long, bytes⟩ :=
        newCellBytes_above (fun j => Config.absentByte g (c + j)) v t (if i = 0 then head else 0) origin
      exact ⟨free, x, long, (above t h htable).trans (by rw [bytes]; rfl)⟩
  · exact fun n a bs short => ⟨writesOf_length n a bs short, writesOf_getElem? n a bs short⟩
  · exact fun v vs c t cs ts => ⟨rfl, rfl⟩
  · intro s e k path b work du stage service exponent
    refine ⟨_, ends s, fun past => ?_, fun low wrong => ?_⟩
    · obtain ⟨x, mem, faults⟩ := planHeader_faults work stage service exponent
        (List.ne_nil_of_mem (mem_tableFaults.mpr (.inl ⟨past, rfl⟩)))
      obtain ⟨-, rfl⟩ := (mem_tableFaults.mp mem).resolve_right (by omega)
      exact faults
    · have faulty : tableFaults s.dir k.duRules k.table b ≠ [] := wrong.elim
        (fun past => List.ne_nil_of_mem (mem_tableFaults.mpr (.inr (.inl ⟨low, past, rfl⟩))))
        (fun outside => List.ne_nil_of_mem (mem_tableFaults.mpr (.inr (.inr ⟨low, ⟨du, outside⟩, rfl⟩))))
      obtain ⟨x, mem, faults⟩ := planHeader_faults work stage service exponent faulty
      obtain ⟨-, past, rfl⟩ | ⟨-, ⟨-, outside⟩, rfl⟩ := (mem_tableFaults.mp mem).resolve_left (by omega)
      · exact ⟨_, faults, .inl ⟨rfl, past⟩⟩
      · exact ⟨_, faults, .inr ⟨rfl, outside⟩⟩
  · intro s e k path h work du stage service head some
    refine ⟨_, ends s, fun aligned inside => planHead_reads work stage service head some aligned inside, fun wrong => ?_⟩
    have faulty : cellAddressFaults s.dir k.duRules h k.table ≠ [] := wrong.elim
      (fun odd => List.ne_nil_of_mem (mem_cellAddressFaults.mpr (.inl ⟨odd, rfl⟩)))
      (fun outside => List.ne_nil_of_mem (mem_cellAddressFaults.mpr (.inr ⟨⟨du, outside⟩, rfl⟩)))
    obtain ⟨x, mem, faults⟩ := planHead_faults work stage service head some faulty
    obtain ⟨odd, rfl⟩ | ⟨⟨-, outside⟩, rfl⟩ := mem_cellAddressFaults.mp mem
    · exact ⟨_, faults, .inl ⟨rfl, odd⟩⟩
    · exact ⟨_, faults, .inr ⟨rfl, outside⟩⟩
  · intro s e k path bs c work du stage service read fields
    subst fields
    refine ⟨_, ends s, planCell_faults work stage service read, fun sound => ⟨fun differ more => ⟨?_, ?_, ?_⟩, ?_⟩⟩
    · exact planCell_limit work stage service read sound differ more
    · exact planCell_chain work stage service read sound differ more
    · exact planCell_outside work stage service read sound du differ more
    · intro same more next outside
      refine planCell_nextOutside work stage service read sound same ?_ next outside
      rwa [List.length_append, List.length_singleton]
  · exact fun t c free a => allocate_chooses
end

section
/-! SUPPORT. Retranslation fetches and replacements, the rendering of units, the steno of a stroke, and the bounds of lines; with them O27. -/

namespace Sys2Proof.Machine

/-! ## RETR_READ_END (R27, R49, R75) -/

theorem exec_retrReadEnd (s : State) : exec .retrReadEnd s = .next s.retrReadEnd := rfl

/-- The end of a RETR read that a fetch waited for. -/
theorem retrReadEnd_fetch {s : State} {h : Handing} {got : List Byte} {m : ReqMarks} {a n : Nat} (retr : s.te.retr = .fetch h got m)
    (service : s.arb.inService = some { cls := .retr, op := .read a n }) :
    s.retrReadEnd = (s.endOperation { cls := .retr, op := .read a n }).retrFetch h m (fetchStep h.ref got (s.mem.bytesAt a n)) := by
  have serving : s.serving .retr = some { cls := .retr, op := .read a n } := by rw [State.serving, service]; rfl
  simp only [State.retrReadEnd, serving, State.retrData, endOperation_te, retr]
  rfl

section
variable {s u : State} {h : Handing} {m : ReqMarks}

theorem frame_retrFetch (s : State) (h : Handing) (m : ReqMarks) (o : FetchOut) :
    SameBut [.te, .arb, .latches] s (s.retrFetch h m o) := by
  cases o with
  | more got => exact (frame_setTe _ _).chain (frame_request _ _ _) (by decide) (by decide)
  | text got =>
    exact frame_ite ((frame_retrFetchFrom _ _).mono (by decide))
      (((frame_setTe _ _).trans (frame_requestReplacement _ _ _)).mono (by decide))
  | bad a =>
    exact frame_ite ((frame_latch _ _).chain (frame_retrFetchFrom _ _) (by decide) (by decide))
      ((frame_latch _ _).chain (frame_setTe _ _) (by decide) (by decide))

theorem requestReplacement_te (s : State) (vs : List Stroke) (text : List Byte) : (s.requestReplacement vs text).te =
    { s.te with retr := if withoutCommands text = [] then .idle else .requested vs (withoutCommands text) } := by
  unfold State.requestReplacement
  cases withoutCommands text <;> rfl

/-- The text is whole, the generation unchanged (R75). -/
theorem retrFetch_kept (done : ReadDone s u) (same : m.raiseSeen = false) (all : List Byte) :
    SameBut [.te, .arb] s (u.retrFetch h m (.text all)) ∧ (u.retrFetch h m (.text all)).arb = s.arb.next
    ∧ (u.retrFetch h m (.text all)).te =
      { s.te with kept := some { ref := h.ref, text := all },
                  retr := if withoutCommands all = [] then .idle else .requested h.strokes (withoutCommands all) } := by
  have te : SameBut [.te] u (u.retrFetch h m (.text all)) := by
    rw [State.retrFetch, same]
    exact (frame_setTe _ _).trans (frame_requestReplacement _ _ _)
  refine ⟨done.1.chain te (by decide) (by decide), (te.arb (by decide)).trans done.2, ?_⟩
  rw [State.retrFetch, same, ← done.te]
  exact requestReplacement_te _ _ _

/-- The text is whole, a raise was seen: the fetch begins again (R49). -/
theorem retrFetch_again (done : ReadDone s u) (raised : m.raiseSeen = true) (all : List Byte) :
    SameBut [.te, .arb] s (u.retrFetch h m (.text all))
    ∧ (u.retrFetch h m (.text all)).arb = s.arb.next.request { cls := .retr, op := .read h.ref.addr (min 16 h.ref.len) }
    ∧ (u.retrFetch h m (.text all)).te =
      { s.te with retr := .fetch h [] { generation := s.du.generation, raiseSeen := false, fenceSeen := false } } := by
  rw [State.retrFetch, raised, ← done.te, ← done.2, ← done.du]
  exact ⟨done.1.chain (frame_retrFetchFrom u h) (by decide) (by decide), rfl, rfl⟩

theorem retrFetch_more (done : ReadDone s u) (all : List Byte) :
    SameBut [.te, .arb] s (u.retrFetch h m (.more all)) ∧ (u.retrFetch h m (.more all)).te = { s.te with retr := .fetch h all m }
    ∧ (u.retrFetch h m (.more all)).arb = s.arb.next.request { cls := .retr, op := fetchOp h.ref all.length } := by
  rw [State.retrFetch, ← done.te, ← done.2]
  exact ⟨done.1.chain ((frame_setTe _ _).chain (zs := [.te, .arb]) (frame_request _ _ _) (by decide) (by decide))
    (by decide) (by decide), rfl, rfl⟩

/-- A byte outside the code ends the handing, or after a raise begins the fetch again (R27, R49). -/
theorem retrFetch_bad (done : ReadDone s u) (a : Nat) :
    SameBut [.te, .arb, .latches] s (u.retrFetch h m (.bad a))
    ∧ (u.retrFetch h m (.bad a)).lcp = s.lcp.latched (.dictFault 0 .textCode a)
    ∧ (m.raiseSeen = false →
        (u.retrFetch h m (.bad a)).te = { s.te with retr := .idle } ∧ (u.retrFetch h m (.bad a)).arb = s.arb.next)
    ∧ (m.raiseSeen = true →
        (u.retrFetch h m (.bad a)).te =
          { s.te with retr := .fetch h [] { generation := s.du.generation, raiseSeen := false, fenceSeen := false } }
        ∧ (u.retrFetch h m (.bad a)).arb = s.arb.next.request { cls := .retr, op := .read h.ref.addr (min 16 h.ref.len) }) := by
  refine ⟨done.1.chain (frame_retrFetch u h m _) (by decide) (by decide), ?_, fun same => ?_, fun raised => ?_⟩
  · rw [State.retrFetch, ← done.lcp]
    cases m.raiseSeen <;> rfl
  · rw [State.retrFetch, same, ← done.te, ← done.2]
    exact ⟨rfl, rfl⟩
  · rw [State.retrFetch, raised, ← done.te, ← done.2, ← done.du]
    exact ⟨rfl, rfl⟩

end

/-! ## REPLACEMENT (R76, R88, R92) -/

theorem exec_replacement (s : State) : exec .replacement s = .next s.replacement := rfl

/-- The replacement request taken, and the region's runs replaced. -/
theorem replacement_requested {s : State} {vs : List Stroke} {text : List Byte} (retr : s.te.retr = .requested vs text) :
    s.replacement = ((s.setTe { s.te with retr := .idle }).replaceUnits vs text).offered := by
  rw [State.replacement, retr]
  rfl

theorem tailsAllowed_iff (s : State) : s.tailsAllowed = true ↔
    0 < s.pub.ownWeight ∧ s.pub.muted = false ∧ s.cu.conflict = false := by
  simp [State.tailsAllowed, and_assoc]

theorem noticeDue_of_sameNumber {s t : State} (same : s.tb.committedThrough = t.tb.committedThrough) :
    noticeDue s t = true ↔ s.tb.region.lines ≠ t.tb.region.lines := by
  simp [noticeDue, same]

/-- The Publisher after units were replaced: a TAIL image waits where the open lines changed and TAILs are allowed (R88, R128). -/
theorem setUnits_pub {s : State} {us : List TextUnit} {r : Region}
    (rendered : r = Region.render { s.tb.region with units := us } s.cfg.width s.cfg.indent) :
    (s.setUnits us).pub =
      if 0 < s.pub.ownWeight ∧ s.pub.muted = false ∧ s.cu.conflict = false ∧ s.tb.region.lines ≠ r.lines then
        { s.pub with
          tailWaiting := some { series := s.tb.series, custody := s.cu.state, committed := s.tb.committedThrough,
                                firstOpen := s.tb.firstOpen, lines := r.lines, attempts := 0 },
          refreshAt := some (s.clock.ms + 2000) }
      else s.pub := by
  subst rendered
  have due := noticeDue_of_sameNumber (s := s)
    (t := s.setTb (s.tb.setRegion (Region.render { s.tb.region with units := us } s.cfg.width s.cfg.indent))) rfl
  have allowed := tailsAllowed_iff
    (s.setTb (s.tb.setRegion (Region.render { s.tb.region with units := us } s.cfg.width s.cfg.indent)))
  rw [State.setUnits, State.notified]
  split
  next told =>
    have differ : s.tb.region.lines ≠ (Region.render { s.tb.region with units := us } s.cfg.width s.cfg.indent).lines := due.mp told
    rw [State.buildTail]
    split
    next may =>
      obtain ⟨weight, heard, free⟩ := allowed.mp may
      exact (if_pos ⟨weight, heard, free, differ⟩).symm
    next may => exact (if_neg fun ⟨weight, heard, free, _⟩ => may (allowed.mpr ⟨weight, heard, free⟩)).symm
  next same => exact (if_neg fun ⟨_, _, _, differ⟩ => same (due.mpr differ)).symm

theorem setUnits_tb (s : State) (us : List TextUnit) : (s.setUnits us).tb =
    s.tb.setRegion (Region.render { s.tb.region with units := us } s.cfg.width s.cfg.indent) := by
  rw [State.setUnits, notified_tb]
  rfl

/-- Four open lines or fewer: nothing is committed (R89). -/
theorem commitOver_few {s : State} (few : s.tb.region.lines.length ≤ 4) : s.commitOver = s := by
  unfold State.commitOver
  cases s.tb.region.lines.length with
  | zero => rfl
  | succ n => exact if_neg (by simpa using few)

theorem replaceUnits_none {s : State} {vs : List Stroke} (text : List Byte) (none : hasRun vs s.tb.region.units = false) :
    s.replaceUnits vs text = s := by
  rw [State.replaceUnits, none]
  rfl

theorem replaceUnits_runs {s : State} {vs : List Stroke} (text : List Byte) (run : hasRun vs s.tb.region.units = true) :
    s.replaceUnits vs text = (s.setUnits (replaceRuns vs text 0 s.tb.region.units)).commitOver := if_pos run

/-! ## A rendering (R79, R80, R88) -/

/-- A rendering changes nothing of a unit but its snapshot and its anchor line. -/
theorem renderUnits_kept (w i : Nat) (us : List TextUnit) (p : Pen) :
    ((renderUnits w i p us).2.map fun u => (u.kind, u.strokes, u.text)) = us.map fun u => (u.kind, u.strokes, u.text) := by
  induction us generalizing p with
  | nil => rfl
  | cons u us ih => simp only [renderUnits, List.map_cons, ih]

/-- The oldest unit is placed from the base state. -/
theorem render_first_snapshot (r : Region) (w i : Nat) (x : TextUnit) (first : (r.render w i).units.head? = some x) :
    x.snapshot = r.lead.base := by
  have units : (r.render w i).units = (renderUnits w i r.lead.pen r.units).2 := rfl
  rw [units] at first
  cases us : r.units with
  | nil => simp [us, renderUnits] at first
  | cons u us' =>
    rw [us] at first
    obtain rfl := Option.some.inj first
    rfl

/-- The newest unit is placed by the pen the units before it leave. -/
theorem render_newest {r : Region} {us : List TextUnit} {x : TextUnit} (w i : Nat) (newest : r.units = us ++ [x]) :
    (r.render w i).lines = ((renderUnits w i r.lead.pen us).1.placeUnit w i x).1.lines
    ∧ (r.render w i).format = ((renderUnits w i r.lead.pen us).1.placeUnit w i x).1.format := by
  have pen : (renderUnits w i r.lead.pen r.units).1 = ((renderUnits w i r.lead.pen us).1.placeUnit w i x).1 := by
    rw [newest, renderUnits_append]
    rfl
  rw [← pen]
  exact ⟨rfl, rfl⟩

/-! ## The steno of a stroke (R82) -/

theorem stenoRun_append (v : Stroke) (lo n m : Nat) : stenoRun v lo (n + m) = stenoRun v lo n ++ stenoRun v (lo + n) m := by
  simp only [stenoRun, ← List.map_append, ← List.filter_append]
  rw [← List.range'_append_1]

theorem stenoRun_length (v : Stroke) (lo n : Nat) : (stenoRun v lo n).length ≤ n := by
  rw [stenoRun, List.length_map]
  exact (List.length_filter_le _ _).trans (List.length_range' ..).le

theorem stenoRun_mem {v : Stroke} {lo n : Nat} {b : Byte} (mem : b ∈ stenoRun v lo n) : ∃ k, lo ≤ k ∧ k < lo + n ∧
    v.getLsbD (k - 1) = true ∧ stenoLetters.getD (k - 1) 0 = b := by
  obtain ⟨k, listed, letter⟩ := List.mem_map.mp mem
  obtain ⟨inRange, held⟩ := List.mem_filter.mp listed
  obtain ⟨low, high⟩ := List.mem_range'_1.mp inRange
  exact ⟨k, low, high, held, letter⟩

theorem stenoRun_ne_nil {v : Stroke} {lo n k : Nat} (low : lo ≤ k) (high : k < lo + n) (held : v.getLsbD (k - 1) = true) :
    stenoRun v lo n ≠ [] :=
  List.ne_nil_of_mem (List.mem_map_of_mem (List.mem_filter.mpr ⟨List.mem_range'_1.mpr ⟨low, high⟩, held⟩))

/-- Every letter of a key is a character other than a space. -/
theorem stenoLetters_plain : ∀ k < 23, 33 ≤ (stenoLetters.getD k 0).toNat := by decide

theorem stenoRun_plain {v : Stroke} {lo n : Nat} (high : lo + n ≤ 24) : ∀ b ∈ stenoRun v lo n, 33 ≤ b.toNat := by
  intro b mem
  obtain ⟨k, above, below, -, rfl⟩ := stenoRun_mem mem
  exact stenoLetters_plain (k - 1) (by omega)

/-- The steno of a stroke by the keys up to 12, the hyphen, and the keys from 13 on. -/
theorem stenoNotation_eq (v : Stroke) : stenoNotation v =
    stenoRun v 1 12 ++ (if stenoRun v 8 5 = [] ∧ stenoRun v 13 10 ≠ [] then [45] else []) ++ stenoRun v 13 11 := by
  have hyphen : ((stenoRun v 8 5).isEmpty && !(stenoRun v 13 10).isEmpty) = decide (stenoRun v 8 5 = [] ∧ stenoRun v 13 10 ≠ []) := by
    cases stenoRun v 8 5 <;> cases stenoRun v 13 10 <;> rfl
  rw [stenoNotation, hyphen, stenoRun_append v 1 7 5, stenoRun_append v 13 10 1]
  simp

theorem stenoNotation_ne_nil {v : Stroke} (stroke : v ≠ 0) : stenoNotation v ≠ [] := by
  obtain ⟨i, held⟩ : ∃ i, v.getLsbD i = true := by
    by_contra none
    exact stroke (BitVec.eq_of_getLsbD_eq fun i _ => by simpa using fun h => none ⟨i, h⟩)
  have key : i < 23 := BitVec.lt_of_getLsbD held
  rw [stenoNotation_eq]
  by_cases low : i < 12
  · have some : stenoRun v 1 12 ≠ [] := stenoRun_ne_nil (k := i + 1) (by omega) (by omega) held
    simp [some]
  · have some : stenoRun v 13 11 ≠ [] := stenoRun_ne_nil (k := i + 1) (by omega) (by omega) held
    simp [some]

/-- A hyphen stands only where the keys 8 to 12 do not. -/
theorem stenoNotation_length (v : Stroke) : (stenoNotation v).length ≤ 23 := by
  have low := stenoRun_length v 1 12
  have left := stenoRun_length v 1 7
  have right := stenoRun_length v 13 11
  rw [stenoNotation_eq]
  split
  next bare =>
    rw [stenoRun_append v 1 7 5, bare.1]
    simp only [List.append_nil, List.length_append, List.length_singleton]
    omega
  next =>
    simp only [List.append_nil, List.length_append]
    omega

theorem stenoNotation_plain (v : Stroke) : ∀ b ∈ stenoNotation v, 33 ≤ b.toNat := by
  intro b mem
  rw [stenoNotation_eq, List.mem_append, List.mem_append] at mem
  obtain (mem | mem) | mem := mem
  · exact stenoRun_plain (by decide) b mem
  · split at mem
    · obtain rfl := List.mem_singleton.mp mem
      decide
    · exact absurd mem List.not_mem_nil
  · exact stenoRun_plain (by decide) b mem

/-! ## Words (R84 to R87) -/

theorem casedChar_eq (f : Format) (b : Byte) : casedChar f b =
    if isUpper b = false ∧ isLower b = false then (b, f)
    else (if f.cap = true ∧ isLower b = true then b - 32 else if f.cap = false ∧ f.lower = true ∧ isUpper b = true then b + 32 else b,
      { f with cap := false, lower := false }) := by
  have letter : isLetter b = true ↔ ¬ (isUpper b = false ∧ isLower b = false) := by
    simp [isLetter, or_iff_not_imp_left]
  by_cases mark : isUpper b = false ∧ isLower b = false
  · rw [if_pos mark, casedChar, if_neg fun is => letter.mp is mark]
  · rw [if_neg mark, casedChar, if_pos (letter.mpr mark)]
    cases f.cap with
    | true => simp [upper]
    | false => simp [lower, ite_and]

theorem para_eq (p : Pen) (i : Nat) : p.para i =
    if p.lineStart = true then { p with cur := List.replicate i 32 }
    else { p with done := p.done ++ [p.cur], cur := List.replicate i 32, lineStart := true } := rfl

section
variable {p : Pen} {w sep sp : Nat} {word : List Byte} (hsp : sp = if p.lineStart = true then 0 else sep)
include hsp

theorem placeWord_fits (fits : p.cur.length + sp + word.length ≤ w) :
    p.placeWord w sep word = { p with cur := p.cur ++ List.replicate sp 32 ++ word, lineStart := false }
    ∧ p.wordLine w sep word = p.done.length := by
  subst hsp
  exact ⟨if_pos fits, if_pos fits⟩

theorem placeWord_wraps (full : w < p.cur.length + sp + word.length) (fits : word.length ≤ w) :
    p.placeWord w sep word = { p with done := p.done ++ [p.cur], cur := word, lineStart := false }
    ∧ p.wordLine w sep word = p.done.length + 1 := by
  subst hsp
  have full' := Nat.not_le.mpr full
  exact ⟨(if_neg full').trans (if_pos fits), (if_neg full').trans (if_pos fits)⟩

omit hsp in
/-- The pen that an over-long word starts with: a line that holds nothing, or a new one (R86). -/
theorem placeWord_long (long : w < word.length) :
    p.placeWord w sep word =
      { (if p.cur.isEmpty then p else p.newLine []).placePieces (cutPieces w word.length word) with lineStart := false }
    ∧ p.wordLine w sep word = if p.cur.length = 0 then p.done.length else p.done.length + 1 := by
  have full : ¬ p.cur.length + (if p.lineStart = true then 0 else sep) + word.length ≤ w := by omega
  refine ⟨(if_neg full).trans (if_neg (Nat.not_le.mpr long)), ((if_neg full).trans (if_neg (Nat.not_le.mpr long))).trans ?_⟩
  cases p.cur <;> rfl

omit hsp in
/-- An over-long word is cut into pieces of a line's width, the last shorter or as wide (R86). -/
theorem placeWord_cut (wide : 0 < w) (long : w < word.length) : ∃ pieces,
    (p.placeWord w sep word).done = (if p.cur.length = 0 then p.done else p.done ++ [p.cur]) ++ pieces
    ∧ word = pieces.flatten ++ (p.placeWord w sep word).cur ∧ (∀ x ∈ pieces, x.length = w)
    ∧ 1 ≤ (p.placeWord w sep word).cur.length ∧ (p.placeWord w sep word).cur.length ≤ w := by
  obtain ⟨pieces, last, cut, whole, widths, some, short⟩ :=
    cutPieces_spec w wide word.length word (List.ne_nil_of_length_pos (by omega)) (Nat.le_refl _)
  have placed : p.placeWord w sep word =
      { p with done := (if p.cur.length = 0 then p.done else p.done ++ [p.cur]) ++ pieces, cur := last, lineStart := false } := by
    rw [(placeWord_long long).1, cut]
    cases empty : p.cur with
    | nil =>
      rw [placePieces_spec _ _ _ (by simpa using empty)]
      rfl
    | cons b bs =>
      rw [placePieces_spec _ _ _ (by rfl)]
      simp [Pen.newLine, empty]
  rw [placed]
  exact ⟨pieces, rfl, whole, widths, some, short⟩

omit hsp in
theorem placeWord_lineStart (p : Pen) (w sep : Nat) (word : List Byte) : (p.placeWord w sep word).lineStart = false := by
  simp only [Pen.placeWord]
  split_ifs <;> rfl

end

/-! ## A unit's text (R81, R83, R87) -/

theorem endWord_none {t : TextPen} (g : Setting) (none : t.word = []) : t.endWord g = t := by
  simp [TextPen.endWord, none]

theorem endWord_some {t : TextPen} (g : Setting) (some : t.word ≠ []) : t.endWord g =
    { pen := { t.pen.placeWord g.width (if t.words = 0 then g.sep else 1) t.word with
               format := { (t.pen.placeWord g.width (if t.words = 0 then g.sep else 1) t.word).format with attach := false } },
      word := [], words := t.words + 1,
      first := if t.first = none then Option.some (t.pen.wordLine g.width (if t.words = 0 then g.sep else 1) t.word) else t.first } := by
  have nonempty : ¬ t.word.isEmpty = true := by simpa using some
  rw [TextPen.endWord, if_neg nonempty]
  cases t.first <;> rfl

theorem byte_space (t : TextPen) (g : Setting) (cased : Bool) : t.byte g cased 32 = t.endWord g := rfl

theorem byte_char (t : TextPen) (g : Setting) (cased : Bool) {b : Byte} (char : 33 ≤ b.toNat) : t.byte g cased b = t.char cased b := by
  have notSpace : b ≠ 32 := by
    rintro rfl
    exact absurd char (by decide)
  exact (if_neg notSpace).trans (if_pos char)

theorem byte_para (t : TextPen) (g : Setting) (cased : Bool) : t.byte g cased 7 =
    { t.endWord g with
      pen := (t.endWord g).pen.para g.indent,
      first := if g.indent = 0 ∨ (t.endWord g).first ≠ none then (t.endWord g).first
               else some ((t.endWord g).pen.para g.indent).done.length } := by
  change t.para g = _
  rw [TextPen.para]
  cases (t.endWord g).first <;> by_cases flush : g.indent = 0 <;> simp [flush]

/-- The marks that act where the text ends or begins place nothing where they stand. -/
theorem byte_position (t : TextPen) (g : Setting) (cased : Bool) {b : Byte} (position : b = 1 ∨ b = 2 ∨ b = 3) :
    t.byte g cased b = t := by
  obtain rfl | rfl | rfl := position <;> rfl

/-- An UNTRANSLATE's text is one word (R79, R82). -/
theorem placeUnit_untranslate (p : Pen) (w i : Nat) {x : TextUnit} (kind : x.kind = .untranslate) (some : x.text ≠ [])
    (plain : ∀ b ∈ x.text, 33 ≤ b.toNat) : p.placeUnit w i x =
      ({ p.placeWord w (if p.format.attach = true then 0 else 1) x.text with
         format := { p.format with attach := false, glueLast := false } },
       p.wordLine w (if p.format.attach = true then 0 else 1) x.text) := by
  have mark : ∀ m : Byte, m.toNat < 33 → x.text.head? ≠ Option.some m ∧ x.text.getLast? ≠ Option.some m := by
    intro m small
    refine ⟨fun h => ?_, fun h => ?_⟩
    · exact Nat.not_le.mpr small (plain m (List.mem_of_mem_head? h))
    · exact Nat.not_le.mpr small (plain m (List.mem_of_getLast? h))
  have sep : firstSep p.format x.text = if p.format.attach = true then 0 else 1 :=
    if_congr ⟨fun h => h.resolve_right fun h => h.elim (mark 1 (by decide)).1 fun h => (mark 3 (by decide)).1 h.1, .inl⟩ rfl rfl
  have format := placeWord_format p w (if p.format.attach = true then 0 else 1) x.text
  have uncased : decide (x.kind ≠ .untranslate) = false := by simp [kind]
  simp only [Pen.placeUnit, uncased, plain_fold _ _ _ plain, List.nil_append, sep]
  rw [endWord_some _ some]
  simp only [endFlags, format, Nat.zero_add, Nat.one_ne_zero, if_false, if_true, decide_eq_false (mark 2 (by decide)).2,
    decide_eq_false (mark 3 (by decide)).1]
  rfl

/-! ## No line passes the width or ends in a space (R85, R90) -/

/-- Every line of a pen keeps to the width and ends in no space but indent. -/
def Pen.LinesOk (w : Nat) (p : Pen) : Prop := ∀ l ∈ p.lines, LineOk w l

theorem linesOk_iff {w : Nat} {p : Pen} : p.LinesOk w ↔ (∀ l ∈ p.done, LineOk w l) ∧ LineOk w p.cur := by
  rw [Pen.LinesOk, Pen.lines, List.forall_mem_append, List.forall_mem_singleton]

/-- A line that ends in a plain character. -/
theorem lineOk_plain {w : Nat} (l : List Byte) {word : List Byte} (short : (l ++ word).length ≤ w) (some : word ≠ [])
    (plain : ∀ b ∈ word, 33 ≤ b.toNat) : LineOk w (l ++ word) := by
  refine ⟨short, fun space => ?_⟩
  rw [List.getLast?_append_of_ne_nil _ some] at space
  exact absurd (plain 32 (List.mem_of_getLast? space)) (by decide)

theorem lineOk_indent {w i : Nat} (short : i ≤ w) : LineOk w (List.replicate i 32) :=
  ⟨by simpa using short, fun _ _ mem => List.eq_of_mem_replicate mem⟩

theorem placeWord_linesOk {p : Pen} {w : Nat} (sep : Nat) {word : List Byte} (wide : 0 < w) (ok : p.LinesOk w) (some : word ≠ [])
    (plain : ∀ b ∈ word, 33 ≤ b.toNat) :
    (p.placeWord w sep word).LinesOk w ∧ p.done <+: (p.placeWord w sep word).done := by
  obtain ⟨done, cur⟩ := linesOk_iff.mp ok
  have grown : ∀ l ∈ p.done ++ [p.cur], LineOk w l := ok
  rw [linesOk_iff]
  by_cases fits : p.cur.length + (if p.lineStart = true then 0 else sep) + word.length ≤ w
  · rw [(placeWord_fits rfl fits).1]
    refine ⟨⟨done, lineOk_plain _ ?_ some plain⟩, List.prefix_refl _⟩
    simpa [List.length_append, Nat.add_assoc] using fits
  · by_cases short : word.length ≤ w
    · rw [(placeWord_wraps rfl (Nat.not_le.mp fits) short).1]
      exact ⟨⟨grown, lineOk_plain [] short some plain⟩, List.prefix_append _ _⟩
    · obtain ⟨pieces, cut, whole, widths, long, last⟩ := placeWord_cut (p := p) (sep := sep) wide (Nat.not_le.mp short)
      have plainPiece : ∀ x ∈ pieces, ∀ b ∈ x, 33 ≤ b.toNat := fun x mem b hb =>
        plain b (by rw [whole]; exact List.mem_append_left _ (List.mem_flatten.mpr ⟨x, mem, hb⟩))
      have plainLast : ∀ b ∈ (p.placeWord w sep word).cur, 33 ≤ b.toNat := fun b hb =>
        plain b (by rw [whole]; exact List.mem_append_right _ hb)
      have head : (∀ l ∈ (if p.cur.length = 0 then p.done else p.done ++ [p.cur]), LineOk w l)
          ∧ p.done <+: (if p.cur.length = 0 then p.done else p.done ++ [p.cur]) := by
        split
        · exact ⟨done, List.prefix_refl _⟩
        · exact ⟨grown, List.prefix_append _ _⟩
      rw [cut, List.forall_mem_append]
      refine ⟨⟨⟨head.1, fun x mem => ?_⟩, lineOk_plain [] last (List.ne_nil_of_length_pos long) plainLast⟩,
        head.2.trans (List.prefix_append _ _)⟩
      exact lineOk_plain [] (widths x mem).le (List.ne_nil_of_length_pos (by rw [widths x mem]; exact wide)) (plainPiece x mem)

theorem para_linesOk {p : Pen} {w i : Nat} (short : i ≤ w) (ok : p.LinesOk w) : (p.para i).LinesOk w ∧ p.done <+: (p.para i).done := by
  obtain ⟨done, cur⟩ := linesOk_iff.mp ok
  rw [linesOk_iff, para_eq]
  split
  · exact ⟨⟨done, lineOk_indent short⟩, List.prefix_refl _⟩
  · exact ⟨⟨ok, lineOk_indent short⟩, List.prefix_append _ _⟩

/-- A text being placed from the pen `p`: its lines keep to the width, its word is of plain characters, and the lines before the
insertion point stand. -/
def TextPen.Within (w : Nat) (p : Pen) (t : TextPen) : Prop :=
  t.pen.LinesOk w ∧ (∀ b ∈ t.word, 33 ≤ b.toNat) ∧ p.done <+: t.pen.done

section
variable {w : Nat} {p : Pen} {t : TextPen} {g : Setting} (wide : 0 < g.width) (ok : t.Within g.width p)
include ok

include wide in
theorem within_endWord : (t.endWord g).Within g.width p := by
  obtain ⟨lines, plain, before⟩ := ok
  by_cases some : t.word = []
  · rw [endWord_none g some]
    exact ⟨lines, plain, before⟩
  · obtain ⟨placed, grown⟩ := placeWord_linesOk (if t.words = 0 then g.sep else 1) wide lines some plain
    rw [endWord_some g some]
    exact ⟨placed, fun b mem => absurd mem List.not_mem_nil, before.trans grown⟩

theorem within_char (cased : Bool) {b : Byte} (char : 33 ≤ b.toNat) : (t.char cased b).Within g.width p := by
  obtain ⟨lines, plain, before⟩ := ok
  cases cased with
  | true =>
    refine ⟨lines, fun x mem => ?_, before⟩
    obtain mem | mem := List.mem_append.mp mem
    · exact plain x mem
    · obtain rfl := List.mem_singleton.mp mem
      exact casedChar_ge _ _ char
  | false =>
    refine ⟨lines, fun x mem => ?_, before⟩
    obtain mem | mem := List.mem_append.mp mem
    · exact plain x mem
    · obtain rfl := List.mem_singleton.mp mem
      exact char

include wide in
theorem within_para (indent : g.indent ≤ g.width) : (t.para g).Within g.width p := by
  obtain ⟨lines, plain, before⟩ := within_endWord wide ok
  obtain ⟨moved, grown⟩ := para_linesOk indent lines
  exact ⟨moved, plain, before.trans grown⟩

include wide in
theorem within_byte (indent : g.indent ≤ g.width) (cased : Bool) (b : Byte) : (t.byte g cased b).Within g.width p := by
  unfold TextPen.byte
  split_ifs with space char caps lowers para
  · exact within_endWord wide ok
  · exact within_char ok cased char
  · exact ok
  · exact ok
  · exact within_para wide ok indent
  · exact ok

end

theorem within_bytes {p : Pen} {g : Setting} (wide : 0 < g.width) (indent : g.indent ≤ g.width) (cased : Bool) (bs : List Byte)
    (t : TextPen) (ok : t.Within g.width p) :
    (bs.foldl (fun (t : TextPen) (b : Byte) => t.byte g cased b) t).Within g.width p := by
  induction bs generalizing t with
  | nil => exact ok
  | cons b bs ih => exact ih _ (within_byte wide ok indent cased b)

theorem placeUnit_linesOk {p : Pen} {w i : Nat} (x : TextUnit) (wide : 0 < w) (indent : i ≤ w) (ok : p.LinesOk w) :
    (p.placeUnit w i x).1.LinesOk w ∧ p.done <+: (p.placeUnit w i x).1.done := by
  have begun : TextPen.Within w p { pen := p, word := [], words := 0, first := none } :=
    ⟨ok, fun b mem => absurd mem List.not_mem_nil, List.prefix_refl _⟩
  obtain ⟨lines, -, before⟩ := within_endWord wide
    (within_bytes (g := { width := w, indent := i, sep := firstSep p.format x.text }) wide indent
      (decide (x.kind ≠ .untranslate)) x.text _ begun)
  exact ⟨lines, before⟩

end Sys2Proof.Machine

open Sys2Proof Sys2Proof.Machine

/-- Settles O27. A RETR read ends by what the bytes read make of the fetch (`retrFetch_kept`, `retrFetch_again`, `retrFetch_more`,
`retrFetch_bad`); a replacement sets the region's units and then commits what stands over four lines; the steno of a stroke and the placing of
words, marks and units are read off their definitions case by case, and no line passes the width because each piece placed keeps to it
(`placeWord_linesOk`). -/
theorem retranslationFetchesAndReplaces : Obligations.RetranslationFetchesAndReplaces := by
  unfold Obligations.RetranslationFetchesAndReplaces
  refine ⟨?text, ?more, ?bad, ?replacement, ?rendering, ?steno, ?word, para_eq, ?cased, ?byte, ?unit, ?untranslate,
    fun p w i x wide indent ok => placeUnit_linesOk x wide indent ok⟩
  case text =>
    intro s h got m a n service retr good whole
    have done := readDone_endOperation s .retr a n
    refine ⟨_, (exec_retrReadEnd s).trans (congrArg Host.Outcome.next (retrReadEnd_fetch retr service)), ?_⟩
    rw [fetchStep_text good (by rwa [List.length_append, bytesAt_length])]
    cases raised : m.raiseSeen with
    | false =>
      obtain ⟨frame, arb, te⟩ := retrFetch_kept (h := h) done raised (got ++ s.mem.bytesAt a n)
      exact ⟨frame, fun _ => ⟨arb, te⟩, nofun⟩
    | true =>
      obtain ⟨frame, again⟩ := retrFetch_again (h := h) done raised (got ++ s.mem.bytesAt a n)
      exact ⟨frame, nofun, fun _ => again⟩
  case more =>
    rintro s h got all m a n service retr rfl good left
    refine ⟨_, (exec_retrReadEnd s).trans (congrArg Host.Outcome.next (retrReadEnd_fetch retr service)), ?_⟩
    rw [fetchStep_more good left]
    exact retrFetch_more (readDone_endOperation s .retr a n) _
  case bad =>
    intro s h got m a n i service retr short good bad
    refine ⟨_, (exec_retrReadEnd s).trans (congrArg Host.Outcome.next (retrReadEnd_fetch retr service)), ?_⟩
    rw [fetchStep_bad (firstBad_bytesAt _ _ _ _ short good bad)]
    exact retrFetch_bad (readDone_endOperation s .retr a n) _
  case replacement =>
    intro s vs text retr
    have taken : SameBut [.te] s (s.setTe { s.te with retr := .idle }) := frame_setTe _ _
    have replaced := frame_replaceUnits (s.setTe { s.te with retr := .idle }) vs text
    refine ⟨_, (exec_replacement s).trans (congrArg Host.Outcome.next (replacement_requested retr)),
      taken.chain replaced (by decide) (by decide), replaced.te (by decide), fun none => ?_, ?_⟩
    · rw [replaceUnits_none (s := s.setTe { s.te with retr := .idle }) text none]
      exact ⟨rfl, rfl, rfl, rfl⟩
    · rintro run r rfl
      rw [replaceUnits_runs (s := s.setTe { s.te with retr := .idle }) text run]
      have set := frame_setUnits (s.setTe { s.te with retr := .idle }) (replaceRuns vs text 0 s.tb.region.units)
      exact ⟨commitOver_lines _ (rendered_setUnits _ _), _, rfl, taken.chain set (by decide) (by decide), set.te (by decide),
        setUnits_tb _ _, setUnits_pub rfl, fun few => commitOver_few (by rw [setUnits_region]; exact few)⟩
  case rendering =>
    intro r w i
    refine ⟨render_lead r w i, render_again r w i, renderUnits_kept w i r.units r.lead.pen, fun none => ?_,
      fun x => render_first_snapshot r w i x, ?_⟩
    · rw [Region.render, none]
      rfl
    · rintro us x newest q rfl
      exact render_newest w i newest
  case steno =>
    rintro v keys rfl
    exact ⟨stenoNotation_eq v, fun stroke => List.length_pos_of_ne_nil (stenoNotation_ne_nil stroke), stenoNotation_length v,
      stenoNotation_plain v⟩
  case word =>
    rintro p q w sep c sp word wide rfl rfl spaces
    refine ⟨placeWord_lineStart p w sep word, placeWord_format p w sep word, fun fits => ?_, fun full fits => ?_, fun long => ?_⟩
    · obtain ⟨placed, line⟩ := placeWord_fits spaces fits
      rw [placed]
      exact ⟨rfl, rfl, line⟩
    · obtain ⟨placed, line⟩ := placeWord_wraps spaces full fits
      rw [placed]
      exact ⟨rfl, rfl, line⟩
    · obtain ⟨pieces, done, whole, widths, some, last⟩ := placeWord_cut (p := p) (sep := sep) wide long
      exact ⟨pieces, done, whole, widths, some, last, (placeWord_long long).2⟩
  case cased =>
    rintro f b up low rfl rfl
    simp only [Bool.decide_and]
    exact casedChar_eq f b
  case byte =>
    intro t g cased b
    refine ⟨?_, ?_, ?_, ?_, ?_, ?_, fun position => byte_position t g cased position, endWord_none g, ?_⟩
    · rintro rfl
      exact byte_space t g cased
    · rintro char rfl
      exact byte_char t g true char
    · rintro char rfl
      exact byte_char t g false char
    · rintro (rfl | rfl)
      · rfl
      · rfl
    · rintro rfl
      rfl
    · rintro rfl u rfl
      exact byte_para t g cased
    · rintro some sep q rfl rfl
      exact endWord_some g some
  case unit =>
    rintro p w i x t g rfl rfl
    rfl
  case untranslate =>
    rintro p w i sep x kind some plain rfl
    exact placeUnit_untranslate p w i kind some plain

end

section
/-! SUPPORT. The Store Arbiter's sets, and the Path Cache's fences, lookups and fills; with them O13 and O14. -/

namespace Sys2Proof.Machine

/-! ## The Store Arbiter (R53, R54) -/

/-- Requests in priority order (3.6). -/
def ByPriority (l : List Request) : Prop := l.Pairwise fun x y => x.cls.priority ≤ y.cls.priority

theorem stackRequest_perm (r : Request) (l : List Request) : (stackRequest r l).Perm (r :: l) := by
  induction l with
  | nil => exact .refl _
  | cons q rest ih =>
    rw [stackRequest]
    split
    · exact .refl _
    · exact (ih.cons q).trans (.swap r q rest)

/-- A request joins the stacked set behind those of its own class. -/
theorem stackRequest_byPriority {r : Request} {l : List Request} (sorted : ByPriority l) : ByPriority (stackRequest r l) := by
  induction l with
  | nil => exact List.pairwise_singleton _ _
  | cons q rest ih =>
    obtain ⟨first, later⟩ := List.pairwise_cons.mp sorted
    rw [stackRequest]
    split
    next higher =>
      refine List.pairwise_cons.mpr ⟨fun y mem => ?_, sorted⟩
      obtain rfl | mem := List.mem_cons.mp mem
      · exact higher.le
      · exact higher.le.trans (first y mem)
    next notHigher =>
      refine List.pairwise_cons.mpr ⟨fun y mem => ?_, ih later⟩
      obtain rfl | mem := List.mem_cons.mp ((stackRequest_perm r rest).mem_iff.mp mem)
      · exact Nat.not_lt.mp notHigher
      · exact first y mem

theorem request_waits {a : Arbiter} (r : Request) (busy : a.inService ≠ none ∨ a.batch ≠ []) :
    a.request r = { a with stacked := stackRequest r a.stacked } :=
  if_neg fun ⟨idle, empty⟩ => busy.elim (· idle) (· empty)

theorem next_batch {a : Arbiter} {r : Request} {rest : List Request} (batch : a.batch = r :: rest) :
    a.next = { a with inService := some r, batch := rest } := by
  rw [Arbiter.next, batch]

theorem next_stacked {a : Arbiter} {r : Request} {rest : List Request} (empty : a.batch = []) (stacked : a.stacked = r :: rest) :
    a.next = { inService := some r, batch := rest, stacked := [] } := by
  rw [Arbiter.next, empty, stacked]

theorem next_idle {a : Arbiter} (empty : a.batch = []) (alone : a.stacked = []) :
    a.next = { inService := none, batch := [], stacked := [] } := by
  rw [Arbiter.next, empty, alone]

/-! ## Fences of the Path Cache (R47) -/

theorem fence_way (c : Cache) (f : FenceScope) (i : Fin 16) (w : Fin 4) :
    (c.fence f).sets[i].ways[w] = fenceWay f c.sets[i].ways[w] := by
  simp [Cache.fence, CacheSet.fence]

/-- What each scope leaves of an entry. -/
theorem fenceWay_some (f : FenceScope) (e : CacheEntry) : fenceWay f (some e) =
    match f with
    | .all => none
    | .layer l => if e.layer = l ∧ e.content.fixed = false then none else some e
    | .stroke v => if e.stroke = v then none else some e
    | .strokeLayer v l => if e.stroke = v ∧ e.layer = l then none else some e := by
  cases f <;> simp [fenceWay, FenceScope.removes]

/-! ## The way of a key (R43 to R45) -/

/-- The way `j` of the set holds the key. -/
def CacheSet.Holds (x : CacheSet) (layer table : Nat) (stroke : Stroke) (j : Nat) : Prop :=
  ∃ e, x.ways[j]? = some (some e) ∧ e.layer = layer ∧ e.table = table ∧ e.stroke = stroke

theorem hasKey_iff (e : CacheEntry) (layer table : Nat) (stroke : Stroke) :
    e.hasKey layer table stroke = true ↔ e.layer = layer ∧ e.table = table ∧ e.stroke = stroke := by
  simp [CacheEntry.hasKey, and_assoc]

/-- The first place of a list where a test holds. -/
theorem findIdx?_first {α : Type} {l : List α} {p : α → Bool} {i : Nat} : l.findIdx? p = some i ↔
    (∃ x, l[i]? = some x ∧ p x = true) ∧ ∀ j, j < i → ¬ ∃ x, l[j]? = some x ∧ p x = true := by
  rw [List.findIdx?_eq_some_iff_getElem]
  constructor
  · rintro ⟨short, here, before⟩
    refine ⟨⟨l[i], List.getElem?_eq_getElem short, here⟩, fun j lt ⟨x, at_j, holds⟩ => before j lt ?_⟩
    rw [List.getElem?_eq_getElem (lt.trans short), Option.some.injEq] at at_j
    rwa [at_j]
  · rintro ⟨⟨x, at_i, holds⟩, before⟩
    obtain ⟨short, rfl⟩ := List.getElem?_eq_some_iff.mp at_i
    exact ⟨short, holds, fun j lt here => before j lt ⟨_, List.getElem?_eq_getElem (lt.trans short), here⟩⟩

theorem findIdx?_nowhere {α : Type} {l : List α} {p : α → Bool} : l.findIdx? p = none ↔
    ∀ j : Nat, ¬ ∃ x, l[j]? = some x ∧ p x = true := by
  rw [List.findIdx?_eq_none_iff]
  constructor
  · rintro fails j ⟨x, at_j, holds⟩
    simp [fails x (List.mem_of_getElem? at_j)] at holds
  · intro nowhere x mem
    obtain ⟨j, at_j⟩ := List.mem_iff_getElem?.mp mem
    exact Bool.eq_false_iff.mpr fun holds => nowhere j ⟨x, at_j, holds⟩

/-- The way `j` of a set holds a key, as `CacheSet.wayOf` tests it. -/
theorem holds_iff (x : CacheSet) (l t : Nat) (v : Stroke) (j : Nat) : x.Holds l t v j ↔
    ∃ o, x.ways.toList[j]? = some o ∧ (match o with
      | some e => e.hasKey l t v
      | none => false) = true := by
  rw [Vector.getElem?_toList]
  constructor
  · rintro ⟨e, at_j, key⟩
    exact ⟨some e, at_j, (hasKey_iff e l t v).mpr key⟩
  · rintro ⟨_ | e, at_j, key⟩
    · simp at key
    · exact ⟨e, at_j, (hasKey_iff e l t v).mp key⟩

theorem wayOf_some {x : CacheSet} {l t w : Nat} {v : Stroke} :
    x.wayOf l t v = some w ↔ x.Holds l t v w ∧ ∀ j, j < w → ¬ x.Holds l t v j := by
  simp only [holds_iff]
  exact findIdx?_first

theorem wayOf_none {x : CacheSet} {l t : Nat} {v : Stroke} : x.wayOf l t v = none ↔ ∀ j, ¬ x.Holds l t v j := by
  simp only [holds_iff]
  exact findIdx?_nowhere

/-- The way `j` of a set is empty, as `CacheSet.victim` tests it. -/
theorem empty_iff (x : CacheSet) (j : Nat) :
    x.ways[j]? = some none ↔ ∃ o, x.ways.toList[j]? = some o ∧ o.isNone = true := by
  simp [Vector.getElem?_toList]

theorem set_of_some {c : Cache} {i : Nat} {x : CacheSet} (set : c.sets[i]? = some x) : c.set i = x := by
  rw [Cache.set, set, Option.getD_some]

/-! ## Lookup and hit (R44) -/

section
variable {c : Cache} {l t : Nat} {v : Stroke} {x : CacheSet} (set : c.sets[cacheSetOf v t]? = some x)
include set

/-- A key that some way holds is found in the first way that holds it. -/
theorem lookup_some {r : CellContent} : c.lookup l t v = some r ↔
    ∃ w e, x.wayOf l t v = some w ∧ x.ways[w]? = some (some e) ∧ e.content = r := by
  rw [Cache.lookup, set_of_some set]
  cases way : x.wayOf l t v with
  | none => simp
  | some w =>
    obtain ⟨⟨e, at_w, -⟩, -⟩ := wayOf_some.mp way
    simp [at_w]

theorem lookup_none : c.lookup l t v = none ↔ ∀ j, ¬ x.Holds l t v j := by
  rw [← wayOf_none]
  cases way : x.wayOf l t v with
  | none => simp [Cache.lookup, set_of_some set, way]
  | some w =>
    obtain ⟨⟨e, at_w, -⟩, -⟩ := wayOf_some.mp way
    simp [(lookup_some set).mpr ⟨w, e, way, at_w, rfl⟩]

theorem hit_way {w : Nat} (way : x.wayOf l t v = some w) : c.hit l t v =
    { c with hits := satSucc c.hits,
             sets := c.sets.setIfInBounds (cacheSetOf v t) { x with recency := touch x.recency w } } := by
  rw [Cache.hit, set_of_some set, way]

end

/-! ## Fills (R45) -/

section
variable {x : CacheSet} {l t w : Nat} {v : Stroke}

theorem victim_held (held : x.Holds l t v w) (first : ∀ j, j < w → ¬ x.Holds l t v j) : x.victim l t v = w := by
  rw [CacheSet.victim, wayOf_some.mpr ⟨held, first⟩]

variable (missing : ∀ j, ¬ x.Holds l t v j)
include missing

theorem victim_empty (empty : x.ways[w]? = some none) (first : ∀ j : Nat, j < w → x.ways[j]? ≠ some none) : x.victim l t v = w := by
  have lowest : (x.ways.toList.findIdx? fun o => o.isNone) = some w := by
    rw [findIdx?_first]
    simp only [← empty_iff]
    exact ⟨empty, first⟩
  rw [CacheSet.victim, wayOf_none.mpr missing, lowest]

theorem victim_oldest (full : ∀ j : Nat, x.ways[j]? ≠ some none) (oldest : x.recency.getLast? = some w) : x.victim l t v = w := by
  have none : (x.ways.toList.findIdx? fun o => o.isNone) = none := by
    rw [findIdx?_nowhere]
    simp only [← empty_iff]
    exact full
  rw [CacheSet.victim, wayOf_none.mpr missing, none, List.getLastD_eq_getLast?, oldest, Option.getD_some]

end

theorem fill_victim {c : Cache} {e : CacheEntry} {x : CacheSet} {w : Nat} (set : c.sets[cacheSetOf e.stroke e.table]? = some x)
    (victim : x.victim e.layer e.table e.stroke = w) : c.fill e =
    { c with
      sets := c.sets.setIfInBounds (cacheSetOf e.stroke e.table)
        { ways := x.ways.setIfInBounds w (some e), recency := touch x.recency w } } := by
  rw [Cache.fill, set_of_some set, CacheSet.fill, victim]

end Sys2Proof.Machine

open Sys2Proof Sys2Proof.Machine

/-- Settles O13: by what the port, the batch and the stacked set hold. -/
theorem theArbiterServesBatches : Obligations.TheArbiterServesBatches := by
  unfold Obligations.TheArbiterServesBatches
  refine ⟨request_idle, fun a r busy => ?_, fun a r rest => next_batch, fun a r rest => next_stacked, fun a => next_idle⟩
  rw [request_waits r busy]
  exact ⟨rfl, rfl, stackRequest_perm r a.stacked, stackRequest_byPriority⟩

/-- Settles O14: what a fence leaves in a way, and the first way of a set that holds a key or is empty. -/
theorem aFenceRemovesItsScope : Obligations.AFenceRemovesItsScope := by
  unfold Obligations.AFenceRemovesItsScope
  refine ⟨fun c f i w => ⟨rfl, rfl, fun empty => ?_, fun e held => ?_⟩, fun c l t v x set => ⟨?_, fun r found => ?_⟩, ?_⟩
  · rw [fence_way, empty]
    rfl
  · rw [fence_way, held]
    exact fenceWay_some f e
  · rw [lookup_none set]
    constructor
    · exact fun missing w e at_w key => missing w ⟨e, by simpa using at_w, key⟩
    · rintro missing j ⟨e, at_j, key⟩
      obtain ⟨short, held⟩ := Vector.getElem?_eq_some_iff.mp at_j
      exact missing ⟨j, short⟩ e held key
  · obtain ⟨w, e, way, at_w, content⟩ := (lookup_some set).mp found
    obtain ⟨⟨e', at_w', layer, table, stroke⟩, -⟩ := wayOf_some.mp way
    obtain rfl : e' = e := by simpa [at_w] using at_w'.symm
    obtain ⟨short, held⟩ := Vector.getElem?_eq_some_iff.mp at_w
    exact ⟨⟨w, short⟩, e', held, layer, table, stroke, content, hit_way set way⟩
  · rintro c e x held w set holds choice
    obtain rfl : held = x.Holds e.layer e.table e.stroke := funext fun j => propext (holds j)
    refine fill_victim set ?_
    obtain ⟨here, first⟩ | ⟨missing, empty, first⟩ | ⟨missing, full, oldest⟩ := choice
    · exact victim_held here first
    · exact victim_empty missing (by simpa using empty) first
    · exact victim_oldest missing full oldest
end

section
/-! SUPPORT. EXPORT operations and the host's fences; with them O52 and O56. -/

namespace Sys2Proof.Machine

/-! ## LOAD and READ_DICT (R56, R189) -/

theorem exec_load (ps : List Byte) (s : State) : exec (.load ps) s = .next (s.load ps) := rfl

theorem exec_readDict (ps : List Byte) (s : State) : exec (.readDict ps) s = .next (s.readDict ps) := rfl

theorem exec_exportOperationEnd (s : State) : exec .exportOperationEnd s = .next s.exportOperationEnd := rfl

theorem takenIn_load {s : State} (start : s.online = false) : takenIn 2 s.online = true := by
  rw [start]
  decide

theorem takenIn_readDict (online : Bool) : takenIn 3 online = true := by cases online <;> decide

/-- A LOAD that passes its check has 1 to 256 bytes inside the memory. -/
theorem loadParams_inside {ps : List Byte} {a : Nat} {bs : List Byte} (good : loadParams ps = some (a, bs)) :
    1 ≤ bs.length ∧ bs.length ≤ 256 ∧ a + bs.length ≤ memSize := by
  unfold loadParams at good
  split at good
  next sound =>
    obtain ⟨rfl, rfl⟩ : fieldAt ps 0 3 = a ∧ ps.drop 5 = bs := by simpa using good
    obtain ⟨-, long, low, high, fits⟩ := sound
    have count : (ps.drop 5).length = fieldAt ps 3 2 := by rw [List.length_drop]; omega
    rw [count]
    exact ⟨low, high, fits⟩
  next => cases good

theorem readDictParams_inside {ps : List Byte} {a n : Nat} (good : readDictParams ps = some (a, n)) :
    1 ≤ n ∧ n ≤ 256 ∧ a + n ≤ memSize := by
  unfold readDictParams at good
  split at good
  next sound =>
    obtain ⟨rfl, rfl⟩ : fieldAt ps 0 3 = a ∧ fieldAt ps 3 2 = n := by simpa using good
    exact sound.2
  next => cases good

theorem load_runs {ps : List Byte} {s : State} {a : Nat} {bs : List Byte} (idle : s.lcp.inFlight = none) (start : s.online = false)
    (short : ps.length ≤ 264) (good : loadParams ps = some (a, bs)) : s.load ps = (s.taking 2 ps).loadOn a bs :=
  takeCommand_checked _ idle short (takenIn_load start) good

theorem readDict_runs {ps : List Byte} {s : State} {a n : Nat} (idle : s.lcp.inFlight = none) (short : ps.length ≤ 264)
    (good : readDictParams ps = some (a, n)) : s.readDict ps = (s.taking 3 ps).readOn a n [] :=
  takeCommand_checked _ idle short (takenIn_readDict _) good

/-! ## The next EXPORT operation, or the command's end -/

theorem loadOn_more {s : State} {a : Nat} {left : List Byte} (more : left ≠ []) :
    s.loadOn a left = (s.setLcp { s.lcp with job := some (.load a left) }).request .host (.write a (left.take 16)) :=
  if_neg (by simpa using more)

theorem loadOn_done (s : State) (a : Nat) : s.loadOn a [] = (s.setLcp { s.lcp with job := none }).reply .ok [] := rfl

theorem readOn_more {s : State} {a n : Nat} (got : List Byte) (more : n ≠ 0) :
    s.readOn a n got = (s.setLcp { s.lcp with job := some (.read a n got) }).request .host (.read a (min 16 n)) := if_neg more

theorem readOn_done (s : State) (a : Nat) (got : List Byte) :
    s.readOn a 0 got = (s.setLcp { s.lcp with job := none }).reply .ok got := rfl

/-! ## EXPORT_OPERATION_END (R52, R56) -/

theorem exportOperationEnd_serves {s : State} {op : MemOp} (service : s.arb.inService = some { cls := .host, op := op }) :
    s.exportOperationEnd = (s.endOperation { cls := .host, op := op }).exportData (s.mem.answer op) := by
  have serving : s.serving .host = some { cls := .host, op := op } := by rw [State.serving, service]; rfl
  rw [State.exportOperationEnd, serving]

theorem exportOperationEnd_idle {s : State} (idle : s.serving .host = none) : s.exportOperationEnd = s := by
  rw [State.exportOperationEnd, idle]

theorem exportOperationEnd_load {s : State} {a : Nat} {left : List Byte} {op : MemOp} (job : s.lcp.job = some (.load a left))
    (service : s.arb.inService = some { cls := .host, op := op }) :
    s.exportOperationEnd = (s.endOperation { cls := .host, op := op }).loadOn (a + 16) (left.drop 16) := by
  rw [exportOperationEnd_serves service, State.exportData, endOperation_lcp, job]

theorem exportOperationEnd_read {s : State} {a left : Nat} {got : List Byte} (job : s.lcp.job = some (.read a left got))
    (service : s.arb.inService = some { cls := .host, op := .read a (min 16 left) }) :
    s.exportOperationEnd = (s.endOperation { cls := .host, op := .read a (min 16 left) }).readOn (a + 16) (left - 16)
      (got ++ s.mem.bytesAt a (min 16 left)) := by
  rw [exportOperationEnd_serves service, State.exportData, endOperation_lcp, job]
  rfl

/-- After an EXPORT write the bytes stand in memory, and no other byte has changed (R52). -/
theorem byteAt_loaded {s : State} {a : Nat} {left : List Byte} (wf : s.mem.wf = true) (fits : a + left.length ≤ memSize) (a' : Nat)
    (left' : List Byte) (b : Nat) :
    Memory.byteAt ((s.endOperation { cls := .host, op := .write a (left.take 16) }).loadOn a' left').mem b =
      if a ≤ b ∧ b < a + (left.take 16).length then left.getD (b - a) 0 else Memory.byteAt s.mem b := by
  have short : (left.take 16).length ≤ left.length := List.length_take_le' _ _
  rw [(frame_loadOn _ a' left').byteAt (by decide)]
  refine (byteAt_served_write (bs := left.take 16) wf (by omega) b).trans ?_
  split
  next inside =>
    have low : b - a < 16 := by rw [List.length_take] at inside; omega
    simp [List.getD_eq_getElem?_getD, low]
  next => rfl

/-! ## FLUSH_CACHE (R48) -/

theorem exec_flushCacheAll (rest : List Byte) (s : State) :
    exec (.flushCacheAll rest) s = .next (s.flushCache 0 rest (flushAllScope rest)) := rfl

theorem exec_flushCacheLayer (rest : List Byte) (s : State) :
    exec (.flushCacheLayer rest) s = .next (s.flushCache 1 rest (flushLayerScope rest)) := rfl

theorem exec_flushCacheStroke (rest : List Byte) (s : State) :
    exec (.flushCacheStroke rest) s = .next (s.flushCache 2 rest (flushStrokeScope rest)) := rfl

theorem exec_flushCacheStrokeLayer (rest : List Byte) (s : State) :
    exec (.flushCacheStrokeLayer rest) s = .next (s.flushCache 3 rest (flushStrokeLayerScope rest)) := rfl

section
variable {s : State} {sel : Byte} {rest : List Byte} {scope : Option FenceScope} {f : FenceScope}
  (idle : s.lcp.inFlight = none) (online : s.online = true) (short : rest.length ≤ 263)
include idle online short

theorem flushCache_runs (good : scope = some f) : s.flushCache sel rest scope = (s.taking 8 (sel :: rest)).hostFence f :=
  takeCommand_checked _ idle (Nat.succ_le_succ short) (by rw [online]; decide) good

theorem flushCache_range (bad : scope = none) : OnlyAnswers s (s.flushCache sel rest scope) 8 (sel :: rest) .range :=
  takeCommand_range _ idle (Nat.succ_le_succ short) (by rw [online]; decide) bad

/-- A void fence is answered OK and does nothing more. -/
theorem flushCache_void (good : scope = some f) (void : f.void = true) :
    OnlyAnswers s (s.flushCache sel rest scope) 8 (sel :: rest) .ok := by
  rw [flushCache_runs idle online short good]
  exact if_pos void

/-- Any other valid fence is applied, and the generation rises. -/
theorem flushCache_fences {c : Instr} (code : c.hostCommand = some (8, sel :: rest))
    (run : exec c s = .next (s.flushCache sel rest scope)) (good : scope = some f) (void : f.void = false) : Fences s c f := by
  have valid : ¬ f.void = true := by simp [void]
  have fenced (t : State) : t.fence f =
      (t.setCache (t.cache.fence f)).setTe (t.te.mapMarks fun m => { m with fenceSeen := true }) := if_neg valid
  have done : s.flushCache sel rest scope = (((s.taking 8 (sel :: rest)).fence f).raiseGeneration.ok).settled :=
    (flushCache_runs idle online short good).trans (if_neg valid)
  refine ⟨_, sel :: rest, code, run.trans (congrArg Host.Outcome.next done), ?_, ?_, ?_, ?_, ?_, answers_reply _ _ _⟩
  · exact (frame_taking s _ _).chain (zs := [.lcp, .cache, .te, .du])
      (((frame_fence _ f).chain (zs := [.cache, .te, .du]) (frame_raiseGeneration _) (by decide) (by decide)).chain
        (zs := [.lcp, .cache, .te, .du]) (frame_reply _ _ _) (by decide) (by decide)) (by decide) (by decide)
  · rw [fenced]
    rfl
  · rw [fenced]
    exact raised_fenced s.te
  · rw [fenced]
    rfl
  · refine (inFlight_taking s 8 (ps := sel :: rest) (Nat.succ_le_succ short)).keep ?_
    rw [fenced]
    rfl

end

/-! ## The scopes (R47, R186) -/

section
variable (l b0 b1 b2 : Byte)

theorem fieldAt_layer : fieldAt [l, b0, b1, b2] 0 1 = l.toNat := by simp [fieldAt, leNat]

theorem fieldAt_stroke : fieldAt [l, b0, b1, b2] 1 3 = b0.toNat + 256 * b1.toNat + 65536 * b2.toNat := by
  simp only [fieldAt, List.drop_succ_cons, List.drop_zero, List.take_succ_cons, List.take_nil, leNat]
  omega

variable {l b0 b1 b2}

theorem flushLayer_some (low : l.toNat ≤ 2) : flushLayer [l, b0, b1, b2] = some l.toNat := by
  simp [flushLayer, fieldAt_layer, low]

theorem flushLayer_none (high : 2 < l.toNat) : flushLayer [l, b0, b1, b2] = none := by
  simp [flushLayer, fieldAt_layer, high]

/-- Key 23 is the highest bit of a stroke, bit 22 of its three bytes. -/
theorem flushStroke_some (low : b2.toNat < 128) : flushStroke [l, b0, b1, b2] =
    some (BitVec.ofNat 23 (b0.toNat + 256 * b1.toNat + 65536 * b2.toNat)) := by
  have keys := b0.isLt
  have keys' := b1.isLt
  rw [flushStroke, fieldAt_stroke]
  exact if_pos (by omega)

theorem flushStroke_none (high : 128 ≤ b2.toNat) : flushStroke [l, b0, b1, b2] = none := by
  rw [flushStroke, fieldAt_stroke]
  exact if_neg (by omega)

theorem flushStrokeLayerScope_some {n : Nat} {v : Stroke} (layer : flushLayer [l, b0, b1, b2] = some n)
    (stroke : flushStroke [l, b0, b1, b2] = some v) : flushStrokeLayerScope [l, b0, b1, b2] = some (.strokeLayer v n) := by
  simp [flushStrokeLayerScope, layer, stroke]

theorem flushStrokeLayerScope_none (bad : flushLayer [l, b0, b1, b2] = none ∨ flushStroke [l, b0, b1, b2] = none) :
    flushStrokeLayerScope [l, b0, b1, b2] = none := by
  obtain layer | stroke := bad
  · simp [flushStrokeLayerScope, layer]
  · cases layer : flushLayer [l, b0, b1, b2] <;> simp [flushStrokeLayerScope, layer, stroke]

end

end Sys2Proof.Machine

open Sys2Proof Sys2Proof.Machine

/-- Settles O52: the first operation at the take, and at each end the next one or the command's completion. -/
theorem loadAndReadRunByExportOperations : Obligations.LoadAndReadRunByExportOperations := by
  unfold Obligations.LoadAndReadRunByExportOperations
  refine ⟨⟨fun ps s idle start short => ⟨fun a bs good => ?_, fun bad => ?_⟩, fun ps s idle short => ⟨fun a n good => ?_, fun bad => ?_⟩⟩,
    fun s a left wf job service fits => ?_, fun s a left got job service => ?_, fun s idle => ?_⟩
  · obtain ⟨low, high, fits⟩ := loadParams_inside good
    refine ⟨low, high, fits, _, exec_load ps s, frame_load s ps, ?_⟩
    rw [load_runs idle start short good, loadOn_more (List.length_pos_iff.mp low)]
    exact ⟨(inFlight_taking s 2 short).keep rfl, rfl, rfl, rfl⟩
  · exact ⟨_, exec_load ps s, takeCommand_range _ idle short (takenIn_load start) bad⟩
  · obtain ⟨low, high, fits⟩ := readDictParams_inside good
    refine ⟨low, high, fits, _, exec_readDict ps s, frame_readDict s ps, ?_⟩
    rw [readDict_runs idle short good, readOn_more [] (Nat.pos_iff_ne_zero.mp low)]
    exact ⟨(inFlight_taking s 3 short).keep rfl, rfl, rfl, rfl⟩
  · exact ⟨_, exec_readDict ps s, takeCommand_range _ idle short (takenIn_readDict _) bad⟩
  · refine ⟨_, (exec_exportOperationEnd s).trans (congrArg Host.Outcome.next (exportOperationEnd_load job service)),
      (frame_endOperation _ _).chain (frame_loadOn _ _ _) (by decide) (by decide), byteAt_loaded wf fits _ _, fun more => ?_,
      fun last => ?_⟩
    · rw [loadOn_more (List.ne_nil_of_length_pos (by rw [List.length_drop]; omega))]
      exact ⟨rfl, rfl⟩
    · rw [List.drop_of_length_le last, loadOn_done]
      exact ⟨rfl, answers_reply _ _ _, rfl⟩
  · refine ⟨_, (exec_exportOperationEnd s).trans (congrArg Host.Outcome.next (exportOperationEnd_read job service)),
      (frame_endOperation_read s _ _ _).chain (frame_readOn _ _ _ _) (by decide) (by decide), fun more => ?_, fun last => ?_⟩
    · rw [readOn_more _ (Nat.sub_ne_zero_of_lt more), Nat.min_eq_left more.le]
      exact ⟨rfl, rfl⟩
    · rw [Nat.sub_eq_zero_of_le last, Nat.min_eq_right last, readOn_done]
      exact ⟨rfl, answers_reply _ _ _, rfl⟩
  · exact (exec_exportOperationEnd s).trans (congrArg Host.Outcome.next (exportOperationEnd_idle idle))

/-- Settles O56: by whether the parameters give a scope, and whether that scope is void. -/
theorem aHostFlushFencesTheCache : Obligations.AHostFlushFencesTheCache := by
  unfold Obligations.AHostFlushFencesTheCache
  constructor
  · rintro l b0 b1 b2 v s idle online rfl
    have four : [l, b0, b1, b2].length ≤ 263 := Nat.le_of_ble_eq_true rfl
    refine ⟨?_, fun low => ?_, fun high => ⟨_, exec_flushCacheLayer _ s, ?_⟩, fun keys stroke => ?_,
      fun keys zero => ⟨_, exec_flushCacheStroke _ s, ?_⟩, fun past => ⟨_, exec_flushCacheStroke _ s, ?_⟩, fun low keys stroke => ?_,
      fun low keys zero => ⟨_, exec_flushCacheStrokeLayer _ s, ?_⟩, fun bad => ⟨_, exec_flushCacheStrokeLayer _ s, ?_⟩⟩
    · exact flushCache_fences idle online four rfl (exec_flushCacheAll _ s) rfl rfl
    · exact flushCache_fences idle online four rfl (exec_flushCacheLayer _ s) (congrArg (Option.map _) (flushLayer_some low)) rfl
    · exact flushCache_range idle online four (congrArg (Option.map _) (flushLayer_none high))
    · exact flushCache_fences idle online four rfl (exec_flushCacheStroke _ s) (congrArg (Option.map _) (flushStroke_some keys))
        (decide_eq_false stroke)
    · exact flushCache_void idle online four (congrArg (Option.map _) (flushStroke_some keys)) (decide_eq_true zero)
    · exact flushCache_range idle online four (congrArg (Option.map _) (flushStroke_none past))
    · exact flushCache_fences idle online four rfl (exec_flushCacheStrokeLayer _ s)
        (flushStrokeLayerScope_some (flushLayer_some low) (flushStroke_some keys)) (decide_eq_false stroke)
    · exact flushCache_void idle online four (flushStrokeLayerScope_some (flushLayer_some low) (flushStroke_some keys))
        (decide_eq_true zero)
    · exact flushCache_range idle online four (flushStrokeLayerScope_none (bad.imp flushLayer_none flushStroke_none))
  · intro rest s sel c idle online other short row
    simp only [List.mem_cons, Prod.mk.injEq, List.not_mem_nil, or_false] at row
    obtain ⟨rfl, rfl⟩ | ⟨rfl, rfl⟩ | ⟨rfl, rfl⟩ | ⟨rfl, rfl⟩ := row
    · exact ⟨_, exec_flushCacheAll rest s, flushCache_range idle online short (if_neg other)⟩
    · exact ⟨_, exec_flushCacheLayer rest s, flushCache_range idle online short (if_neg other)⟩
    · exact ⟨_, exec_flushCacheStroke rest s, flushCache_range idle online short (if_neg other)⟩
    · exact ⟨_, exec_flushCacheStrokeLayer rest s, flushCache_range idle online short (if_neg other)⟩
end

section
/-! SUPPORT. The walk side's actions: the step, the continuation test, the resolution and what follows a unit, and the pending buffer
through all of them; with them O25. -/

namespace Sys2Proof.Machine

/-! ## The next action of the walk side -/

section
variable {s : State} (free : s.te.walkReq = none)
include free

theorem teNext_step (phase : s.te.phase = .step) (stays : s.te.rewalkDue = false) : s.teNext = some s.stepAction := by
  simp [State.teNext, free, phase, stays]

theorem teNext_fetch (phase : s.te.phase = .fetch) (stays : s.te.rewalkDue = false) : s.teNext = some s.resolveAction := by
  simp [State.teNext, free, phase, stays]

theorem teNext_demanded (phase : s.te.phase = .hold) (stays : s.te.rewalkDue = false) (demand : s.te.demand ≠ .none) :
    s.teNext = some (s.setTe { s.te with phase := .fetch, resolveAt := none }) := by
  simp [State.teNext, free, phase, stays, demand]

theorem teNext_rewalk (walking : s.te.phase ≠ .idle) (due : s.te.rewalkDue = true) : s.teNext = some s.rewalk := by
  cases phase : s.te.phase with
  | idle => exact absurd phase walking
  | step | fetch | hold => simp [State.teNext, free, phase, due]

end

theorem teNext_waits {s : State} (waits : s.te.walkReq ≠ none ∨ s.te.phase = .idle
    ∨ (s.te.phase = .hold ∧ s.te.rewalkDue = false ∧ s.te.demand = .none)) : s.teNext = none := by
  unfold State.teNext
  split
  · rfl
  next free =>
    obtain busy | idle | ⟨hold, stays, demand⟩ := waits
    · exact absurd (Option.isSome_iff_ne_none.mpr busy) free
    · simp [idle]
    · simp [hold, stays, demand]

/-! ## A walk from the roots (R59, R72) -/

theorem phaseFor_eq (p : List NumStroke) : phaseFor p = if p = [] then .idle else .step := by
  cases p <;> rfl

theorem rewalk_eq (s : State) : s.rewalk = s.setTe
    { s.te with rewalkDue := false, resolveAt := none, walked := 0, positions := Vector.replicate 3 .root,
                table := Vector.replicate 8 [], stepLayer := 0, phase := if s.te.pendingBuf = [] then .idle else .step } := by
  rw [← phaseFor_eq]
  rfl

/-! ## The step (R44, R61) -/

theorem layerEnds_free {t : Te} (free : t.walkReq = none) (layer : Nat) (p : WalkPos) :
    t.layerEnds layer p = { t with stepLayer := layer + 1, positions := t.positions.setIfInBounds layer p } := by
  rw [Te.layerEnds, ← free]

/-- The table a layer looks under: its root, the next level of the cell it stands at, or none (R61). -/
theorem stepTable_eq (t : Te) (d : Directory) (layer : Nat) : t.stepTable d layer = match t.positions[layer]? with
    | some .root => if d.root layer = 0 then none else some (d.root layer)
    | some (.at c) => c.next
    | _ => none := by
  unfold Te.stepTable Te.position
  cases t.positions[layer]? with
  | none => rfl
  | some p => cases p <;> rfl

theorem stepAction_off {s : State} (low : s.te.stepLayer < 3) (off : s.te.stepTable s.dir s.te.stepLayer = none) :
    s.stepAction = s.setTe (s.te.layerEnds s.te.stepLayer .off) := by
  rw [State.stepAction, if_pos low, off]

theorem stepAction_table {s : State} {table : Nat} (low : s.te.stepLayer < 3)
    (under : s.te.stepTable s.dir s.te.stepLayer = some table) : s.stepAction = s.treeStep s.te.stepLayer table := by
  rw [State.stepAction, if_pos low, under]

section
variable {s : State} {layer table : Nat}

theorem treeStep_hit {c : CellContent} (hit : s.cache.lookup layer table s.te.stepStroke = some c) :
    s.treeStep layer table = (s.setCache (s.cache.hit layer table s.te.stepStroke)).setTe (s.te.layerEnds layer (.at c)) := by
  rw [State.treeStep, hit]
  rfl

variable (miss : s.cache.lookup layer table s.te.stepStroke = none)
include miss

theorem treeStep_reads (aligned : table % 8 = 0) : s.treeStep layer table =
    ((s.setCache s.cache.miss).setTe
      { s.te with walkReq := some (.lookup (.starting layer table s.te.stepStroke false) s.newMarks) }).request .walk (.read table 8) := by
  have sound : tableAddressFaults s.dir false table = [] :=
    List.eq_nil_iff_forall_not_mem.mpr fun x mem => by simpa [aligned] using mem_tableAddressFaults.mp mem
  rw [State.treeStep, miss, startLookup_reads layer _ sound]
  rfl

theorem treeStep_faults (odd : table % 8 ≠ 0) : s.treeStep layer table =
    ((s.setCache s.cache.miss).latchDamage s.te.stepLayer (.address, table)).setTe (s.te.layerEnds s.te.stepLayer .off) := by
  have faulty : tableAddressFaults s.dir false table ≠ [] :=
    List.ne_nil_of_mem (mem_tableAddressFaults.mpr (.inl ⟨odd, rfl⟩))
  obtain ⟨x, mem, fault⟩ := startLookup_fault layer s.te.stepStroke faulty
  obtain ⟨-, rfl⟩ := (mem_tableAddressFaults.mp mem).resolve_right (by simp)
  rw [State.treeStep, miss, fault]
  rfl

end

/-! ## The continuation test (R62, R63) -/

theorem continues_iff (t : Te) : t.continues = true ↔
    t.walked < 8 ∧ ∃ l c, l < 3 ∧ t.positions[l]? = some (.at c) ∧ c.next ≠ none := by
  unfold Te.continues Te.position
  simp only [Bool.and_eq_true, decide_eq_true_eq, List.any_eq_true, List.mem_range]
  refine and_congr_right fun _ => exists_congr fun l => ?_
  cases t.positions[l]? with
  | none => simp
  | some p => cases p <;> simp [Option.isSome_iff_ne_none]

theorem layerRef_eq (t : Te) (layer : Nat) : t.layerRef layer = match t.positions[layer]? with
    | some (.at c) => c.text.map fun r => { layer := layer, ref := r }
    | _ => none := by
  unfold Te.layerRef Te.position
  cases t.positions[layer]? with
  | none => rfl
  | some p => cases p <;> rfl

/-- The phase and the resolve timer after the test, by whether some layer can continue. -/
theorem continuation_eq {s : State} (phase : s.te.phase = .step) : s.continuation = s.setTe
    { s.te with
      phase := if s.te.continues = false then .fetch else if s.te.walked < s.te.pendingBuf.length then .step
               else if s.te.demand = .none then .hold else .fetch,
      resolveAt := if s.te.continues = true ∧ s.te.pendingBuf.length ≤ s.te.walked ∧ s.te.demand = .none then
                     (if s.cfg.resolveWait = 0 then none else some (s.after s.cfg.resolveWait))
                   else s.te.resolveAt } := by
  unfold State.continuation
  cases goes : s.te.continues with
  | false => simp
  | true =>
    by_cases more : s.te.walked < s.te.pendingBuf.length
    · simp [more, Nat.not_le.mpr more, ← phase]
      rfl
    · by_cases demand : s.te.demand = .none <;> simp [more, Nat.not_lt.mp more, demand]

/-! ## The best match (R62) -/

theorem bestOf_cons (k : Nat) (rs : List LayerRef) (rest : List (Nat × List LayerRef)) :
    bestOf ((k, rs) :: rest) = (bestOf rest).or (rs.head?.map fun r => (k, r)) := by
  rw [bestOf.eq_def]
  dsimp only
  cases bestOf rest with
  | none => cases rs <;> rfl
  | some b => rfl

/-- Every entry of a match table from length `n` on is empty. -/
theorem bestOf_none (n : Nat) (l : List (List LayerRef)) :
    bestOf ((List.range' n l.length).zip l) = none ↔ ∀ i : Nat, i < l.length → l[i]? = some [] := by
  induction l generalizing n with
  | nil => simp [bestOf]
  | cons rs l ih =>
    simp only [List.length_cons, List.range'_succ, List.zip_cons_cons, bestOf_cons, Option.or_eq_none_iff, ih, Option.map_eq_none_iff,
      List.head?_eq_none_iff, Nat.forall_lt_succ_left, List.getElem?_cons_zero, List.getElem?_cons_succ, Option.some.injEq]
    exact and_comm

/-- The longest entry of a match table with a reference. -/
theorem bestOf_some (n : Nat) (l : List (List LayerRef)) (k : Nat) (r : LayerRef) :
    bestOf ((List.range' n l.length).zip l) = some (k, r) ↔
      ∃ j rs, k = n + j ∧ l[j]? = some (r :: rs) ∧ ∀ i : Nat, j < i → i < l.length → l[i]? = some [] := by
  induction l generalizing n with
  | nil => simp [bestOf]
  | cons x l ih =>
    simp only [List.length_cons, List.range'_succ, List.zip_cons_cons, bestOf_cons, Option.or_eq_some_iff, ih, bestOf_none]
    constructor
    · rintro (⟨j, rs, rfl, here, above⟩ | ⟨above, first⟩)
      · refine ⟨j + 1, rs, by omega, here, fun i lt short => ?_⟩
        obtain ⟨i, rfl⟩ := Nat.exists_eq_add_of_lt lt
        exact above _ (by omega) (by omega)
      · obtain ⟨_, head, pair⟩ := Option.map_eq_some_iff.mp first
        obtain ⟨rfl, rfl⟩ := Prod.mk.inj pair
        obtain ⟨rs, rfl⟩ := List.head?_eq_some_iff.mp head
        refine ⟨0, rs, rfl, rfl, fun i lt short => ?_⟩
        obtain ⟨i, rfl⟩ := Nat.exists_eq_succ_of_ne_zero lt.ne'
        exact above i (Nat.lt_of_succ_lt_succ short)
    · rintro ⟨_ | j, rs, rfl, here, above⟩
      · obtain rfl : x = r :: rs := by simpa using here
        exact .inr ⟨fun i short => above (i + 1) (Nat.succ_pos i) (Nat.succ_lt_succ short), rfl⟩
      · exact .inl ⟨j, rs, by omega, here, fun i lt short => above (i + 1) (Nat.succ_lt_succ lt) (Nat.succ_lt_succ short)⟩

theorem best_none (t : Te) : t.best = none ↔ ∀ i : Nat, i < 8 → t.table[i]? = some [] := by
  have eight : t.table.toList.length = 8 := Vector.length_toList
  have iff := bestOf_none 1 t.table.toList
  simp only [eight, Vector.getElem?_toList] at iff
  exact iff

theorem best_some (t : Te) (k : Nat) (r : LayerRef) : t.best = some (k, r) ↔
    1 ≤ k ∧ k ≤ 8 ∧ (∃ rs, t.table[k - 1]? = some (r :: rs)) ∧ ∀ i : Nat, k ≤ i → i < 8 → t.table[i]? = some [] := by
  have eight : t.table.toList.length = 8 := Vector.length_toList
  have iff := bestOf_some 1 t.table.toList k r
  simp only [eight, Vector.getElem?_toList] at iff
  refine Iff.trans iff ⟨?_, ?_⟩
  · rintro ⟨j, rs, rfl, here, above⟩
    obtain ⟨short, -⟩ := Vector.getElem?_eq_some_iff.mp here
    exact ⟨by omega, by omega, ⟨rs, by rwa [Nat.add_sub_cancel_left]⟩, fun i low => above i (by omega)⟩
  · rintro ⟨low, -, ⟨rs, here⟩, above⟩
    exact ⟨k - 1, rs, by omega, here, fun i lt => above i (by omega)⟩

theorem keptFor_some (t : Te) (r : TextRef) (text : List Byte) :
    t.keptFor r = some text ↔ ∃ x, t.kept = some x ∧ x.ref = r ∧ x.text = text := by
  unfold Te.keptFor
  cases t.kept with
  | none => simp
  | some x => simp

theorem keptFor_none {t : Te} {r : TextRef} (other : ∀ x, t.kept = some x → x.ref ≠ r) : t.keptFor r = none :=
  Option.eq_none_iff_forall_ne_some.mpr fun text found => by
    obtain ⟨x, kept, same, -⟩ := (keptFor_some t r text).mp found
    exact other x kept same

/-! ## Resolutions (R64, R68, R69) -/

theorem resolveAction_untranslate {s : State} {p : NumStroke} {ps : List NumStroke} (noBest : s.te.best = none)
    (first : s.te.pendingBuf = p :: ps) :
    s.resolveAction = (s.emitUnit (newUnit .untranslate [p] (stenoNotation p.value))).afterUnit 1 := by
  simp [State.resolveAction, noBest, State.emitUntranslate, first]

section
variable {s : State} {k : Nat} {r : LayerRef} (best : s.te.best = some (k, r))
include best

theorem resolveAction_translation {text : List Byte} (kept : s.te.keptFor r.ref = some text) : s.resolveAction =
    (if withoutCommands text = [] then (s.handMarks text).setTe { (s.handMarks text).te with consumed := (s.handMarks text).te.consumed + k }
     else (s.handMarks text).emitUnit
      (newUnit .translation ((s.handMarks text).te.pendingBuf.take k) (withoutCommands text))).afterUnit k := by
  simp only [State.resolveAction, best, kept, State.emitTranslation, List.isEmpty_iff]
  split <;> rfl

theorem resolveAction_fetch (other : ∀ x, s.te.kept = some x → x.ref ≠ r.ref) : s.resolveAction =
    (s.setTe { s.te with walkReq := some (.fetch r k [] s.newMarks) }).request .walk (.read r.ref.addr (min 16 r.ref.len)) := by
  simp only [State.resolveAction, best, keptFor_none other]
  rfl

end

/-! ## After a unit (R64, R66, R70) -/

/-- The TE once the `k` strokes of a unit have left P, the rest to be walked again. -/
def Te.unitDone (t : Te) (k : Nat) : Te :=
  { t.walkAgain (t.pendingBuf.drop k) with demand := if t.demand = .one then .none else t.demand }

theorem unitDone_eq (t : Te) (k : Nat) : t.unitDone k =
    { t with
      pendingBuf := t.pendingBuf.drop k, walked := 0, positions := Vector.replicate 3 .root, table := Vector.replicate 8 [],
      stepLayer := 0, phase := if t.pendingBuf.drop k = [] then .idle else .step,
      demand := if t.demand = .one then .none else t.demand } := by
  rw [← phaseFor_eq]
  rfl

theorem flushIfDone_stays {s : State} (stays : s.te.flushOwed = false ∨ s.te.pendingBuf ≠ [] ∨ s.te.inHand ≠ none) :
    s.flushIfDone = s :=
  if_neg fun ⟨owed, empty, free⟩ => stays.elim (by simp [owed]) fun h => h.elim (· empty) (· free)

theorem flushIfDone_reports {s : State} (owed : s.te.flushOwed = true) (empty : s.te.pendingBuf = []) (free : s.te.inHand = none)
    (idle : s.te.phase = .idle) : s.flushIfDone = (s.setTe { s.te with flushOwed := false, demand := .none }).flushReport := by
  rw [State.flushIfDone, if_pos ⟨owed, empty, free⟩, ← idle]

section
variable {s : State} {k : Nat}

theorem afterUnit_walksOn (more : s.te.pendingBuf.drop k ≠ []) : s.afterUnit k = s.setTe (s.te.unitDone k) := by
  have walks : s.afterUnit k = (s.setTe (s.te.unitDone k)).flushIfDone := by
    unfold State.afterUnit
    dsimp only
    split
    · rw [if_neg (by simpa [Te.walkAgain] using more)]
      rfl
    · rfl
  rw [walks, flushIfDone_stays (.inr (.inl more))]

theorem afterUnit_noneInHand (free : s.te.inHand = none) : s.afterUnit k = (s.setTe (s.te.unitDone k)).flushIfDone := by
  unfold State.afterUnit
  dsimp only
  split
  next r hand => exact absurd (free.symm.trans hand) (by simp)
  next => rfl

/-- What stays as it is where no stroke is in hand. -/
theorem afterUnit_keeps (free : s.te.inHand = none) : (s.afterUnit k).te.pendingBuf = s.te.pendingBuf.drop k
    ∧ (s.afterUnit k).te.taken = s.te.taken ∧ (s.afterUnit k).te.consumed = s.te.consumed ∧ (s.afterUnit k).tb = s.tb := by
  rw [afterUnit_noneInHand free]
  unfold State.flushIfDone
  split
  · rw [(frame_flushReport _).te (by decide), (frame_flushReport _).tb (by decide)]
    exact ⟨rfl, rfl, rfl, rfl⟩
  · exact ⟨rfl, rfl, rfl, rfl⟩

theorem afterUnit_drop {r : StrokeRecord} (empty : s.te.pendingBuf.drop k = []) (hand : s.te.inHand = some r) :
    s.afterUnit k = ((s.setTe (s.te.unitDone k)).dropWork r).flushIfDone := by
  unfold State.afterUnit
  dsimp only
  split
  next r' hand' =>
    obtain rfl : r = r' := Option.some.inj (hand.symm.trans hand')
    rw [if_pos (by simp [Te.walkAgain, empty])]
    rfl
  next noHand => exact absurd (hand.symm.trans noHand) (by simp)

end

/-! ## Drop work (R66) -/

section
variable {s : State} {r : StrokeRecord}

theorem handleStroke_other (stroke : r.value ≠ s.cfg.undoStroke) : s.handleStroke r = s.setTe
    { s.te with taken := s.te.taken + 1, pendingBuf := s.te.pendingBuf ++ [{ number := r.number, value := r.value }], phase := .step,
                stepLayer := 0 } := if_neg stroke

/-- An undo where nothing is pending and no undo passes the newest unit is late (R67). -/
theorem handleStroke_lateUndo (undo : r.value = s.cfg.undoStroke) (empty : s.te.pendingBuf = []) (closed : s.tb.region.undoable = none) :
    s.handleStroke r = s.setTe
      { s.te with taken := s.te.taken + 1, consumed := s.te.consumed + 1, lateUndo := s.te.lateUndo + 1 } := by
  have taken : s.handleStroke r = (s.setTe { s.te with taken := s.te.taken + 1 }).undo := if_pos undo
  rw [taken, State.undo, if_pos (by simp [empty]), State.undoOpen, State.setTe_tb, closed]
  rfl

/-- The TE once a DROP unit stands for the strokes before the one in hand. -/
def Te.dropped (t : Te) : Te := { t with inHand := none, demand := if t.flushOwed = true then .all else .none }

theorem dropped_notOwed {t : Te} (clear : t.flushOwed = false) :
    t.dropped = { t with inHand := none, flushOwed := false, demand := .none } := by
  rw [Te.dropped, ← clear]
  simp [clear]

theorem dropWork_eq (s : State) (r : StrokeRecord) :
    s.dropWork r = ((s.emitUnit (newUnit .drop [] dropText)).setTe s.te.dropped).handleStroke r := by
  rw [← emitUnit_te s (newUnit .drop [] dropText)]
  rfl

theorem dropWork_stroke (stroke : r.value ≠ s.cfg.undoStroke) : s.dropWork r = (s.emitUnit (newUnit .drop [] dropText)).setTe
    { s.te.dropped with taken := s.te.taken + 1, pendingBuf := s.te.pendingBuf ++ [{ number := r.number, value := r.value }],
                        phase := .step, stepLayer := 0 } := by
  rw [dropWork_eq]
  exact handleStroke_other (by rwa [← emitUnit_cfg s (newUnit .drop [] dropText)] at stroke)

/-- An undo that follows the DROP unit is late: no undo passes that unit (R67, R91). -/
theorem dropWork_undo (undo : r.value = s.cfg.undoStroke) (empty : s.te.pendingBuf = []) :
    s.dropWork r = (s.emitUnit (newUnit .drop [] dropText)).setTe
      { s.te.dropped with taken := s.te.taken + 1, consumed := s.te.consumed + 1, lateUndo := s.te.lateUndo + 1 } := by
  rw [dropWork_eq]
  exact handleStroke_lateUndo (by rwa [← emitUnit_cfg s (newUnit .drop [] dropText)] at undo) empty (undoable_emitDrop s)

end

/-! ## Flush reports and command marks (R69, R159) -/

theorem flushReport_handingOver {s : State} (going : ∃ n, s.cu.handOver = .handingOver n) :
    s.flushReport = s.setCu { s.cu with commitAllDue := true } := by
  obtain ⟨n, going⟩ := going
  rw [State.flushReport, going]

theorem flushReport_else {s : State} (other : ∀ n, s.cu.handOver ≠ .handingOver n) : s.flushReport = s := by
  unfold State.flushReport
  split
  next n going => exact absurd going (other n)
  next => rfl

theorem handMarks_nil (s : State) : s.handMarks [] = s := rfl

theorem handMarks_cons (s : State) (b : Byte) (rest : List Byte) : s.handMarks (b :: rest) =
    (if b = 8 then s.takeRequest .claim else if b = 9 then s.takeRequest .release else if b = 10 then s.takeRequest .enterShadow
     else if b = 11 then s.takeRequest .leaveShadow else s).handMarks rest := by
  unfold State.handMarks
  rw [List.filterMap_cons]
  unfold markRequest
  split_ifs <;> rfl

/-! ## The region of a unit emitted (R89, R90) -/

theorem commitWhile_stays {p : Region → Bool} {s : State} (stays : p s.tb.region = false) (n : Nat) : State.commitWhile p n s = s := by
  cases n with
  | zero => rfl
  | succ n => exact if_neg (by simp [stays])

/-- A unit that makes the region neither too many units nor too many lines is its newest one, and nothing is committed. -/
theorem emitUnit_tb_few {s : State} {x : TextUnit} {r : Region} (few : s.tb.region.units.length < 96)
    (rendered : r = Region.render { s.tb.region with units := s.tb.region.units ++ [x] } s.cfg.width s.cfg.indent)
    (short : r.lines.length ≤ 4) : (s.emitUnit x).tb = { s.tb with region := r, carried := min s.tb.carried r.lines.length } := by
  subst rendered
  have room : decide (96 ≤ s.tb.region.units.length) = false := decide_eq_false (Nat.not_le.mpr few)
  rw [State.emitUnit, commitWhile_stays room, commitOver_few (by rwa [setUnits_region]), setUnits_tb]
  rfl

/-! ## The pending buffer through the walk side's actions (R60, R63, R77) -/

theorem PendingKept.keep {s t : State} (h : PendingKept s) (te : SameBuffer s.te t.te) (tb : t.tb = s.tb) : PendingKept t := by
  obtain ⟨most, hold, idle, small⟩ := h
  obtain ⟨buf, phase, due, -⟩ := te
  unfold PendingKept
  rw [buf, phase, due, tb]
  exact ⟨most, hold, idle, small⟩

/-- In STEP and FETCH the buffer may be full. -/
theorem PendingKept.ofBusy {s t : State} (h : PendingKept s) (buf : t.te.pendingBuf = s.te.pendingBuf) (tb : t.tb = s.tb)
    (busy : t.te.phase = .step ∨ t.te.phase = .fetch) : PendingKept t := by
  obtain ⟨most, -, -, small⟩ := h
  unfold PendingKept
  rw [buf, tb]
  exact ⟨most, fun hold => by simp [hold] at busy, fun idle => by simp [idle] at busy, small⟩

theorem walkLookup_buffer (s : State) (m : ReqMarks) (o : LookupOut) : SameBuffer s.te (s.walkLookup m o).te := by
  cases o with
  | read a n k => exact .refl _
  | found k bs =>
    unfold State.walkLookup
    dsimp only
    split
    · exact .refl _
    · split <;> exact .refl _
  | noEntry k =>
    unfold State.walkLookup
    dsimp only
    split <;> exact .refl _
  | fault d =>
    unfold State.walkLookup
    dsimp only
    split <;> exact .refl _

theorem treeStep_buffer (s : State) (layer table : Nat) : SameBuffer s.te (s.treeStep layer table).te := by
  unfold State.treeStep
  split
  · exact .refl _
  · exact walkLookup_buffer _ _ _

theorem stepAction_kept {s : State} (h : PendingKept s) (phase : s.te.phase = .step) : PendingKept s.stepAction := by
  have tb : s.stepAction.tb = s.tb := (frame_stepAction s).tb (by decide)
  by_cases low : s.te.stepLayer < 3
  · refine h.keep ?_ tb
    cases under : s.te.stepTable s.dir s.te.stepLayer with
    | none => rw [stepAction_off low under]; exact .refl _
    | some table => rw [stepAction_table low under]; exact treeStep_buffer _ _ _
  · have ends : s.stepAction = (s.setTe s.te.stepped).continuation := if_neg low
    have kept : PendingKept (s.setTe s.te.stepped) := h.ofBusy rfl rfl (.inl phase)
    rw [ends]
    unfold State.continuation
    split
    next goes =>
      obtain ⟨room, -⟩ := (continues_iff _).mp goes
      split
      · exact kept
      next whole =>
        split
        · obtain ⟨most, -, -, small⟩ := kept
          exact ⟨most, fun _ _ => (Nat.not_lt.mp whole).trans_lt room, nofun, small⟩
        · exact kept.ofBusy rfl rfl (.inr rfl)
    next => exact kept.ofBusy rfl rfl (.inr rfl)

theorem emitUntranslate_kept {s : State} (h : PendingKept s) : PendingKept s.emitUntranslate := by
  obtain ⟨most, -, -, small⟩ := h
  refine afterUnit_kept _ 1 (by rwa [emitUnit_te]) (small_emitUnit s _ small ?_)
  exact (List.length_take_le 1 s.te.pendingBuf).trans (by decide)

theorem emitTranslation_kept {s : State} (h : PendingKept s) (k : Nat) (text : List Byte) : PendingKept (s.emitTranslation k text) := by
  obtain ⟨most, -, -, small⟩ := h
  obtain ⟨buf, -⟩ := handMarks_buffer s text
  have tb : (s.handMarks text).tb = s.tb := (frame_handMarks s text).tb (by decide)
  rw [← buf] at most
  rw [← tb] at small
  unfold State.emitTranslation
  dsimp only
  split
  · exact afterUnit_kept _ k most small
  · refine afterUnit_kept _ k (by rwa [emitUnit_te]) (small_emitUnit _ _ small ?_)
    exact (List.length_take_le' k _).trans most

theorem resolveAction_kept {s : State} (h : PendingKept s) : PendingKept s.resolveAction := by
  unfold State.resolveAction
  split
  · exact emitUntranslate_kept h
  · split
    · exact emitTranslation_kept h _ _
    · exact h.keep (.refl _) rfl

theorem rewalk_kept {s : State} (h : PendingKept s) : PendingKept s.rewalk := by
  obtain ⟨most, -, -, small⟩ := h
  exact walkAgain_kept s.te.pendingBuf _ most small rfl rfl

theorem teNext_kept {s t : State} (h : PendingKept s) (next : s.teNext = some t) : PendingKept t := by
  unfold State.teNext at next
  split at next
  · cases next
  · split at next
    · cases next
    · split at next
      · cases next; exact rewalk_kept h
      · split at next
        · cases next
        · cases next; exact h.ofBusy rfl rfl (.inr rfl)
    next phase =>
      split at next
      · cases next; exact rewalk_kept h
      · cases next; exact stepAction_kept h phase
    · split at next
      · cases next; exact rewalk_kept h
      · cases next; exact resolveAction_kept h

theorem teActions_kept (n : Nat) {s : State} (h : PendingKept s) : PendingKept (State.teActions n s) := by
  induction n generalizing s with
  | zero => exact h
  | succ n ih =>
    unfold State.teActions
    split
    next t next => exact ih (teNext_kept h next)
    next => exact h

theorem offered_kept {s : State} (h : PendingKept s) : PendingKept s.offered := by
  have te : s.offered.te = s.te := (frame_offered s).te (by decide)
  exact h.keep (te ▸ .refl _) ((frame_offered s).tb (by decide))

/-- A stroke is taken only where the buffer has room for it. -/
theorem startStroke_kept {s : State} (h : PendingKept s) (r : StrokeRecord) (room : s.te.pendingBuf.length < 8) :
    PendingKept (s.startStroke r) := by
  unfold State.startStroke
  split
  · split
    next empty => exact dropWork_kept s r h (by simpa using empty)
    next => exact h
  · exact handleStroke_kept s r h room

theorem free_room {s : State} (h : PendingKept s) (free : s.te.free = true) : s.te.pendingBuf.length < 8 := by
  obtain ⟨-, hold, idle, -⟩ := h
  simp only [Te.free, Bool.and_eq_true, Bool.or_eq_true, decide_eq_true_eq, Bool.not_eq_true'] at free
  obtain ⟨⟨⟨phase, -⟩, -⟩, stays⟩ := free
  obtain phase | phase := phase
  · simp [idle phase]
  · exact hold phase stays

theorem exec_takeStroke (s : State) : exec .takeStroke s = .next s.takeStroke := rfl

theorem takeStroke_kept {s : State} (h : PendingKept s) : PendingKept s.takeStroke := by
  unfold State.takeStroke
  split
  next => exact h
  next r rest queue =>
    split
    next free =>
      have taken : PendingKept ((s.setSq { s.sq with records := rest }).setTe { s.te with resolveAt := none }) := h
      exact offered_kept (teActions_kept 512 (startStroke_kept taken r (free_room h free)))
    next => exact h

theorem replaceUnits_kept {s : State} (h : PendingKept s) {vs : List Stroke} (text : List Byte) (few : vs.length ≤ 8) :
    PendingKept (s.replaceUnits vs text) := by
  cases run : hasRun vs s.tb.region.units with
  | false => rwa [replaceUnits_none text run]
  | true =>
    obtain ⟨most, hold, idle, small⟩ := h
    have te : (s.replaceUnits vs text).te = s.te := (frame_replaceUnits s vs text).te (by decide)
    rw [← te] at most hold idle
    refine ⟨most, hold, idle, ?_⟩
    rw [replaceUnits_runs text run]
    exact small_commitWhile _ _ _ (small_setUnits _ _ (small_replaceRuns vs text few _ 0 small))

theorem replacement_kept {s : State} (h : PendingKept s) {vs : List Stroke} {text : List Byte} (retr : s.te.retr = .requested vs text)
    (few : vs.length ≤ 8) : PendingKept s.replacement := by
  rw [replacement_requested retr]
  exact offered_kept (replaceUnits_kept (s := s.setTe { s.te with retr := .idle }) h text few)

/-! ## RESOLVE_TIMER_EXPIRY (R65) -/

theorem exec_resolveTimerExpiry (s : State) : exec .resolveTimerExpiry s = .next s.resolveExpiry := rfl

theorem resolveExpiry_running {s : State} {e : Ms} (running : s.te.resolveAt = some e) :
    s.resolveExpiry = ((s.reachMs e).setTe { s.te with resolveAt := none, demand := .one }).settled := by
  rw [State.resolveExpiry, running, ← reachMs_te s e]
  rfl

end Sys2Proof.Machine

open Sys2Proof Sys2Proof.Machine

/-- Settles O25: the walk side's action by its phase, in STEP by the layer's table and the Path Cache, in FETCH by the best match and its
text; what follows a unit by what P and the hand hold; every action keeps the pending buffer (`teNext_kept`). -/
theorem theResolveTimerDemandsOneResolution : Obligations.TheResolveTimerDemandsOneResolution := by
  unfold Obligations.TheResolveTimerDemandsOneResolution
  refine ⟨?expiry, fun u => (frame_settled u).mono (by decide), ?unit, ?region, ?buffer, ?step, ?continuation, fun s => teNext_waits,
    fun s => teNext_demanded, ?rewalk, ?fetch, fun t => ⟨best_none t, best_some t⟩, keptFor_some, ?resolution, ?after,
    fun s => ⟨flushReport_handingOver, flushReport_else⟩, fun s b rest => ⟨handMarks_nil s, handMarks_cons s b rest⟩⟩
  case expiry =>
    intro s e running
    exact ⟨_, (exec_resolveTimerExpiry s).trans (congrArg Host.Outcome.next (resolveExpiry_running running)), frame_setTe _ _, rfl⟩
  case unit =>
    intro s free phase stays idleHand
    rw [teNext_fetch free phase stays]
    refine ⟨fun p ps noBest first => ⟨_, rfl, ?_⟩, fun k r text best kept => ⟨_, rfl, ?_⟩⟩
    · rw [resolveAction_untranslate noBest first]
      obtain ⟨left, taken, consumed, tb⟩ := afterUnit_keeps (s := s.emitUnit (newUnit .untranslate [p] (stenoNotation p.value)))
        (k := 1) (by rwa [emitUnit_te])
      rw [left, taken, consumed, tb, emitUnit_te, first]
      exact ⟨rfl, rfl, rfl, rfl⟩
    · obtain ⟨buf, -, -, inHand, sameTaken, sameConsumed, -⟩ := handMarks_buffer s text
      rw [resolveAction_translation best kept]
      by_cases marks : withoutCommands text = []
      · rw [if_pos marks]
        obtain ⟨left, taken, consumed, tb⟩ := afterUnit_keeps (k := k)
          (s := (s.handMarks text).setTe { (s.handMarks text).te with consumed := (s.handMarks text).te.consumed + k })
          (inHand.trans idleHand)
        refine ⟨left.trans (congrArg _ buf), taken.trans sameTaken, fun _ => ⟨consumed.trans (congrArg (· + k) sameConsumed), tb⟩,
          fun someText => absurd marks someText⟩
      · rw [if_neg marks]
        obtain ⟨left, taken, consumed, tb⟩ := afterUnit_keeps (k := k) (s := (s.handMarks text).emitUnit
          (newUnit .translation ((s.handMarks text).te.pendingBuf.take k) (withoutCommands text)))
          (by rw [emitUnit_te, inHand, idleHand])
        rw [emitUnit_te] at left taken consumed
        exact ⟨left.trans (congrArg _ buf), taken.trans sameTaken, fun noText => absurd noText marks,
          fun _ => ⟨consumed.trans sameConsumed, by rw [← buf]; exact tb⟩⟩
  case region =>
    intro s x rendered
    obtain ⟨again, lines, units⟩ := emitUnit_bounds s x rendered
    exact ⟨again, lines, units, fun few r => emitUnit_tb_few few⟩
  case buffer =>
    intro s kept
    exact ⟨fun t => teNext_kept kept, teActions_kept 512 kept, ⟨_, exec_takeStroke s, takeStroke_kept kept⟩,
      fun vs text retr few => ⟨_, exec_replacement s, replacement_kept kept retr few⟩⟩
  case step =>
    rintro s l v under free phase stays rfl low rfl position
    obtain rfl : under = s.te.stepTable s.dir s.te.stepLayer := position.trans (stepTable_eq _ _ _).symm
    refine ⟨_, teNext_step free phase stays, fun off => ?_, fun table at_table => ⟨fun c hit => ?_, fun miss => ?_⟩⟩
    · rw [stepAction_off low off, layerEnds_free free]
      exact ⟨frame_setTe _ _, rfl⟩
    · rw [stepAction_table low at_table, treeStep_hit hit, layerEnds_free free]
      exact ⟨(frame_setCache _ _).chain (frame_setTe _ _) (by decide) (by decide), rfl, rfl⟩
    · rw [stepAction_table low at_table]
      by_cases aligned : table % 8 = 0
      · rw [treeStep_reads miss aligned]
        refine ⟨rfl, fun _ => ⟨_, ?_, rfl, rfl, rfl, rfl, rfl, rfl, rfl, rfl⟩, fun odd => absurd aligned odd⟩
        exact (frame_setCache _ _).chain (zs := [.te, .cache, .arb])
          ((frame_setTe _ _).chain (zs := [.te, .arb]) (frame_request _ _ _) (by decide) (by decide)) (by decide) (by decide)
      · rw [treeStep_faults miss aligned, layerEnds_free free]
        refine ⟨rfl, fun even => absurd even aligned, fun _ => ⟨?_, rfl, rfl⟩⟩
        exact (frame_setCache _ _).chain (zs := [.te, .cache, .latches])
          ((frame_latch _ _).chain (zs := [.te, .latches]) (frame_setTe _ _) (by decide) (by decide)) (by decide) (by decide)
  case continuation =>
    rintro s w goes refs free phase stays done rfl goes_iff texts
    have ends : s.stepAction = (s.setTe s.te.stepped).continuation := if_neg (Nat.not_lt.mpr done)
    obtain rfl : goes = s.te.stepped.continues := Bool.eq_iff_iff.mpr (goes_iff.trans (continues_iff s.te.stepped).symm)
    obtain rfl : refs = (List.range 3).filterMap s.te.layerRef :=
      texts.trans (congrArg (List.filterMap · _) (funext fun l => (layerRef_eq s.te l).symm))
    refine ⟨_, teNext_step free phase stays, ?_, ?_⟩
    · rw [ends]
      exact (frame_setTe _ _).trans (frame_continuation _)
    · rw [ends, continuation_eq (s := s.setTe s.te.stepped) phase]
      rfl
  case rewalk =>
    intro s free walking due
    rw [teNext_rewalk free walking due, rewalk_eq]
  case fetch =>
    intro s k r free phase stays best other
    refine ⟨_, teNext_fetch free phase stays, ?_⟩
    rw [resolveAction_fetch best other]
    exact ⟨(frame_setTe _ _).chain (frame_request _ _ _) (by decide) (by decide), rfl, rfl⟩
  case resolution =>
    intro s free phase stays
    rw [teNext_fetch free phase stays]
    refine ⟨fun p ps noBest first => congrArg some (resolveAction_untranslate noBest first), ?_⟩
    rintro k r text u best kept rfl
    exact congrArg some (resolveAction_translation best kept)
  case after =>
    rintro s d w t k ps base rfl walked rfl rfl
    obtain rfl : base = s.te.unitDone k := walked.trans (unitDone_eq s.te k).symm
    have idle (empty : s.te.pendingBuf.drop k = []) : (s.te.unitDone k).phase = .idle := by rw [unitDone_eq]; exact if_pos empty
    refine ⟨fun stays => ?_, fun empty free owed => ?_, fun r empty hand stroke => ?_, fun r empty hand undo => ?_⟩
    · obtain more | ⟨free, clear⟩ := stays
      · exact afterUnit_walksOn more
      · exact (afterUnit_noneInHand free).trans (flushIfDone_stays (.inl clear))
    · exact (afterUnit_noneInHand free).trans (flushIfDone_reports owed empty free (idle empty))
    · rw [afterUnit_drop empty hand, dropWork_stroke (s := s.setTe (s.te.unitDone k)) stroke,
        flushIfDone_stays (.inr (.inl (List.append_ne_nil_of_right_ne_nil _ (by simp))))]
      have left : (s.te.unitDone k).pendingBuf = [] := empty
      rw [State.setTe_te, left]
      rfl
    · rintro rfl
      rw [afterUnit_drop empty hand, dropWork_undo (s := s.setTe (s.te.unitDone k)) undo empty]
      cases owed : s.te.flushOwed with
      | true => exact flushIfDone_reports owed empty rfl (idle empty)
      | false =>
        refine (flushIfDone_stays (.inl ?clear)).trans ?_
        case clear => exact owed
        rw [State.setTe_te, dropped_notOwed (t := s.te.unitDone k) owed]
        rfl
end

section
/-! SUPPORT. TAKE_STROKE: the record taken from the queue, and an undo of a pending stroke or of the newest open unit; with them O23. -/

namespace Sys2Proof.Machine

/-! ## The oldest record taken (R60, R66) -/

/-- The state once the oldest record has left the queue, `rest` being left in it: the resolve timer is cancelled. -/
def State.dequeued (s : State) (rest : List StrokeRecord) : State :=
  (s.setSq { s.sq with records := rest }).setTe { s.te with resolveAt := none }

theorem frame_dequeued (s : State) (rest : List StrokeRecord) : SameBut [.sq, .te] s (s.dequeued rest) :=
  (frame_setSq _ _).chain (frame_setTe _ _) (by decide) (by decide)

theorem takeStroke_free {s : State} {r : StrokeRecord} {rest : List StrokeRecord} (queue : s.sq.records = r :: rest)
    (free : s.te.free = true) : s.takeStroke = ((s.dequeued rest).startStroke r).settled := by
  rw [State.takeStroke, queue]
  exact if_pos free

theorem takeStroke_stays {s : State} (stays : s.te.free = false ∨ s.sq.records = []) : s.takeStroke = s := by
  unfold State.takeStroke
  split
  next => rfl
  next r rest queue => exact if_neg (by simpa [queue] using stays)

/-- The row of a TE that is free, by the state that the record's start leaves. -/
theorem exec_takeStroke_starts {s u : State} {r : StrokeRecord} {rest : List StrokeRecord} (queue : s.sq.records = r :: rest)
    (free : s.te.free = true) (start : (s.dequeued rest).startStroke r = u) : exec .takeStroke s = .next u.settled := by
  rw [exec_takeStroke, takeStroke_free queue free, start]

theorem free_notOwed {t : Te} (free : t.free = true) : t.flushOwed = false := by
  simp only [Te.free, Bool.and_eq_true, Bool.not_eq_true'] at free
  exact free.1.2

/-- A DROP unit that a free TE emits leaves no demand. -/
theorem dropped_free {t : Te} (free : t.free = true) : t.dropped = { t with inHand := none, demand := .none } := by
  simp [Te.dropped, free_notOwed free]

/-- A DROP unit emitted, and the TE changed. -/
theorem frame_dropUnit (s : State) (rest : List StrokeRecord) (u : TextUnit) (x : Te) :
    SameBut [.sq, .te, .tb, .pub, .vw, .latches] s (((s.dequeued rest).emitUnit u).setTe x) :=
  (frame_dequeued s rest).chain ((frame_emitUnit _ u).chain (frame_setTe _ x) (zs := .te :: tbParts) (by decide) (by decide))
    (by decide) (by decide)

section
variable {s : State} {r : StrokeRecord}

theorem startStroke_plain (plain : r.afterDrop = false) : s.startStroke r = s.handleStroke r := if_neg (by simp [plain])

theorem startStroke_waits (dropped : r.afterDrop = true) (some : s.te.pendingBuf ≠ []) :
    s.startStroke r = s.setTe { s.te with inHand := Option.some r, demand := .all } :=
  (if_pos dropped).trans (if_neg (by simpa using some))

theorem startStroke_drop (dropped : r.afterDrop = true) (empty : s.te.pendingBuf = []) : s.startStroke r = s.dropWork r :=
  (if_pos dropped).trans (if_pos (by simp [empty]))

/-! ## Undo (R67, R91) -/

theorem undoable_unit {g : Region} {x : TextUnit} (newest : g.units.getLast? = some x) (kind : x.kind ≠ .drop) :
    g.undoable = some x := by
  rw [Region.undoable, newest]
  exact if_neg kind

theorem undoable_none {g : Region} (drop : ∀ x, g.units.getLast? = some x → x.kind = .drop) : g.undoable = none := by
  unfold Region.undoable
  split
  next x newest => exact if_pos (drop x newest)
  next => rfl

/-- The TE after an undo that leaves `left` pending: two strokes are consumed, and what is left is walked again. -/
def Te.undone (t : Te) (left : List NumStroke) : Te :=
  { t with taken := t.taken + 1, consumed := t.consumed + 2, pendingBuf := left, walked := 0,
           positions := Vector.replicate 3 .root, table := Vector.replicate 8 [], stepLayer := 0,
           phase := if left = [] then .idle else .step }

theorem undone_eq (t : Te) (left : List NumStroke) :
    t.undone left = { ({ t with taken := t.taken + 1 } : Te).walkAgain left with consumed := t.consumed + 2 } := by
  rw [Te.undone, ← phaseFor_eq]
  rfl

theorem handleStroke_undo (undo : r.value = s.cfg.undoStroke) :
    s.handleStroke r = (s.setTe { s.te with taken := s.te.taken + 1 }).undo := if_pos undo

/-- The newest pending stroke is taken back. -/
theorem handleStroke_undoPending (undo : r.value = s.cfg.undoStroke) (some : s.te.pendingBuf ≠ []) :
    s.handleStroke r = s.setTe (s.te.undone s.te.pendingBuf.dropLast) := by
  rw [handleStroke_undo undo, undone_eq]
  exact if_neg (by simpa using some)

/-- With nothing pending the newest open unit is taken back, and its strokes but the last are pending again. -/
theorem handleStroke_undoUnit (undo : r.value = s.cfg.undoStroke) (empty : s.te.pendingBuf = []) {x : TextUnit}
    (undoable : s.tb.region.undoable = some x) :
    s.handleStroke r = ((s.setTe { s.te with taken := s.te.taken + 1 }).setUnits s.tb.region.units.dropLast).setTe
      (s.te.undone x.strokes.dropLast) := by
  have opened : s.handleStroke r = (s.setTe { s.te with taken := s.te.taken + 1 }).undoOpen :=
    (handleStroke_undo undo).trans (if_pos (by simp [empty]))
  rw [opened, State.undoOpen, State.setTe_tb, undoable, undone_eq]
  dsimp only
  rw [State.undoUnit, setUnits_te]
  rfl

end

end Sys2Proof.Machine

open Sys2Proof Sys2Proof.Machine

/-- Settles O23: by the stroke, its AFTER_DROP mark and what is pending, and in an undo with nothing pending by the newest open unit. -/
theorem takeStrokeMovesTheOldestRecord : Obligations.TakeStrokeMovesTheOldestRecord := by
  unfold Obligations.TakeStrokeMovesTheOldestRecord
  refine ⟨⟨?plain, ?waits, ?drop, ?stays⟩, ?undo, ?undoDrop⟩
  case plain =>
    intro s r rest queue free stroke plain
    have start := (startStroke_plain plain).trans (handleStroke_other (s := s.dequeued rest) stroke)
    exact ⟨_, exec_takeStroke_starts queue free start, (frame_dequeued s rest).chain (frame_setTe _ _) (by decide) (by decide), rfl, rfl⟩
  case waits =>
    intro s r rest queue free dropped some
    have start := startStroke_waits (s := s.dequeued rest) dropped some
    exact ⟨_, exec_takeStroke_starts queue free start, (frame_dequeued s rest).chain (frame_setTe _ _) (by decide) (by decide), rfl, rfl⟩
  case drop =>
    intro s r rest queue free dropped empty stroke
    have start := (startStroke_drop (s := s.dequeued rest) dropped empty).trans (dropWork_stroke stroke)
    rw [dropped_free (t := (s.dequeued rest).te) free, show (s.dequeued rest).te.pendingBuf = [] from empty] at start
    exact ⟨_, exec_takeStroke_starts queue free start, frame_dropUnit s rest _ _, emitUnit_sq _ _, rfl, rfl⟩
  case stays => exact fun s stays => (exec_takeStroke s).trans (congrArg Host.Outcome.next (takeStroke_stays stays))
  case undo =>
    intro s r rest queue free undo plain
    refine ⟨_, exec_takeStroke_starts queue free (startStroke_plain plain), ?sq, ?pending, ?unit, ?late⟩
    case sq => exact (frame_handleStroke (s.dequeued rest) r).sq (by decide)
    case pending =>
      rintro some left rfl
      rw [handleStroke_undoPending (s := s.dequeued rest) undo some]
      exact ⟨(frame_dequeued s rest).chain (frame_setTe _ _) (by decide) (by decide), rfl⟩
    case unit =>
      rintro empty x g left newest kind rfl rfl
      rw [handleStroke_undoUnit (s := s.dequeued rest) undo empty (undoable_unit newest kind)]
      refine ⟨?_, setUnits_tb _ _, rfl⟩
      exact (frame_dequeued s rest).chain (((frame_setTe _ _).chain (frame_setUnits _ _) (zs := [.te, .tb, .pub]) (by decide)
        (by decide)).chain (frame_setTe _ _) (zs := [.te, .tb, .pub]) (by decide) (by decide)) (by decide) (by decide)
    case late =>
      intro empty closed
      rw [handleStroke_lateUndo (s := s.dequeued rest) undo empty (undoable_none closed)]
      exact ⟨(frame_dequeued s rest).chain (frame_setTe _ _) (by decide) (by decide), rfl⟩
  case undoDrop =>
    intro s r rest queue free undo dropped empty
    have start := (startStroke_drop (s := s.dequeued rest) dropped empty).trans (dropWork_undo undo empty)
    rw [dropped_free (t := (s.dequeued rest).te) free] at start
    exact ⟨_, exec_takeStroke_starts queue free start, frame_dropUnit s rest _ _, emitUnit_sq _ _, rfl, rfl⟩
end

section
/-! SUPPORT. MATCH_CHECK, the runs of a handing's strokes and what a replacement makes of them; with them O26. -/

namespace Sys2Proof.Machine

/-! ## MATCH_CHECK (R75) -/

theorem exec_matchCheck (s : State) : exec .matchCheck s = .next s.matchCheck := rfl

theorem matchCheck_stays {s : State} (stays : s.te.retr ≠ .idle ∨ s.te.handings = []) : s.matchCheck = s := by
  unfold State.matchCheck
  split
  next h rest idle handings => simp [idle, handings] at stays
  next => rfl

section
variable {s : State} {h : Handing} {rest : List Handing} (idle : s.te.retr = .idle) (handings : s.te.handings = h :: rest)
include idle handings

theorem matchCheck_done (none : hasRun h.strokes s.tb.region.units = false) :
    s.matchCheck = s.setTe { s.te with handings := rest } := by
  simp [State.matchCheck, idle, handings, none]

theorem matchCheck_fetches (run : hasRun h.strokes s.tb.region.units = true) (other : ∀ x, s.te.kept = some x → x.ref ≠ h.ref) :
    s.matchCheck = (s.setTe { s.te with handings := rest }).retrFetchFrom h := by
  simp [State.matchCheck, idle, handings, run, keptFor_none other]

theorem matchCheck_atHand (run : hasRun h.strokes s.tb.region.units = true) {x : KeptText} (kept : s.te.kept = some x)
    (same : x.ref = h.ref) : s.matchCheck = (s.setTe { s.te with handings := rest }).requestReplacement h.strokes x.text := by
  have atHand : s.te.keptFor h.ref = some x.text := (keptFor_some _ _ _).mpr ⟨x, kept, same, rfl⟩
  simp [State.matchCheck, idle, handings, run, atHand]

end

/-! ## Runs (R75, R76) -/

/-- The units contain a run. -/
theorem hasRun_iff {vs : List Stroke} (some : vs ≠ []) (us : List TextUnit) :
    hasRun vs us = true ↔ ∃ pre run post, us = pre ++ run ++ post ∧ IsRun vs run := by
  induction us with
  | nil =>
    simp only [hasRun, Bool.false_eq_true, List.nil_eq, List.append_eq_nil_iff, false_iff]
    rintro ⟨_, run, _, ⟨⟨-, rfl⟩, -⟩, isRun⟩
    exact some (List.length_eq_zero_iff.mp isRun.length.symm)
  | cons u us ih =>
    rw [hasRun, Bool.or_eq_true, isRunAt_iff, ih]
    constructor
    · rintro (⟨run, post, front, isRun⟩ | ⟨pre, run, post, rfl, isRun⟩)
      · exact ⟨[], run, post, front, isRun⟩
      · exact ⟨u :: pre, run, post, rfl, isRun⟩
    · rintro ⟨_ | ⟨v, pre⟩, run, post, whole, isRun⟩
      · exact .inl ⟨run, post, whole, isRun⟩
      · exact .inr ⟨pre, run, post, (List.cons.inj whole).2, isRun⟩

theorem replaceRuns_head_stays {vs : List Stroke} (text : List Byte) {u : TextUnit} {us : List TextUnit}
    (none : isRunAt vs (u :: us) = false) : replaceRuns vs text 0 (u :: us) = u :: replaceRuns vs text 0 us :=
  if_neg (by simp [none])

theorem replaceRuns_none {vs : List Stroke} (text : List Byte) {us : List TextUnit} (none : hasRun vs us = false) :
    replaceRuns vs text 0 us = us := by
  induction us with
  | nil => rfl
  | cons u us ih =>
    obtain ⟨front, behind⟩ := Bool.or_eq_false_iff.mp none
    rw [replaceRuns_head_stays text front, ih behind]

/-- A run at the front becomes one TRANSLATION unit, and the units after it are gone through. -/
theorem replaceRuns_front {vs : List Stroke} (some : vs ≠ []) (text : List Byte) {run : List TextUnit} (isRun : IsRun vs run)
    (post : List TextUnit) : replaceRuns vs text 0 (run ++ post) =
      newUnit .translation (run.flatMap TextUnit.strokes) text :: replaceRuns vs text 0 post := by
  have front : isRunAt vs (run ++ post) = true := (isRunAt_iff _ _).mpr ⟨run, post, rfl, isRun⟩
  have length : run.length = vs.length := isRun.length
  cases run with
  | nil => exact absurd (List.length_eq_zero_iff.mp length.symm) some
  | cons u run =>
    have behind : vs.length - 1 = run.length := by rw [← length]; rfl
    have taken : (u :: (run ++ post)).take vs.length = u :: run := by rw [← length]; exact List.take_left' (l₁ := u :: run) rfl
    rw [List.cons_append] at front ⊢
    rw [replaceRuns, if_pos front, taken, behind, replaceRuns_skip]

/-- The units before the leftmost run stay. -/
theorem replaceRuns_before {vs : List Stroke} (text : List Byte) (pre us : List TextUnit)
    (leftmost : ∀ a r b, pre ++ us = a ++ r ++ b → IsRun vs r → pre.length ≤ a.length) :
    replaceRuns vs text 0 (pre ++ us) = pre ++ replaceRuns vs text 0 us := by
  induction pre with
  | nil => rfl
  | cons u pre ih =>
    have noFront : isRunAt vs (u :: (pre ++ us)) = false := by
      refine Bool.eq_false_iff.mpr fun front => ?_
      obtain ⟨run, post, whole, isRun⟩ := (isRunAt_iff _ _).mp front
      exact absurd (leftmost [] run post whole isRun) (by simp)
    rw [List.cons_append, replaceRuns_head_stays text noFront, ih fun a r b whole isRun => ?_, List.cons_append]
    exact Nat.le_of_succ_le_succ (leftmost (u :: a) r b (congrArg (u :: ·) whole) isRun)

end Sys2Proof.Machine

open Sys2Proof Sys2Proof.Machine

/-- Settles O26: a MATCH_CHECK by whether the open units hold a run and its text is at hand; the units of a replacement by the units
before the leftmost run (`replaceRuns_before`) and the run itself (`replaceRuns_front`). -/
theorem aMatchCheckStartsARetranslation : Obligations.AMatchCheckStartsARetranslation := by
  unfold Obligations.AMatchCheckStartsARetranslation
  have checks {s t : State} (h : s.matchCheck = t) : exec .matchCheck s = .next t := h ▸ exec_matchCheck s
  refine ⟨fun s h rest idle handings => ⟨fun none => ?done, fun run other => ?fetch, fun run x kept same => ?atHand⟩,
    fun s stays => checks (matchCheck_stays stays), fun vs us text some => ⟨hasRun_iff some us, replaceRuns_none text, ?runs⟩⟩
  case done => exact ⟨_, checks (matchCheck_done idle handings none), frame_setTe _ _, rfl⟩
  case fetch =>
    refine ⟨_, checks (matchCheck_fetches idle handings run other), ?_, rfl, rfl⟩
    exact (frame_setTe _ _).chain (frame_retrFetchFrom _ _) (by decide) (by decide)
  case atHand =>
    refine ⟨_, checks (matchCheck_atHand idle handings run kept same), ?_, requestReplacement_te _ _ _⟩
    exact (frame_setTe _ _).trans (frame_requestReplacement _ _ _)
  case runs =>
    rintro pre run post rfl isRun leftmost
    refine ⟨newUnit .translation (run.flatMap TextUnit.strokes) text, rfl, rfl, rfl, ?_⟩
    rw [List.append_assoc] at leftmost ⊢
    rw [replaceRuns_before text pre (run ++ post) leftmost, replaceRuns_front some text isRun]
end

section
/-! SUPPORT. One commit of an open line: the ring, the LINE queue, the Viewer's copy, the BREAK line of a jump, the end of the record; the
commits of a commit-all; the hand-over that ends with it; with them O45. -/

namespace Sys2Proof.Machine

/-! ## The node's own line at the Viewer (R168, R171) -/

/-- The Viewer after it has met the slot of the line `n` with its text (R168). -/
def Viewer.stored (v : Viewer) (n : Nat) (brk : Bool) (text : List Byte) : Viewer :=
  match v.stateOf n with
  | some (.held _ _) => v
  | none => if v.takes n then v.put n (.held brk text) else v
  | _ => v.put n (.held brk text)

section
variable {v : Viewer} {n : Nat} (brk : Bool) (text : List Byte)

theorem stored_puts (takes : v.stateOf n = some .lost ∨ (∃ a b c, v.stateOf n = some (.waiting a b c))
    ∨ (v.stateOf n = none ∧ v.takes n = true)) : v.stored n brk text = v.put n (.held brk text) := by
  obtain lost | ⟨a, b, c, waiting⟩ | ⟨empty, free⟩ := takes
  · rw [Viewer.stored, lost]
  · rw [Viewer.stored, waiting]
  · rw [Viewer.stored, empty]
    exact if_pos free

theorem stored_stays (stays : (∃ b x, v.stateOf n = some (.held b x)) ∨ (v.stateOf n = none ∧ v.takes n = false)) :
    v.stored n brk text = v := by
  obtain ⟨b, x, held⟩ | ⟨empty, taken⟩ := stays
  · rw [Viewer.stored, held]
  · rw [Viewer.stored, empty]
    exact if_neg (by simp [taken])

/-- The store alone is new. -/
theorem stored_eq (v : Viewer) (n : Nat) : v.stored n brk text = { v with store := (v.stored n brk text).store } := by
  unfold Viewer.stored
  split
  · rfl
  · split <;> rfl
  · rfl

theorem withOwnLine_eq (v : Viewer) (own n : Nat) : v.withOwnLine own n brk text =
    { v with store := (v.stored n brk text).store,
             reach := if v.followed = some .self then some (n, own) else v.reach,
             base := if v.followed = some .self then some (v.base.getD (max 1 (n - 31))) else v.base } := by
  have unfolded : v.withOwnLine own n brk text =
      if v.followed = some .self then
        { v.stored n brk text with reach := some (n, own), base := some ((v.stored n brk text).base.getD (max 1 (n - 31))) }
      else v.stored n brk text := rfl
  rw [unfolded, stored_eq]
  split <;> rfl

theorem withOwnLine_store (v : Viewer) (own n : Nat) : (v.withOwnLine own n brk text).store = (v.stored n brk text).store := by
  rw [withOwnLine_eq]

theorem withOwnLine_stateOf (v : Viewer) (own n m : Nat) :
    (v.withOwnLine own n brk text).stateOf m = (v.stored n brk text).stateOf m := by
  simp only [Viewer.stateOf, Viewer.slotFor, withOwnLine_store]

theorem storeLine_own (s : State) (n : Nat) : s.storeLine n false brk text = s.setVw (s.vw.stored n brk text) := by
  unfold State.storeLine Viewer.stored
  split
  next held => rw [held]; rfl
  next lost => rw [lost]; rfl
  next waiting => rw [waiting]; rfl
  next empty =>
    rw [empty]
    dsimp only
    split <;> rfl

theorem setReach_self (s : State) (n : Nat) : s.setReach n s.own = s.setVw (s.vw.setReach n s.own) := if_pos rfl

/-- The Viewer `v` once the node's own RECORD line has reached it, where the node is a viewer. -/
def State.viewedLine (s : State) (v : Viewer) (n : Nat) (brk : Bool) (text : List Byte) : Viewer :=
  if s.viewing = true then v.withOwnLine s.own n brk text else v

theorem ownLineToViewer_eq {s : State} {n : Nat} (through : s.tb.committedThrough = n) :
    s.ownLineToViewer n brk text = s.setVw (s.viewedLine s.vw n brk text) := by
  unfold State.ownLineToViewer State.viewedLine
  split
  · dsimp only
    rw [storeLine_own, withOwnLine_eq, stored_eq]
    split
    next self =>
      have followed : s.vw.followed = some .self := self
      simp only [State.setVw_tb, through, followed, if_true]
      exact setReach_self _ n
    next other =>
      have followed : s.vw.followed ≠ some .self := other
      simp only [followed, if_false]
  · rfl

end

/-! ## Ring and LINE queue (R95, R130, R131) -/

theorem beyondCursor_iff (cursor next o : Nat) : beyondCursor cursor next o = true ↔ ordinalSteps cursor o < ordinalSteps cursor next := by
  simp [beyondCursor]

theorem enterRing_eq (s : State) (l : CommittedLine) :
    s.enterRing l = (s.setTb { s.tb with ring := ringWith s.tb.ring l }).setLcp (afterRing s.lcp s.tb.ring s.tb.nextOrdinal) := by
  unfold State.enterRing ringWith afterRing
  by_cases room : s.tb.ring.length < 256
  · rw [if_pos room, if_pos room]
    split
    · rfl
    · rw [if_neg fun full => absurd full.1 (by omega)]
      rfl
  · rw [if_neg room, if_neg room]
    cases ring : s.tb.ring with
    | nil => rfl
    | cons old rest =>
      have full : 256 ≤ (old :: rest).length := by rw [← ring]; omega
      simp only [beyondCursor_iff, full, true_and]
      split <;> rfl

/-- The LINE send queue and its overflow count, `p`, once a RECORD line has been handed to it (R131, R135). -/
def State.queuedLine (s : State) (p : List LineEntry × Nat) (n : Nat) (brk : Bool) (text : List Byte) : List LineEntry × Nat :=
  if s.cu.conflict = true then p
  else lineQueued (decide (s.lnc.slot.inFlight = some .line)) p { number := n, brk := brk, text := text, attempts := 0 }

/-- The Publisher with a LINE send queue and its overflow count. -/
def Pub.withLines (p : Pub) (q : List LineEntry × Nat) : Pub := { p with lineQueue := q.1, lineOverflow := q.2 }

/-- What the Publisher holds of the LINE send queue. -/
def Pub.lines (p : Pub) : List LineEntry × Nat := (p.lineQueue, p.lineOverflow)

theorem dropOldestWaiting_eq (inFlight : Bool) (q : List LineEntry) :
    dropOldestWaiting inFlight q = if inFlight = true then q.take 1 ++ q.drop 2 else q.drop 1 := by
  cases q <;> cases inFlight <;> rfl

theorem queueLine_eq (s : State) (n : Nat) (brk : Bool) (text : List Byte) :
    s.queueLine n brk text = s.setPub (s.pub.withLines (s.queuedLine s.pub.lines n brk text)) := by
  unfold State.queueLine State.queuedLine lineQueued
  split
  · rfl
  · dsimp only
    change _ = s.setPub (s.pub.withLines (if s.pub.lineQueue.length < 8 then _ else _))
    split
    · rfl
    · rw [dropOldestWaiting_eq]
      rfl

/-! ## A RECORD line takes its number (R93, R97) -/

theorem committedThrough_record {t : Tb} {n : Nat} (series : t.series = .record) (next : t.nextRecord = some (n + 1)) (low : n ≤ 16777215) :
    t.committedThrough = n := by
  simp [Tb.committedThrough, Tb.nextNumber, series, next, maxLine, low]

theorem afterRing_online (l : Lcp) (ring : List CommittedLine) (next : Nat) : (afterRing l ring next).online = l.online := by
  unfold afterRing
  split
  · rfl
  · split <;> rfl

theorem afterRing_config (l : Lcp) (ring : List CommittedLine) (next : Nat) : (afterRing l ring next).config = l.config := by
  unfold afterRing
  split
  · rfl
  · split <;> rfl

/-- The state once the RECORD line `l` stands in the ring and the LINE send queue, its number being reported to the horizon. -/
def State.numbered (s : State) (l : CommittedLine) : State :=
  ((s.setTb { s.tb with ring := ringWith s.tb.ring l, nextRecord := some (l.number + 1), nextOrdinal := nextOrdinalOf s.tb.nextOrdinal,
                        horizon := max s.tb.horizon l.number }).setLcp
    (afterRing s.lcp s.tb.ring (nextOrdinalOf s.tb.nextOrdinal))).setPub
    (s.pub.withLines (s.queuedLine s.pub.lines l.number l.brk l.text))

/-- The state once the RECORD line `l` has reached the Viewer too. -/
def State.tookLine (s : State) (l : CommittedLine) : State := (s.numbered l).setVw (s.viewedLine s.vw l.number l.brk l.text)

/-- The RECORD line of a number at the next commit ordinal. -/
def State.lineAt (s : State) (n : Nat) (brk carried : Bool) (text : List Byte) (strokes : Nat) : CommittedLine :=
  { series := .record, number := n, ordinal := s.tb.nextOrdinal, station := s.own, brk := brk, carried := carried, text := text,
    strokes := strokes }

theorem numbered_cfg (s : State) (l : CommittedLine) : (s.numbered l).cfg = s.cfg :=
  congrArg (Option.getD · Settings.default) (afterRing_config _ _ _)

theorem viewedLine_congr {s t : State} (online : t.lcp.online = s.lcp.online) (cfg : t.cfg = s.cfg) (v : Viewer) (n : Nat) (brk : Bool)
    (text : List Byte) : t.viewedLine v n brk text = s.viewedLine v n brk text := by
  rw [State.viewedLine, viewing_congr s t online cfg, State.own, cfg]
  rfl

theorem numbered_viewedLine (s : State) (l : CommittedLine) (v : Viewer) (n : Nat) (brk : Bool) (text : List Byte) :
    (s.numbered l).viewedLine v n brk text = s.viewedLine v n brk text :=
  viewedLine_congr (afterRing_online _ _ _) (numbered_cfg s l) v n brk text

theorem recordLine_eq {s : State} {n : Nat} (series : s.tb.series = .record) (next : s.tb.nextRecord.getD 1 = n) (low : n ≤ 16777215)
    (brk carried : Bool) (text : List Byte) (strokes : Nat) :
    s.recordLine brk carried text strokes = s.tookLine (s.lineAt n brk carried text strokes) := by
  subst next
  have through : (s.numbered (s.lineAt (s.tb.nextRecord.getD 1) brk carried text strokes)).tb.committedThrough =
      s.tb.nextRecord.getD 1 := committedThrough_record series rfl low
  rw [State.recordLine, enterRing_eq, queueLine_eq]
  refine (ownLineToViewer_eq brk text through).trans ?_
  rw [numbered_viewedLine]
  rfl

/-! ## What one line's commit leaves alone -/

/-- From `s` to `t` the LINE send queue with its count is all that changes in the Publisher, and a Viewer that does not act stays. -/
def LinesOnly (s t : State) : Prop :=
  SameBut tbParts s t ∧ t.pub = s.pub.withLines t.pub.lines ∧ (s.viewing = false → t.vw = s.vw)

theorem LinesOnly.trans {s t u : State} (h : LinesOnly s t) (k : LinesOnly t u) : LinesOnly s u := by
  obtain ⟨frame, pub, vw⟩ := h
  obtain ⟨frame', pub', vw'⟩ := k
  refine ⟨frame.trans frame', ?_, fun off => ?_⟩
  · rw [pub', pub]
    rfl
  · have off' : t.viewing = false := (viewing_congr s t (frame.isOnline (by decide)) (frame.cfg (by decide))).trans off
    rw [vw' off', vw off]

/-- An operation of the Transcript Builder that reaches neither Publisher nor Viewer. -/
theorem SameBut.linesOnly {s t : State} (h : SameBut [.tb, .latches] s t) : LinesOnly s t := by
  refine ⟨h.mono (by decide), ?_, fun _ => h.vw (by decide)⟩
  rw [h.pub (by decide)]
  rfl

theorem enterRing_linesOnly (s : State) (x : Tb) (l : CommittedLine) : LinesOnly s ((s.setTb x).enterRing l) :=
  ((frame_setTb s x).chain (frame_enterRing _ l) (by decide) (by decide)).linesOnly

theorem recordLine_linesOnly (s : State) (brk carried : Bool) (text : List Byte) (strokes : Nat) :
    LinesOnly s (s.recordLine brk carried text strokes) := by
  have queue (v : State) (n : Nat) : LinesOnly v (v.queueLine n brk text) := by
    rw [queueLine_eq]
    exact ⟨(frame_setPub _ _).mono (by decide), rfl, fun _ => rfl⟩
  have view (v : State) (n : Nat) : LinesOnly v (v.ownLineToViewer n brk text) := by
    have frame := frame_ownLineToViewer v n brk text
    refine ⟨frame.mono (by decide), ?_, fun off => ?_⟩
    · rw [frame.pub (by decide)]
      rfl
    · rw [State.ownLineToViewer, if_neg (by simp [off])]
  exact (((enterRing_linesOnly s _ _).trans (queue _ _)).trans ((frame_reportHorizon _ _).mono (by decide)).linesOnly).trans (view _ _)

theorem breakLine_linesOnly (s : State) : LinesOnly s s.breakLine := by
  unfold State.breakLine
  split
  · exact ((frame_latch _ _).mono (by decide)).linesOnly
  · exact recordLine_linesOnly _ _ _ _ _

theorem jumpBreak_linesOnly (s : State) : LinesOnly s s.jumpBreak := by
  have wrote : LinesOnly s s.jump.breakLine := ((frame_jump s).mono (by decide)).linesOnly.trans (breakLine_linesOnly _)
  unfold State.jumpBreak
  split
  · split
    · exact wrote
    · exact wrote.trans ((frame_latch _ _).mono (by decide)).linesOnly
  · exact (SameBut.refl _ _).linesOnly

theorem commitText_linesOnly (s : State) (carried : Bool) (text : List Byte) (strokes : Nat) :
    LinesOnly s (s.commitText carried text strokes) := by
  have discard (v : State) : LinesOnly v (v.discardLine strokes) :=
    ((frame_setTb v _).chain (frame_latch _ _) (by decide) (by decide)).linesOnly
  unfold State.commitText
  split
  · exact enterRing_linesOnly _ _ _
  · dsimp only
    split
    · exact (jumpBreak_linesOnly _).trans (discard _)
    · exact (jumpBreak_linesOnly _).trans (recordLine_linesOnly _ _ _ _ _)

/-! ## The text of a line in the series in force (R93, R96 to R98, R101) -/

/-- The BREAK line of a jump, at the next number above the horizon. -/
def State.breakAt (s : State) : CommittedLine := s.lineAt (s.tb.horizon + 1) true false breakText 0

/-- The state with a next RECORD number. -/
def State.nextAt (s : State) (n : Nat) : State := s.setTb { s.tb with nextRecord := some n }

section
variable {s : State} (series : s.tb.series = .record) {n : Nat} (next : s.tb.nextRecord.getD 1 = n)
include next

theorem jumpBreak_stays (above : s.tb.horizon < n) : s.jumpBreak = s := if_neg (by omega)

theorem jump_eq (below : n ≤ s.tb.horizon) : s.jump = s.nextAt (s.tb.horizon + 1) := if_pos (by omega)

include series in
/-- A jump writes a BREAK line, which RECORD_BREAK tells. -/
theorem jumpBreak_writes (below : n ≤ s.tb.horizon) (room : s.tb.horizon + 1 ≤ 16777215) :
    s.jumpBreak = ((s.nextAt (s.tb.horizon + 1)).tookLine s.breakAt).latch (.recordBreak (s.tb.horizon + 1)) := by
  have free : ¬ maxLine < (s.nextAt (s.tb.horizon + 1)).tb.nextRecord.getD 1 := Nat.not_lt.mpr room
  rw [State.jumpBreak, if_pos (by omega), jump_eq next below, if_neg free, State.breakLine, if_neg free,
    recordLine_eq (s := s.nextAt (s.tb.horizon + 1)) series rfl room]
  rfl

/-- Past the end of the record no BREAK line is written. -/
theorem jumpBreak_ended (below : n ≤ s.tb.horizon) (ended : 16777215 ≤ s.tb.horizon) :
    s.jumpBreak = (s.nextAt (s.tb.horizon + 1)).latch (.recordEnd s.tb.discardedLines) := by
  have past : maxLine < (s.nextAt (s.tb.horizon + 1)).tb.nextRecord.getD 1 := Nat.lt_succ_of_le ended
  rw [State.jumpBreak, if_pos (by omega), jump_eq next below, if_pos past, State.breakLine, if_pos past]
  rfl

end

/-- What the state `t` holds of the committed lines: Transcript Builder, LINE send queue with its count, Viewer, host port. -/
def LineParts (t : State) (tb : Tb) (lines : List LineEntry × Nat) (vw : Viewer) (lcp : Lcp) : Prop :=
  t.tb = tb ∧ t.pub.lines = lines ∧ t.vw = vw ∧ t.lcp = lcp

theorem tookLine_parts {s : State} {l : CommittedLine} (above : s.tb.horizon ≤ l.number) : LineParts (s.tookLine l)
    { s.tb with ring := ringWith s.tb.ring l, nextRecord := some (l.number + 1), nextOrdinal := nextOrdinalOf s.tb.nextOrdinal,
                horizon := l.number }
    (s.queuedLine s.pub.lines l.number l.brk l.text) (s.viewedLine s.vw l.number l.brk l.text)
    (afterRing s.lcp s.tb.ring (nextOrdinalOf s.tb.nextOrdinal)) := by
  have top : max s.tb.horizon l.number = l.number := max_eq_right above
  refine ⟨?_, rfl, rfl, rfl⟩
  simp only [State.tookLine, State.numbered, State.setVw_tb, State.setPub_tb, State.setLcp_tb, State.setTb_tb, top]

theorem discardLine_parts (s : State) (strokes : Nat) : LineParts (s.discardLine strokes)
    { s.tb with discardedLines := satSucc s.tb.discardedLines, discardedStrokes := s.tb.discardedStrokes + strokes }
    s.pub.lines s.vw (s.lcp.latched (.recordEnd (satSucc s.tb.discardedLines))) := ⟨rfl, rfl, rfl, rfl⟩

/-- The state after the BREAK line of a jump, which RECORD_BREAK tells. -/
def State.brokeOff (s : State) : State :=
  ((s.nextAt (s.tb.horizon + 1)).tookLine s.breakAt).latch (.recordBreak (s.tb.horizon + 1))

theorem brokeOff_parts (s : State) : LineParts s.brokeOff
    { s.tb with ring := ringWith s.tb.ring s.breakAt, nextRecord := some (s.tb.horizon + 2),
                nextOrdinal := nextOrdinalOf s.tb.nextOrdinal, horizon := s.tb.horizon + 1 }
    (s.queuedLine s.pub.lines (s.tb.horizon + 1) true breakText) (s.viewedLine s.vw (s.tb.horizon + 1) true breakText)
    ((afterRing s.lcp s.tb.ring (nextOrdinalOf s.tb.nextOrdinal)).latched (.recordBreak (s.tb.horizon + 1))) := by
  obtain ⟨tb, lines, vw, lcp⟩ := tookLine_parts (s := s.nextAt (s.tb.horizon + 1)) (l := s.breakAt) (Nat.le_succ s.tb.horizon)
  exact ⟨tb, lines, vw, congrArg (Lcp.latched · (.recordBreak (s.tb.horizon + 1))) lcp⟩

theorem brokeOff_next (s : State) : s.brokeOff.tb.nextRecord.getD 1 = s.tb.horizon + 2 := by
  obtain ⟨tb, -⟩ := brokeOff_parts s
  rw [tb]
  rfl

theorem brokeOff_cfg (s : State) : s.brokeOff.cfg = s.cfg :=
  (latch_cfg _ _).trans (numbered_cfg (s.nextAt (s.tb.horizon + 1)) s.breakAt)

theorem brokeOff_own (s : State) : s.brokeOff.own = s.own := congrArg Settings.station (brokeOff_cfg s)

theorem brokeOff_viewedLine (s : State) (v : Viewer) (n : Nat) (brk : Bool) (text : List Byte) :
    s.brokeOff.viewedLine v n brk text = s.viewedLine v n brk text :=
  viewedLine_congr ((latch_isOnline _ _).trans (afterRing_online _ _ _)) (brokeOff_cfg s) v n brk text

theorem brokeOff_queuedLine (s : State) (p : List LineEntry × Nat) (n : Nat) (brk : Bool) (text : List Byte) :
    s.brokeOff.queuedLine p n brk text = s.queuedLine p n brk text := by
  simp only [State.queuedLine, State.brokeOff, latch_cu, latch_lnc, State.tookLine, State.numbered, State.nextAt, State.setVw_cu,
    State.setVw_lnc, State.setPub_cu, State.setPub_lnc, State.setLcp_cu, State.setLcp_lnc, State.setTb_cu, State.setTb_lnc]

/-- A line after the BREAK line takes the commit ordinal after it. -/
theorem brokeOff_lineAt (s : State) (n : Nat) (brk carried : Bool) (text : List Byte) (strokes : Nat) :
    s.brokeOff.lineAt n brk carried text strokes =
      { s.lineAt n brk carried text strokes with ordinal := nextOrdinalOf s.tb.nextOrdinal } := by
  obtain ⟨tb, -⟩ := brokeOff_parts s
  rw [State.lineAt, brokeOff_own, tb]
  rfl

section
variable {s : State} (carried : Bool) (text : List Byte) (strokes : Nat)

theorem commitText_draft (series : s.tb.series = .draft) : LineParts (s.commitText carried text strokes)
    { s.tb with
      ring := ringWith s.tb.ring
        { series := .draft, number := s.tb.nextDraft, ordinal := s.tb.nextOrdinal, station := s.own, brk := false, carried := carried,
          text := text, strokes := strokes },
      nextOrdinal := nextOrdinalOf s.tb.nextOrdinal, nextDraft := nextDraftOf s.tb.nextDraft }
    s.pub.lines s.vw (afterRing s.lcp s.tb.ring (nextOrdinalOf s.tb.nextOrdinal)) := by
  rw [State.commitText, series]
  dsimp only
  rw [enterRing_eq]
  exact ⟨rfl, rfl, rfl, rfl⟩

variable (series : s.tb.series = .record)
include series

theorem commitText_record : s.commitText carried text strokes =
    if maxLine < s.jumpBreak.tb.nextRecord.getD 1 then s.jumpBreak.discardLine strokes
    else s.jumpBreak.recordLine false carried text strokes := by
  rw [State.commitText, series]

variable {n : Nat} (next : s.tb.nextRecord.getD 1 = n)
include next

theorem commitText_above (above : s.tb.horizon < n) (low : n ≤ 16777215) : LineParts (s.commitText carried text strokes)
    { s.tb with ring := ringWith s.tb.ring (s.lineAt n false carried text strokes), nextRecord := some (n + 1),
                nextOrdinal := nextOrdinalOf s.tb.nextOrdinal, horizon := n }
    (s.queuedLine s.pub.lines n false text) (s.viewedLine s.vw n false text)
    (afterRing s.lcp s.tb.ring (nextOrdinalOf s.tb.nextOrdinal)) := by
  have free : ¬ maxLine < n := Nat.not_lt.mpr low
  rw [commitText_record carried text strokes series, jumpBreak_stays next above, next, if_neg free, recordLine_eq series next low]
  exact tookLine_parts (l := s.lineAt n false carried text strokes) above.le

theorem commitText_past (above : s.tb.horizon < n) (past : 16777215 < n) : LineParts (s.commitText carried text strokes)
    { s.tb with discardedLines := satSucc s.tb.discardedLines, discardedStrokes := s.tb.discardedStrokes + strokes }
    s.pub.lines s.vw (s.lcp.latched (.recordEnd (satSucc s.tb.discardedLines))) := by
  have ended : maxLine < n := past
  rw [commitText_record carried text strokes series, jumpBreak_stays next above, next, if_pos ended]
  exact discardLine_parts s strokes

theorem commitText_jumps (below : n ≤ s.tb.horizon) (room : s.tb.horizon + 2 ≤ 16777215) : LineParts (s.commitText carried text strokes)
    { s.tb with
      ring := ringWith (ringWith s.tb.ring s.breakAt)
        { s.lineAt (s.tb.horizon + 2) false carried text strokes with ordinal := nextOrdinalOf s.tb.nextOrdinal },
      nextRecord := some (s.tb.horizon + 3), nextOrdinal := nextOrdinalOf (nextOrdinalOf s.tb.nextOrdinal),
      horizon := s.tb.horizon + 2 }
    (s.queuedLine (s.queuedLine s.pub.lines (s.tb.horizon + 1) true breakText) (s.tb.horizon + 2) false text)
    (s.viewedLine (s.viewedLine s.vw (s.tb.horizon + 1) true breakText) (s.tb.horizon + 2) false text)
    (afterRing ((afterRing s.lcp s.tb.ring (nextOrdinalOf s.tb.nextOrdinal)).latched (.recordBreak (s.tb.horizon + 1)))
      (ringWith s.tb.ring s.breakAt) (nextOrdinalOf (nextOrdinalOf s.tb.nextOrdinal))) := by
  have free : ¬ maxLine < s.tb.horizon + 2 := Nat.not_lt.mpr room
  have wrote : s.jumpBreak = s.brokeOff := jumpBreak_writes series next below (by omega)
  obtain ⟨tb, lines, vw, lcp⟩ := brokeOff_parts s
  have recorded : s.brokeOff.tb.series = .record := by rw [tb]; exact series
  have above : s.brokeOff.tb.horizon ≤ s.tb.horizon + 2 := by rw [tb]; exact Nat.le_succ _
  have took := tookLine_parts (s := s.brokeOff) (l := s.brokeOff.lineAt (s.tb.horizon + 2) false carried text strokes) above
  rw [brokeOff_lineAt, brokeOff_queuedLine, brokeOff_viewedLine, lines, vw, lcp, tb] at took
  rw [commitText_record carried text strokes series, wrote, brokeOff_next, if_neg free,
    recordLine_eq recorded (brokeOff_next s) room, brokeOff_lineAt]
  exact took

theorem commitText_lastBreak (below : n ≤ s.tb.horizon) (last : s.tb.horizon = 16777214) :
    LineParts (s.commitText carried text strokes)
      { s.tb with ring := ringWith s.tb.ring s.breakAt, nextRecord := some (s.tb.horizon + 2),
                  nextOrdinal := nextOrdinalOf s.tb.nextOrdinal, horizon := s.tb.horizon + 1,
                  discardedLines := satSucc s.tb.discardedLines, discardedStrokes := s.tb.discardedStrokes + strokes }
      (s.queuedLine s.pub.lines (s.tb.horizon + 1) true breakText) (s.viewedLine s.vw (s.tb.horizon + 1) true breakText)
      (((afterRing s.lcp s.tb.ring (nextOrdinalOf s.tb.nextOrdinal)).latched (.recordBreak (s.tb.horizon + 1))).latched
        (.recordEnd (satSucc s.tb.discardedLines))) := by
  have past : maxLine < s.tb.horizon + 2 := by
    rw [maxLine]
    omega
  have wrote : s.jumpBreak = s.brokeOff := jumpBreak_writes series next below (by omega)
  obtain ⟨tb, lines, vw, lcp⟩ := brokeOff_parts s
  have discarded := discardLine_parts s.brokeOff strokes
  rw [lines, vw, lcp, tb] at discarded
  rw [commitText_record carried text strokes series, wrote, brokeOff_next, if_pos past]
  exact discarded

theorem commitText_ended (below : n ≤ s.tb.horizon) (ended : 16777215 ≤ s.tb.horizon) : LineParts (s.commitText carried text strokes)
    { s.tb with nextRecord := some (s.tb.horizon + 1), discardedLines := satSucc s.tb.discardedLines,
                discardedStrokes := s.tb.discardedStrokes + strokes }
    s.pub.lines s.vw ((s.lcp.latched (.recordEnd s.tb.discardedLines)).latched (.recordEnd (satSucc s.tb.discardedLines))) := by
  have past : maxLine < ((s.nextAt (s.tb.horizon + 1)).latch (.recordEnd s.tb.discardedLines)).tb.nextRecord.getD 1 :=
    Nat.lt_succ_of_le ended
  rw [commitText_record carried text strokes series, jumpBreak_ended next below ended, if_pos past]
  exact discardLine_parts ((s.nextAt (s.tb.horizon + 1)).latch (.recordEnd s.tb.discardedLines)) strokes

end

/-! ## The commit of the oldest line (R88, R93, R128) -/

theorem noticeDue_iff (s t : State) : noticeDue s t = true ↔
    s.tb.region.lines ≠ t.tb.region.lines ∨ s.tb.committedThrough ≠ t.tb.committedThrough := by simp [noticeDue]

theorem frame_notice (s t : State) : SameBut [.pub] t (s.notified t) := frame_ite (frame_buildTail t) (SameBut.refl _ _)

/-- The Publisher after a rendering: a new TAIL image waits where the open lines or the committed line changed and TAILs are allowed. -/
theorem notified_pub (s t : State) : (s.notified t).pub =
    if 0 < t.pub.ownWeight ∧ t.pub.muted = false ∧ t.cu.conflict = false
        ∧ (s.tb.region.lines ≠ t.tb.region.lines ∨ s.tb.committedThrough ≠ t.tb.committedThrough) then
      { t.pub with tailWaiting := some t.tailImage, refreshAt := some (t.clock.ms + 2000) }
    else t.pub := by
  unfold State.notified State.buildTail
  by_cases due : noticeDue s t = true
  · by_cases may : t.tailsAllowed = true
    · obtain ⟨weight, heard, free⟩ := (tailsAllowed_iff t).mp may
      rw [if_pos due, if_pos may, if_pos ⟨weight, heard, free, (noticeDue_iff s t).mp due⟩]
      rfl
    · rw [if_pos due, if_neg may, if_neg fun ⟨weight, heard, free, _⟩ => may ((tailsAllowed_iff t).mpr ⟨weight, heard, free⟩)]
  · rw [if_neg due, if_neg fun ⟨_, _, _, differ⟩ => due ((noticeDue_iff s t).mpr differ)]

theorem notified_lines (s t : State) : (s.notified t).pub.lines = t.pub.lines := by
  rw [notified_pub]
  split <;> rfl

/-- The state once the first open line has left the region and its text is committed, before the notice. -/
def State.oldestTaken (s : State) : State :=
  s.releaseFirst.commitText (decide (0 < s.tb.carried)) (s.tb.region.lines.headD []) (strokeCount s.tb.region.locking)

theorem oldestTaken_linesOnly (s : State) : LinesOnly s s.oldestTaken :=
  ((frame_setTb s _).mono (by decide)).linesOnly.trans (commitText_linesOnly _ _ _ _)

theorem commitOldest_notified (s : State) : s.commitOldest = s.notified s.oldestTaken := rfl

theorem commitOldest_tb (s : State) : s.commitOldest.tb = s.oldestTaken.tb := notified_tb s s.oldestTaken

/-- A commit leaves what its text's commit leaves: the notice adds a TAIL image alone. -/
theorem commitOldest_parts {s : State} {tb : Tb} {lines : List LineEntry × Nat} {vw : Viewer} {lcp : Lcp}
    (taken : LineParts s.oldestTaken tb lines vw lcp) : LineParts s.commitOldest tb lines vw lcp := by
  obtain ⟨rfl, rfl, rfl, rfl⟩ := taken
  have frame := frame_notice s s.oldestTaken
  exact ⟨commitOldest_tb s, notified_lines s _, frame.vw (by decide), frame.lcp (by decide) (by decide)⟩

theorem commitOldest_vw (s : State) (off : s.viewing = false) : s.commitOldest.vw = s.vw := by
  obtain ⟨-, -, vw⟩ := oldestTaken_linesOnly s
  exact ((frame_notice s s.oldestTaken).vw (by decide)).trans (vw off)

theorem commitOldest_pub (s : State) : s.commitOldest.pub =
    { s.pub with lineQueue := s.commitOldest.pub.lineQueue, lineOverflow := s.commitOldest.pub.lineOverflow,
                 tailWaiting := s.commitOldest.pub.tailWaiting, refreshAt := s.commitOldest.pub.refreshAt } := by
  obtain ⟨-, pub, -⟩ := oldestTaken_linesOnly s
  obtain ⟨q, a, b, new⟩ : ∃ q a b, s.commitOldest.pub = { s.pub.withLines q with tailWaiting := a, refreshAt := b } := by
    rw [commitOldest_notified, notified_pub, pub]
    split
    · exact ⟨s.oldestTaken.pub.lines, _, _, rfl⟩
    · exact ⟨s.oldestTaken.pub.lines, s.pub.tailWaiting, s.pub.refreshAt, rfl⟩
  rw [new]
  rfl

/-- The TAIL image that waits after a commit (R127, R128). -/
theorem commitOldest_tail (s : State) : (s.commitOldest.pub.tailWaiting, s.commitOldest.pub.refreshAt) =
    if 0 < s.pub.ownWeight ∧ s.pub.muted = false ∧ s.cu.conflict = false
        ∧ (s.tb.region.lines ≠ s.commitOldest.tb.region.lines ∨ s.tb.committedThrough ≠ s.commitOldest.tb.committedThrough) then
      (some { series := s.commitOldest.tb.series, custody := s.cu.state, committed := s.commitOldest.tb.committedThrough,
              firstOpen := s.commitOldest.tb.firstOpen, lines := s.commitOldest.tb.region.lines, attempts := 0 },
        some (s.clock.ms + 2000))
    else (s.pub.tailWaiting, s.pub.refreshAt) := by
  obtain ⟨frame, pub, -⟩ := oldestTaken_linesOnly s
  rw [commitOldest_tb, commitOldest_notified, notified_pub, State.tailImage, frame.cu (by decide), frame.clock (by decide), pub]
  exact apply_ite (fun p : Pub => (p.tailWaiting, p.refreshAt)) _ _ _

/-! ## Commits, oldest first (R89, R90, R94) -/

/-- Commits while a condition on the region holds are some number of commits, each made where it held. -/
theorem commitWhile_iterate (p : Region → Bool) (fuel : Nat) (s : State) : ∃ n ≤ fuel,
    State.commitWhile p fuel s = State.commitOldest^[n] s
    ∧ ∀ j, j < n → p (State.commitOldest^[j] s).tb.region = true := by
  induction fuel generalizing s with
  | zero => exact ⟨0, Nat.le_refl _, rfl, fun j lt => absurd lt (Nat.not_lt_zero j)⟩
  | succ fuel ih =>
    unfold State.commitWhile
    split
    next holds =>
      obtain ⟨n, few, run, each⟩ := ih s.commitOldest
      refine ⟨n + 1, Nat.succ_le_succ few, run, fun j lt => ?_⟩
      cases j with
      | zero => exact holds
      | succ j => exact each j (Nat.lt_of_succ_lt_succ lt)
    next => exact ⟨0, Nat.zero_le _, rfl, fun j lt => absurd lt (Nat.not_lt_zero j)⟩

theorem firstHolds_iff (r : Region) :
    r.firstHolds = true ↔ r.lines.headD [] ≠ [] ∨ ∃ x, r.units.head? = some x ∧ x.anchor = 0 := by
  have locks : r.locking ≠ [] ↔ ∃ x, r.units.head? = some x ∧ x.anchor = 0 := by
    unfold Region.locking
    cases r.units with
    | nil => simp
    | cons x us => by_cases first : x.anchor = 0 <;> simp [first]
  rw [← locks]
  simp [Region.firstHolds]

/-- As many commits as lines are open leave a first line that holds nothing (R94). -/
theorem commitAll_done (k : Nat) (s : State) (rendered : Rendered s) (open_ : s.tb.region.lines.length = k + 1) :
    (State.commitWhile Region.firstHolds (k + 1) s).tb.region.firstHolds = false := by
  induction k generalizing s with
  | zero =>
    unfold State.commitWhile
    split
    · obtain ⟨units, lines⟩ := commitOldest_last s rendered open_
      change s.commitOldest.tb.region.firstHolds = false
      simp [Region.firstHolds, Region.locking, units, lines]
    next holds => exact Bool.eq_false_iff.mpr holds
  | succ k ih =>
    unfold State.commitWhile
    split
    · refine ih _ (rendered_commitOldest s) ?_
      rw [commitOldest_lines s rendered (by omega), List.length_drop, open_]
      rfl
    next holds => exact Bool.eq_false_iff.mpr holds

/-- The state whose open lines have been committed, before the region is emptied (R94). -/
def State.linesCommitted (s : State) : State := State.commitWhile Region.firstHolds s.tb.region.lines.length s

theorem linesCommitted_done {s : State} (rendered : Rendered s) : s.linesCommitted.tb.region.firstHolds = false := by
  obtain ⟨k, open_⟩ := Nat.exists_eq_add_of_le' (rendered_lines_pos s rendered)
  rw [State.linesCommitted, open_]
  exact commitAll_done k s rendered open_

theorem commitAllLines_eq (s : State) : s.commitAllLines = s.linesCommitted.clearRegion := rfl

theorem clearRegion_tb (s : State) : s.clearRegion.tb =
    { s.tb with region := Region.empty s.tb.region.format, carried := min s.tb.carried 1 } := notified_tb _ _

theorem clearRegion_pub (s : State) : s.clearRegion.pub =
    if 0 < s.pub.ownWeight ∧ s.pub.muted = false ∧ s.cu.conflict = false ∧ s.tb.region.lines ≠ [[]] then
      { s.pub with
        tailWaiting := some { series := s.tb.series, custody := s.cu.state, committed := s.tb.committedThrough,
                              firstOpen := s.tb.firstOpen, lines := [[]], attempts := 0 },
        refreshAt := some (s.clock.ms + 2000) }
    else s.pub := by
  have sameNumber : (s.tb.setRegion (Region.empty s.tb.region.format)).committedThrough = s.tb.committedThrough := rfl
  rw [State.clearRegion, notified_pub]
  simp only [State.setTb_tb, sameNumber, ne_eq, not_true_eq_false, or_false]
  rfl

/-- The strokes of the units that a commit locks, and of those that stay (R77). -/
theorem strokeCount_dropFirst (r : Region) (w i : Nat) :
    strokeCount r.units = strokeCount r.locking + strokeCount (r.dropFirst w i).units := by
  have count (us : List TextUnit) : strokeCount us = ((us.map TextUnit.strokes).map List.length).sum := by
    rw [strokeCount, List.map_map]
    rfl
  have stay : (r.dropFirst w i).units.map TextUnit.strokes = r.staying.map TextUnit.strokes := renderUnits_strokes _ _ _ _
  have whole : r.locking ++ r.staying = r.units := List.takeWhile_append_dropWhile
  simp only [count, stay, ← whole, List.map_append, List.sum_append]

/-! ## SETTLE_TIMER_EXPIRY (R159) -/

theorem exec_settleTimerExpiry (s : State) : exec .settleTimerExpiry s = .next s.settleExpiry := rfl

/-- The hand-over to `c`, before the flush is asked of the TE. -/
def State.handingTo (s : State) (c : Claim) : State :=
  s.setCu { s.cu with handOver := .handingOver c.station, claims := [], settleAt := none }

theorem settleExpiry_hands {s : State} {e : Ms} {c : Claim} (timer : s.cu.settleAt = some e)
    (best : s.cu.claims.foldl betterClaim none = some c) : s.settleExpiry = ((s.reachMs e).handingTo c).requestFlush.settled := by
  have hands : ((s.reachMs e).setCu { (s.reachMs e).cu with settleAt := none }).handOverToBest =
      ((s.reachMs e).handingTo c).requestFlush := by
    rw [State.handOverToBest, State.setCu_cu, reachMs_cu, best, State.handingTo, reachMs_cu]
    rfl
  rw [State.settleExpiry, timer]
  exact congrArg State.settled hands

/-- A flush asked of the TE during a hand-over: an IDLE one requests the commit-all at once (R70, R159). -/
theorem requestFlush_handing (s : State) (c : Claim) :
    ((s.handingTo c).requestFlush).cu =
      { s.cu with handOver := .handingOver c.station, claims := [], settleAt := none,
                  commitAllDue := s.cu.commitAllDue || decide (s.te.phase = .idle) }
    ∧ ((s.handingTo c).requestFlush).te =
      if s.te.phase = .idle then s.te
      else { s.te with flushOwed := true, demand := .all, resolveAt := if s.te.phase = .hold then none else s.te.resolveAt } := by
  have te : (s.handingTo c).te = s.te := rfl
  unfold State.requestFlush
  rw [te]
  cases phase : s.te.phase with
  | idle =>
    dsimp only
    rw [flushReport_handingOver ⟨c.station, rfl⟩]
    simp [State.handingTo]
  | hold => simp [State.handingTo, phase]
  | step | fetch => simp [State.handingTo, phase]

/-! ## COMMIT_ALL (R94, R160) -/

theorem exec_commitAll (s : State) : exec .commitAll s = .next s.commitAll := rfl

/-- The commit-all taken. -/
def State.allCommitted (s : State) : State := (s.setCu { s.cu with commitAllDue := false }).commitAllLines

theorem allCommitted_cu (s : State) : s.allCommitted.cu = { s.cu with commitAllDue := false } := commitAllLines_cu _

theorem allCommitted_cfg (s : State) : s.allCommitted.cfg = s.cfg := commitAllLines_cfg _

theorem frame_allCommitted (s : State) : SameBut (.cu :: tbParts) s s.allCommitted :=
  (frame_setCu _ _).chain (frame_commitAllLines _) (by decide) (by decide)

theorem latches_allCommitted (s : State) : LatchesBut tbEvents s s.allCommitted :=
  LatchesBut.trans ((frame_setCu _ _).noLatch (by decide)) (latches_commitAllLines _)

/-- The region is empty after a commit-all, its format kept. -/
theorem allCommitted_region (s : State) : s.allCommitted.tb.region = Region.empty s.allCommitted.tb.region.format := by
  rw [State.allCommitted, commitAllLines_eq, clearRegion_tb]
  rfl

theorem commitAll_stays {s : State} (none : s.cu.commitAllDue = false) : s.commitAll = s := if_neg (by simp [none])

theorem commitAll_taken {s : State} (due : s.cu.commitAllDue = true) : s.commitAll =
    State.offered (match s.cu.handOver with
      | .handingOver n => s.allCommitted.completeRelease n
      | _ => s.allCommitted) := by
  have handOver : s.allCommitted.cu.handOver = s.cu.handOver := by rw [allCommitted_cu]
  rw [← handOver]
  exact if_pos due

section
variable {s : State} (due : s.cu.commitAllDue = true)
include due

theorem commitAll_plain (other : ∀ n, s.cu.handOver ≠ .handingOver n) : s.commitAll = s.allCommitted.offered := by
  rw [commitAll_taken due]
  cases handOver : s.cu.handOver with
  | handingOver n => exact absurd handOver (other n)
  | none | gathering => rfl

theorem commitAll_releases {n : Nat} (going : s.cu.handOver = .handingOver n) :
    s.commitAll = (s.allCommitted.completeRelease n).offered := by
  rw [commitAll_taken due, going]

end

/-! ## The end of a hand-over (R99, R160) -/

theorem switchToDraft_tb (s : State) : s.switchToDraft.tb =
    if s.tb.series = .record then { s.tb with series := .draft, nextRecord := none, carried := 0 } else s.tb := by
  unfold State.switchToDraft
  cases series : s.tb.series <;> rfl

section
variable (s : State) (n : Nat)

theorem completeRelease_cu : (s.completeRelease n).cu =
    { s.cu with handOver := .none, recordClosed := decide (n = 0) || s.cu.recordClosed,
                state := if s.cfg.releaseToIdle then .idle else .shadow } := by
  simp [State.completeRelease]

theorem completeRelease_tb : (s.completeRelease n).tb = s.switchToDraft.tb := by
  simp [State.completeRelease, switchToDraft_tb]

theorem completeRelease_custodyList : (s.completeRelease n).lnc.custodyList.getLast? =
    some { kind := .release, frame := releaseFrame s.cfg n s.tb.committedThrough s.tb.region.format, attempts := 0 } := by
  simp [State.completeRelease, State.handCustody]

theorem completeRelease_lineQueue : (s.completeRelease n).pub.lineQueue = s.pub.lineQueue := by
  obtain ⟨queue, -⟩ := setCustody_lists
    (((s.handCustody .release (releaseFrame s.cfg n s.tb.committedThrough s.tb.region.format)).switchToDraft).setCu
      { s.cu with handOver := .none, recordClosed := decide (n = 0) || s.cu.recordClosed })
    (if s.cfg.releaseToIdle then .idle else .shadow)
  simpa [State.completeRelease] using queue

/-- CUSTODY_CHANGED tells the release. -/
theorem latched_completeRelease : Latched s (s.completeRelease n) 4
    (.custodyChanged (if n = 0 then .closed else .released) n s.tb.committedThrough) := by
  refine Latched.after (latched_latch _ _) (ps := [12]) ?_ (by decide) (by decide)
  refine LatchesBut.trans ?_ (latches_setCustody _ _)
  refine LatchesBut.trans ?_ ((frame_setCu _ _).noLatch (by decide))
  exact ((frame_handCustody _ _ _).chain (frame_switchToDraft _) (zs := [.lnc, .tb]) (by decide) (by decide)).noLatch (by decide)

end

end Sys2Proof.Machine

open Sys2Proof Sys2Proof.Machine

/-- Settles O45: the flush by the TE's phase (`requestFlush_handing`); a commit-all as commits while the first line holds something
(`commitWhile_iterate`, `commitAll_done`), then the release; one commit by its series, the horizon and the next number
(`commitText_draft` … `commitText_ended`), its notice adding a TAIL image alone (`commitOldest_parts`). -/
theorem aHandOverFlushesCommitsAndReleases : Obligations.AHandOverFlushesCommitsAndReleases := by
  unfold Obligations.AHandOverFlushesCommitsAndReleases
  refine ⟨?settle, ?release, ?none, fun r => strokeCount_dropFirst r, ?all, firstHolds_iff, ?more, ?plain, ?viewer, ?commit⟩
  case settle =>
    intro s e c timer best
    obtain ⟨cu, te⟩ := requestFlush_handing (s.reachMs e) c
    rw [reachMs_cu, reachMs_te] at cu
    rw [reachMs_te] at te
    refine ⟨_, (exec_settleTimerExpiry s).trans (congrArg Host.Outcome.next (settleExpiry_hands timer best)), ?_, cu, te⟩
    exact (frame_setCu _ _).chain (frame_requestFlush _) (by decide) (by decide)
  case release =>
    intro s n due going
    have frame := frame_offered (s.allCommitted.completeRelease n)
    have tb : (s.allCommitted.completeRelease n).offered.tb = s.allCommitted.switchToDraft.tb :=
      (frame.tb (by decide)).trans (completeRelease_tb _ _)
    refine ⟨_, s.allCommitted, (exec_commitAll s).trans (congrArg Host.Outcome.next (commitAll_releases due going)), ?_, rfl, ?_, ?_, ?_,
      ?_, ?_, ?_⟩
    · exact (frame_allCommitted s).chain ((frame_completeRelease _ _).chain frame (zs := .lnc :: .sp :: recordParts) (by decide)
        (by decide)) (by decide) (by decide)
    · rw [State.offered, frame.cu (by decide), completeRelease_cu, allCommitted_cu, allCommitted_cfg]
    · have list := (choose_slot (s.allCommitted.completeRelease n)).custodyList
      rw [State.offered, compose_lnc, list, completeRelease_custodyList, allCommitted_cfg]
    · rw [tb, switchToDraft_tb, ← allCommitted_region]
      split <;> rfl
    · rw [tb, switchToDraft_tb]
    · have queue := (choose_credit (s.allCommitted.completeRelease n)).lineQueue
      rw [State.offered, compose_pub, queue, completeRelease_lineQueue]
    · exact ((latched_completeRelease _ n).after (latches_allCommitted s) (by decide) (by decide)).keep
        (frame.noLatch (ps := []) (by decide)) (by decide) (by decide)
  case none => exact fun s none => (exec_commitAll s).trans (congrArg Host.Outcome.next (commitAll_stays none))
  case all =>
    intro s
    obtain ⟨n, few, run, each⟩ := commitWhile_iterate Region.firstHolds s.tb.region.lines.length s
    refine ⟨n, _, run, few, each, linesCommitted_done, ?_, clearRegion_tb _, clearRegion_pub _⟩
    exact frame_clearRegion _
  case more =>
    intro s
    obtain ⟨n, -, run, each⟩ := commitWhile_iterate (fun r => decide (4 < r.lines.length)) s.tb.region.lines.length s
    exact ⟨n, run, fun j lt => of_decide_eq_true (each j lt), commitOver_lines s⟩
  case plain => exact fun s due other => (exec_commitAll s).trans (congrArg Host.Outcome.next (commitAll_plain due other))
  case viewer =>
    rintro v w own n brk text rfl
    refine ⟨?_, ?_, fun takes => ⟨?_, fun m other => ?_⟩, fun stays => ?_⟩
    · rw [withOwnLine_eq]
    · rw [withOwnLine_eq]
      dsimp only
      split <;> rfl
    · rw [withOwnLine_stateOf, stored_puts brk text takes, stateOf_put]
    · rw [withOwnLine_stateOf, stored_puts brk text takes, stateOf_put_other _ _ _ _ other]
    · rw [withOwnLine_store, stored_stays brk text stays]
  case commit =>
    rintro s t g text n o o' h count carried line brkLine queued viewed rfl rfl rfl rfl rfl rfl rfl rfl rfl rfl rfl rfl rfl
    refine ⟨(frame_commitOldest s).mono (by decide), commitOldest_vw s, commitOldest_pub s, commitOldest_tail s, ?draft, ?above,
      ?jumps, ?lastBreak, ?ended, ?past⟩
    case draft =>
      intro series
      obtain ⟨tb, lines, vw, lcp⟩ := commitOldest_parts (commitText_draft (s := s.releaseFirst) _ _ _ series)
      rw [series]
      exact ⟨tb, lines, vw, lcp⟩
    case above =>
      intro series above low
      obtain ⟨tb, lines, vw, lcp⟩ := commitOldest_parts (commitText_above (s := s.releaseFirst) _ _ _ series rfl above low)
      rw [series]
      exact ⟨tb, lines, vw, lcp⟩
    case jumps =>
      rintro series below room r o'' rfl rfl
      obtain ⟨tb, lines, vw, lcp⟩ := commitOldest_parts (commitText_jumps (s := s.releaseFirst) _ _ _ series rfl below room)
      rw [series]
      exact ⟨tb, lines, vw, lcp⟩
    case lastBreak =>
      intro series below last
      obtain ⟨tb, lines, vw, lcp⟩ := commitOldest_parts (commitText_lastBreak (s := s.releaseFirst) _ _ _ series rfl below last)
      have number : 16777215 = s.tb.horizon + 1 := by omega
      have after : 16777216 = s.tb.horizon + 2 := by omega
      rw [number, after]
      exact ⟨tb, lines, vw, lcp⟩
    case ended =>
      intro series below ended
      exact commitOldest_parts (commitText_ended (s := s.releaseFirst) _ _ _ series rfl below ended)
    case past =>
      intro series above past
      exact commitOldest_parts (commitText_past (s := s.releaseFirst) _ _ _ series rfl above past)
end

section
/-! SUPPORT. Frames as sent and as assembled, the clock of the line, and an ended frame's finish; with them O12, O34 and O35. -/

namespace Sys2Proof.Machine

/-! ## A frame assembled character by character (R106, R107) -/

theorem foldl_join_sound (chars : List Byte) : ∀ a : Assembly, a.count = a.bytes.length → a.count + chars.length ≤ 363 →
    chars.foldl (fun x b => x.join b false) a = { a with bytes := a.bytes ++ chars, count := a.count + chars.length } := by
  induction chars with
  | nil => intro a _ _; simp
  | cons b rest ih =>
    intro a whole fits
    rw [List.length_cons] at fits
    have joined : a.join b false = { a with bytes := a.bytes ++ [b], count := a.count + 1 } := by
      rw [Assembly.join, if_pos (by omega), Bool.or_false]
    rw [List.foldl_cons, joined, ih _ (by simp [whole]) (by dsimp only; omega)]
    simp [Nat.add_assoc, Nat.add_comm 1]

theorem checkSums_lt (bytes : List Byte) : (checkSums bytes).1 < 255 ∧ (checkSums bytes).2 < 255 := by
  unfold checkSums
  refine List.foldlRecOn (motive := fun sums : Nat × Nat => sums.1 < 255 ∧ sums.2 < 255) bytes _ ⟨by decide, by decide⟩ ?_
  exact fun _ _ _ _ => ⟨Nat.mod_lt _ (by decide), Nat.mod_lt _ (by decide)⟩

/-- The bytes of a frame after its heading, as they are sent: body and check characters (R107). -/
def Frame.afterHeading (f : Frame) : List Byte :=
  f.body ++ [BitVec.ofNat 8 (checkSums (f.heading :: f.body)).1, BitVec.ofNat 8 (checkSums (f.heading :: f.body)).2]

theorem chars_eq (f : Frame) : f.chars = (true, f.heading) :: f.afterHeading.map fun b => (false, b) := by
  simp [Frame.chars, Frame.afterHeading, leBytes]

/-- What a receiver holds of a frame read whole and undamaged. -/
def Frame.assembled (f : Frame) : Assembly :=
  { bytes := f.heading :: f.afterHeading, count := f.body.length + 3, damaged := false, own := false }

theorem assembled_of_chars {f : Frame} (fits : f.body.length ≤ 360) :
    (f.afterHeading.map fun b => (false, b)).foldl (fun a c => a.join c.2 false) (Assembly.start f.heading false false) = f.assembled := by
  have length : f.afterHeading.length = f.body.length + 2 := by simp [Frame.afterHeading]
  rw [List.foldl_map, foldl_join_sound _ _ rfl (by rw [length]; dsimp only [Assembly.start]; omega)]
  simp only [Assembly.start, Frame.assembled, length, Assembly.mk.injEq, List.singleton_append, and_true, true_and]
  omega

theorem assembled_frame (f : Frame) : f.assembled.frame = f := by
  simp [Frame.assembled, Assembly.frame, byteOf, Frame.afterHeading]

theorem checks_assembled (f : Frame) : f.assembled.checks = true := by
  have kept {n : Nat} (lt : n < 255) : n % 256 = n := Nat.mod_eq_of_lt (by omega)
  obtain ⟨first, second⟩ := checkSums_lt (f.heading :: f.body)
  simp only [Assembly.checks, assembled_frame, decide_eq_true_eq]
  refine Prod.ext ?_ ?_
  · simp [Frame.assembled, byteOf, Frame.afterHeading, kept first]
  · simp [Frame.assembled, byteOf, Frame.afterHeading, kept second]

theorem verdict_assembled {f : Frame} (whole : f.kind.minBody ≤ f.body.length) (fits : f.body.length ≤ 360) :
    f.assembled.verdict = .good f := by
  have own : f.assembled.own = false := rfl
  have sound : f.assembled.damaged = false := rfl
  have count : f.assembled.count = f.body.length + 3 := rfl
  rw [Assembly.verdict, assembled_frame, checks_assembled, own, sound, count]
  simp only [Bool.false_eq_true, if_false, Bool.not_true]
  rw [if_neg (by omega), if_neg (by omega), if_neg (by omega)]

/-! ## The line's clock (R105, R113) -/

theorem advance_lnc (s : State) (n : Nat) : (s.advance n).lnc = s.lnc.advance n := rfl

theorem advance_chars (s : State) (n : Nat) : (s.advance n).clock.chars = s.clock.chars + n := rfl

/-- Time that passes moves silence and the quiet point alone. -/
theorem lnc_advance_same (l : Lnc) (n : Nat) : l.advance n = { l with silence := (l.advance n).silence, quiet := (l.advance n).quiet } := by
  unfold Lnc.advance
  split <;> rfl

/-- Silence counts on a line that is not busy. -/
theorem silence_advance (l : Lnc) (n : Nat) : (l.advance n).silence = if l.busySince = none then l.silence + n else l.silence := by
  unfold Lnc.advance
  split
  · next busy => rw [if_neg (by simp [busy])]
  · next quiet => rw [if_pos quiet]

theorem busySince_advance (l : Lnc) (n : Nat) : (l.advance n).busySince = l.busySince := by
  rw [lnc_advance_same]

theorem exec_startBitSeen (atStart : Bool) (s : State) : exec (.startBitSeen atStart) s = .next (s.startBitSeen atStart) := rfl

theorem startBitSeen_start (s : State) :
    (s.startBitSeen true).lnc = { s.lnc with busySince := some (s.lnc.busySince.getD s.clock.chars) } := by
  cases busy : s.lnc.busySince with
  | none => simp [State.startBitSeen, busy]
  | some since =>
    have stays : s.startBitSeen true = s := by simp [State.startBitSeen, busy]
    rw [stays, Option.getD_some, ← busy]

theorem startBitSeen_idle (s : State) :
    (s.startBitSeen false).lnc =
      if s.lnc.busySince = none ∨ s.lnc.driver = true then s.lnc
      else { s.lnc with busySince := none, held := false, silence := 0, quiet := none } := by
  cases busy : s.lnc.busySince with
  | none => simp [State.startBitSeen, busy]
  | some since =>
    simp only [State.startBitSeen, busy, reduceCtorEq, false_or]
    exact apply_ite State.lnc _ _ _

theorem exec_turnaroundGuardExpiry (s : State) : exec .turnaroundGuardExpiry s = .next s.guardExpiry := rfl

theorem guardExpiry_eq {s : State} {g : Nat} (guard : s.lnc.guardAt = some g) :
    s.guardExpiry = (s.reachChars g).setLnc
      { s.lnc.advance (g - s.clock.chars) with
        guardAt := none,
        quiet :=
          if s.lnc.busySince = none ∧ 3 ≤ (s.lnc.advance (g - s.clock.chars)).silence then
            some (max 3 ((s.lnc.advance (g - s.clock.chars)).silence - (s.clock.chars - g)))
          else none } := by
  have late : s.clock.chars + (g - s.clock.chars) - g = s.clock.chars - g := by omega
  rw [State.guardExpiry, guard]
  simp only [State.reachChars, advance_lnc, advance_chars, busySince_advance, late]

/-! ## Errors and the end of a frame (R108 to R112) -/

theorem lineError_lnc (s : State) (x : LineError) : (s.lineError x).lnc = { s.lnc with errors := s.lnc.errors.raise x } := by
  unfold State.lineError
  dsimp only
  split <;> simp

theorem lineError_lcp (s : State) (x : LineError) :
    (s.lineError x).lcp =
      if (s.lnc.errors.raise x).total % 64 = 0 then s.lcp.latched (.lineErrors (s.lnc.errors.raise x).total) else s.lcp := by
  unfold State.lineError
  dsimp only [State.setLnc_lnc]
  exact apply_ite State.lcp _ _ _

theorem lineError_tb (s : State) (x : LineError) : (s.lineError x).tb = s.tb := (frame_lineError s x).tb (by decide)

@[simp] theorem reportFrame_lnc (s : State) (f : Frame) : (s.reportFrame f).lnc = s.lnc := (frame_reportFrame s f).lnc (by decide)

@[simp] theorem reportFrame_lcp (s : State) (f : Frame) : (s.reportFrame f).lcp = s.lcp :=
  (frame_reportFrame s f).lcp (by decide) (by decide)

/-- The transcript builder with the horizon reported by a frame (R97, R109). -/
def Tb.reported (t : Tb) : Option Nat → Tb
  | some n => { t with horizon := max t.horizon n }
  | none => t

theorem reportFrame_tb (s : State) (f : Frame) : (s.reportFrame f).tb = s.tb.reported f.report := by
  unfold State.reportFrame
  cases f.report <;> rfl

section
variable {s : State} {a : Assembly} {f : Frame} {x : LineError}

theorem finishFrame_of_own (own : a.verdict = .own) : s.finishFrame a = s := by rw [State.finishFrame, own]

theorem finishFrame_of_bad (bad : a.verdict = .bad x) : s.finishFrame a = s.lineError x := by rw [State.finishFrame, bad]

theorem finishFrame_joins (good : a.verdict = .good f) (accepts : s.cfg.accepts f = true) (room : s.lnc.queue.length < 8) :
    s.finishFrame a = (s.reportFrame f).setLnc { s.lnc with queue := s.lnc.queue ++ [f] } := by
  simp only [State.finishFrame, good, accepts, if_true, State.enqueueFrame, reportFrame_lnc, if_pos room]

theorem finishFrame_overrun (good : a.verdict = .good f) (accepts : s.cfg.accepts f = true) (full : 8 ≤ s.lnc.queue.length) :
    s.finishFrame a = (s.reportFrame f).lineError .overrun := by
  simp only [State.finishFrame, good, accepts, if_true, State.enqueueFrame, reportFrame_lnc, if_neg (Nat.not_lt.2 full)]

theorem finishFrame_passes (good : a.verdict = .good f) (other : s.cfg.accepts f = false) : s.finishFrame a = s.reportFrame f := by
  simp only [State.finishFrame, good, other, Bool.false_eq_true, if_false]

/-- A good frame reports its line whoever it is for (R109). -/
theorem finishFrame_tb (good : a.verdict = .good f) : (s.finishFrame a).tb = s.tb.reported f.report := by
  cases accepts : s.cfg.accepts f with
  | false => rw [finishFrame_passes good accepts, reportFrame_tb]
  | true =>
    by_cases room : s.lnc.queue.length < 8
    · rw [finishFrame_joins good accepts room, State.setLnc_tb, reportFrame_tb]
    · rw [finishFrame_overrun good accepts (Nat.not_lt.1 room), lineError_tb, reportFrame_tb]

end

/-- Finishing a frame touches the receive queue and the error counts alone of the Line Controller. -/
theorem finishFrame_lnc (s : State) (a : Assembly) :
    (s.finishFrame a).lnc = { s.lnc with queue := (s.finishFrame a).lnc.queue, errors := (s.finishFrame a).lnc.errors } := by
  unfold State.finishFrame State.enqueueFrame
  split
  · rfl
  · rw [lineError_lnc]
  · split
    · split
      · simp
      · simp [lineError_lnc]
    · simp

/-! ## FRAME_END_BY_SILENCE -/

theorem exec_frameEndBySilence (s : State) : exec .frameEndBySilence s = .next s.frameEnd := rfl

/-- The state at silence 2, the frame in assembly taken out and the guard running to silence 4 (R106, R113). -/
def State.atFrameEnd (s : State) : State :=
  (s.advance (2 - s.lnc.silence)).setLnc
    { s.lnc.advance (2 - s.lnc.silence) with
      assembly := none, quiet := none, guardAt := some (s.clock.chars + (2 - s.lnc.silence) + (4 - max 2 s.lnc.silence)) }

theorem frameEnd_eq {s : State} {a : Assembly} (assembly : s.lnc.assembly = some a) (idle : s.lnc.busySince = none) :
    s.frameEnd = s.atFrameEnd.finishFrame a := by
  have silence : s.lnc.silence + (2 - s.lnc.silence) = max 2 s.lnc.silence := by omega
  simp only [State.frameEnd, assembly, idle, advance_lnc, advance_chars, silence_advance, if_true, silence, State.atFrameEnd]

theorem atFrameEnd_lnc {s : State} (idle : s.lnc.busySince = none) :
    s.atFrameEnd.lnc =
      { s.lnc with
        assembly := none, quiet := none, silence := max 2 s.lnc.silence,
        guardAt := some (s.clock.chars + (2 - s.lnc.silence) + (4 - max 2 s.lnc.silence)) } := by
  have silence : s.lnc.silence + (2 - s.lnc.silence) = max 2 s.lnc.silence := by omega
  rw [State.atFrameEnd, State.setLnc_lnc, lnc_advance_same]
  simp only [silence_advance, idle, if_true, silence]

theorem frame_atFrameEnd (s : State) : SameBut [.clock, .lnc, .sp] s s.atFrameEnd :=
  (frame_advance _ _).chain (frame_setLnc _ _) (by decide) (by decide)

end Sys2Proof.Machine

open Sys2Proof Sys2Proof.Machine

/-- Settles O12: the characters after the heading join one by one, none past the 363 kept (`foldl_join_sound`), and the two sums are below
255, so that a byte holds each. -/
theorem aFrameSentIsTheFrameReceived : Obligations.AFrameSentIsTheFrameReceived := by
  unfold Obligations.AFrameSentIsTheFrameReceived
  intro f whole fits
  refine ⟨_, chars_eq f, ?_, ?_⟩
  · intro c mem
    obtain ⟨b, -, rfl⟩ := List.mem_map.1 mem
    rfl
  · rw [assembled_of_chars fits, verdict_assembled whole fits]

/-- Settles O34: the start level on a quiet and on a busy line, and at a guard's expiry the silence of a line that is not busy. -/
theorem startBitsAndGuardsMoveTheQuietPoint : Obligations.StartBitsAndGuardsMoveTheQuietPoint := by
  unfold Obligations.StartBitsAndGuardsMoveTheQuietPoint
  refine ⟨fun s => ?_, fun s => ?_, fun s g guard => ?_⟩
  · exact ⟨_, exec_startBitSeen _ _, frame_startBitSeen _ _, startBitSeen_start s⟩
  · exact ⟨_, exec_startBitSeen _ _, frame_startBitSeen _ _, startBitSeen_idle s⟩
  · refine ⟨_, exec_turnaroundGuardExpiry s, frame_guardExpiry s, ?_⟩
    rw [guardExpiry_eq guard]
    refine ⟨?_, ?_, silence_advance _ _, rfl⟩
    · simp only [State.setLnc_clock, State.reachChars, advance_chars]
      omega
    · rw [State.setLnc_lnc, lnc_advance_same]

/-- Settles O35: at silence 2 the frame is finished by its verdict (`finishFrame_joins`, `finishFrame_overrun`, `finishFrame_passes`,
`finishFrame_of_bad`, `finishFrame_of_own`). -/
theorem anEndedFrameIsFinished : Obligations.AnEndedFrameIsFinished := by
  unfold Obligations.AnEndedFrameIsFinished
  refine ⟨fun s a assembly idle => ?_, fun f => ?_⟩
  · have began := frame_atFrameEnd s
    have lnc := atFrameEnd_lnc idle
    have tb : s.atFrameEnd.tb = s.tb := began.tb (by decide)
    have lcp : s.atFrameEnd.lcp = s.lcp := began.lcp (by decide) (by decide)
    have cfg : s.atFrameEnd.cfg = s.cfg := began.cfg (by decide)
    have finished := frame_finishFrame s.atFrameEnd a
    have clock : (s.atFrameEnd.finishFrame a).clock.chars = s.clock.chars + (2 - s.lnc.silence) :=
      congrArg Clock.chars (finished.clock (by decide))
    have kept := finishFrame_lnc s.atFrameEnd a
    rw [lnc] at kept
    refine ⟨_, (exec_frameEndBySilence s).trans (congrArg Host.Outcome.next (frameEnd_eq assembly idle)),
      began.chain finished (by decide) (by decide), clock, by rw [kept], by rw [kept], by rw [kept], by rw [kept, clock], ?_, ?_, ?_⟩
    · intro f good
      refine ⟨?_, fun accepts room => ?_, fun accepts full => ?_, fun other => ?_⟩
      · rw [finishFrame_tb good, tb]
        cases f.report <;> rfl
      · rw [finishFrame_joins good (cfg ▸ accepts) (by rwa [lnc])]
        simp [lnc, lcp]
      · rw [finishFrame_overrun good (cfg ▸ accepts) (by rwa [lnc]), lineError_lnc]
        simp [lnc]
      · rw [finishFrame_passes good (cfg ▸ other)]
        simp [lnc, lcp]
    · intro x bad
      rw [finishFrame_of_bad bad, lineError_lnc, lnc]
      refine ⟨(lineError_tb _ _).trans tb, rfl, rfl, fun due => ?_, fun other => ?_⟩
      · refine latched_of_lcp (e := .lineErrors (s.lnc.errors.raise x).total) ?_
        rw [lineError_lcp, lnc, lcp]
        exact if_pos due
      · rw [lineError_lcp, lnc, lcp]
        exact if_neg other
    · intro own
      rw [finishFrame_of_own own, lnc]
      exact ⟨tb, rfl, rfl, lcp⟩
  · refine ⟨fun kind => ?_, fun kind => ?_, fun kind => ?_, fun kind => ?_, fun kind => ?_⟩
    · rw [Frame.report, kind]
      rfl
    · rw [Frame.report, kind]
    · rw [Frame.report, kind]
    · rw [Frame.report, kind]
    · obtain kind | kind | kind | kind := kind <;> rw [Frame.report, kind]
end

section
/-! SUPPORT. The choice of the transmit slot and the start of its frame; with them O36. -/

namespace Sys2Proof.Machine

/-! ## What the choice tests (R115, R139) -/

theorem waitingIn_driving {α : Type} (x y : Source) (chars : List (Bool × Byte)) (sent : Nat) (queue : List α) :
    (Slot.driving x chars sent).waitingIn y queue = queue.drop (if x = y then 1 else 0) := by
  by_cases same : x = y <;> simp [Slot.waitingIn, Slot.inFlight, same]

theorem waitingAnswers_driving (x : Source) (chars : List (Bool × Byte)) (sent : Nat) (answers : List Answer) :
    (Slot.driving x chars sent).waitingAnswers answers = answers.filter fun a => decide (x ≠ .answer a.number) := by
  simp [Slot.waitingAnswers, Slot.inFlight]

theorem inFlight_of_free {slot : Slot} (free : slot.isDriving = false) : slot.inFlight = none := by
  cases slot with
  | empty => rfl
  | waiting x => rfl
  | driving x chars sent => cases free

theorem waitingIn_free {α : Type} {slot : Slot} (free : slot.isDriving = false) (x : Source) (queue : List α) :
    slot.waitingIn x queue = queue := by
  simp [Slot.waitingIn, inFlight_of_free free]

theorem waitingAnswers_free {slot : Slot} (free : slot.isDriving = false) (answers : List Answer) :
    slot.waitingAnswers answers = answers := by
  simp [Slot.waitingAnswers, inFlight_of_free free]

theorem choiceTests_iff (s : State) :
    s.choiceTests = true ↔
      s.cu.conflict = false ∧ s.lnc.slot.waitingIn .custody s.lnc.custodyList = [] ∧ s.pub.stationWaiting = none
      ∧ (s.lnc.slot.waitingIn .line s.pub.lineQueue ≠ []
        ∨ (s.lnc.slot.waitingIn .define s.pub.defines = []
          ∧ (s.lnc.slot.waitingAnswers s.pub.answers ≠ []
            ∨ (s.lnc.slot.waitingIn .ask s.vw.asks = [] ∧ s.pub.tailWaiting ≠ none)))) := by
  simp only [State.choiceTests, Bool.and_eq_true, Bool.or_eq_true, Bool.not_eq_true', List.isEmpty_iff, List.isEmpty_eq_false_iff,
    Option.isNone_iff_eq_none, Option.isSome_iff_ne_none, and_assoc]

/-! ## The slot chosen for a credit -/

theorem eligible_map {α : Type} (credit : Nat) (offer : Option α) (cost : α → Nat) :
    eligible credit (offer.map cost) = offer.any fun x => decide (cost x ≤ credit) := by
  cases offer <;> rfl

/-- The slot a choice makes where the credit is `credit` (R115, R121, R140). -/
def State.slotFor (s : State) (credit : Nat) : Slot :=
  if s.cu.conflict = true then (if s.pub.stationWaiting = none then .empty else .waiting .station)
  else if s.lnc.custodyList ≠ [] then .waiting .custody
  else if s.pub.stationWaiting ≠ none then .waiting .station
  else if (s.pub.lineQueue.head?.any fun e => decide ((e.frame s.cfg).body.length + 5 ≤ credit)) = true then .waiting .line
  else if s.pub.defines ≠ [] then .waiting .define
  else if (s.pub.answers.head?.any fun a => decide ((a.frame s.cfg).body.length + 5 ≤ credit)) = true then
    .waiting (.answer ((s.pub.answers.head?.map Answer.number).getD 0))
  else if s.vw.asks ≠ [] then .waiting .ask
  else if (s.pub.tailWaiting.any fun x => decide ((tailFrame s.cfg x).body.length + 5 ≤ credit)) = true then .waiting .tail
  else .empty

theorem slotOf_choice (s : State) : slotOf s.choice = s.slotFor s.pub.credit := by
  have line : eligible s.pub.credit s.lineCost =
      s.pub.lineQueue.head?.any fun e => decide ((e.frame s.cfg).body.length + 5 ≤ s.pub.credit) := eligible_map _ _ _
  have answer : eligible s.pub.credit s.answerCost =
      s.pub.answers.head?.any fun a => decide ((a.frame s.cfg).body.length + 5 ≤ s.pub.credit) := eligible_map _ _ _
  have tail : eligible s.pub.credit s.tailCost =
      s.pub.tailWaiting.any fun x => decide ((tailFrame s.cfg x).body.length + 5 ≤ s.pub.credit) := eligible_map _ _ _
  have number (other : Slot) :
      (if s.pub.answers.head?.any (fun a => decide ((a.frame s.cfg).body.length + 5 ≤ s.pub.credit)) = true then
        slotOf (s.answerHead.map fun a => .answer a.number) else other) =
      if s.pub.answers.head?.any (fun a => decide ((a.frame s.cfg).body.length + 5 ≤ s.pub.credit)) = true then
        .waiting (.answer ((s.pub.answers.head?.map Answer.number).getD 0)) else other := by
    unfold State.answerHead
    cases s.pub.answers.head? <;> rfl
  unfold State.choice State.slotFor
  rw [line, answer, tail]
  simp only [apply_ite slotOf, number, Option.isSome_iff_ne_none, Bool.not_eq_true', List.isEmpty_eq_false_iff, ne_eq, ite_not]
  rfl

/-- A choice that does not test the credit comes to the same for every credit. -/
theorem slotFor_untested {s : State} (free : s.lnc.slot.isDriving = false) (untested : ¬ s.choiceTests = true) (c d : Nat) :
    s.slotFor c = s.slotFor d := by
  simp only [choiceTests_iff, waitingIn_free free, waitingAnswers_free free] at untested
  unfold State.slotFor
  by_cases conflict : s.cu.conflict = true
  · rw [if_pos conflict, if_pos conflict]
  by_cases custody : s.lnc.custodyList = []
  case neg => simp only [conflict, custody, if_true, ne_eq, not_false_eq_true]
  by_cases station : s.pub.stationWaiting = none
  case neg => simp only [conflict, custody, station, if_true, if_false, ne_eq, not_false_eq_true, not_true_eq_false]
  have rest : s.pub.lineQueue = [] ∧ (s.pub.defines = [] → s.pub.answers = [] ∧ (s.vw.asks = [] → s.pub.tailWaiting = none)) := by
    simpa [conflict, custody, station] using untested
  obtain ⟨line, behind⟩ := rest
  by_cases define : s.pub.defines = []
  case neg => simp [line, define]
  obtain ⟨answers, last⟩ := behind define
  by_cases ask : s.vw.asks = []
  · simp [line, define, answers, ask, last ask]
  · simp [line, define, answers, ask]

/-! ## The choice (R115) -/

theorem choose_start {s : State} (start : s.online = false) : s.choose = s := by
  simp [State.choose, start]

/-- Where nothing is driven the slot is the one for the credit brought up to date. -/
theorem choose_free {s : State} (on : s.online = true) (free : s.lnc.slot.isDriving = false) :
    s.choose.lnc = { s.lnc with slot := s.slotFor s.updateCredit.pub.credit }
    ∧ s.choose.pub = if s.choiceTests = true then s.updateCredit.pub else s.pub := by
  unfold State.choose
  rw [if_pos on]
  by_cases tests : s.choiceTests = true
  · have chosen : slotOf s.updateCredit.choice = s.slotFor s.updateCredit.pub.credit := slotOf_choice s.updateCredit
    simp only [tests, if_true, updateCredit_lnc, free, Bool.false_eq_true, if_false, State.setLnc_lnc, State.setLnc_pub, chosen,
      and_self]
  · have chosen : slotOf s.choice = s.slotFor s.updateCredit.pub.credit := (slotOf_choice s).trans (slotFor_untested free tests _ _)
    simp only [tests, free, Bool.false_eq_true, if_false, State.setLnc_lnc, State.setLnc_pub, chosen, and_self]

/-! ## The start of a frame (R114, R117, R140) -/

theorem exec_transmitStart (s : State) : exec .transmitStart s = .next s.transmitStart := rfl

theorem charge_free {s : State} {x : Source} (f : Frame) (free : x.metered = false) : s.charge x f = s := by
  simp [State.charge, free]

theorem charge_metered {s : State} {x : Source} (f : Frame) (metered : x.metered = true) :
    s.charge x f = s.updateCredit.setPub { s.updateCredit.pub with credit := s.updateCredit.pub.credit - f.cost } := by
  simp [State.charge, metered]

theorem charge_credit (s : State) (x : Source) (f : Frame) : SameButCredit s.pub (s.charge x f).pub := by
  cases metered : x.metered with
  | true => rw [charge_metered f metered]; rfl
  | false => rw [charge_free f metered]; rfl

/-- A STATION or a TAIL that starts goes from its waiting place into flight; nothing else of the Publisher moves. -/
theorem takeOff_pub (s : State) (x : Source) :
    (s.takeOff x).pub =
      { s.pub with
        stationWaiting := if x = .station then none else s.pub.stationWaiting,
        stationInFlight := if x = .station then s.pub.stationWaiting else s.pub.stationInFlight,
        tailWaiting := if x = .tail then none else s.pub.tailWaiting,
        tailInFlight := if x = .tail then s.pub.tailWaiting else s.pub.tailInFlight } := by
  cases x <;> simp [State.takeOff]

theorem frameOf_advance (s : State) (n : Nat) (x : Source) : (s.advance n).frameOf x = s.frameOf x := by
  have list : (s.advance n).lnc.custodyList = s.lnc.custodyList := by rw [advance_lnc, lnc_advance_same]
  cases x with
  | custody => simp only [State.frameOf, list]
  | station | line | define | answer n | ask | tail => rfl

theorem clearToSend_idle {l : Lnc} (clear : l.clearToSend = true) : l.busySince = none := by
  simp only [Lnc.clearToSend, Bool.and_eq_true, Option.isNone_iff_eq_none] at clear
  exact clear.1.1

/-- The state in which the frame of the slot, from the source `x`, is driven from its first character. -/
def State.started (s : State) (x : Source) (f : Frame) : State := (s.advance (s.startSilence x - s.lnc.silence)).startDriving x f

theorem transmitStart_eq {s : State} {x : Source} {f : Frame} (slot : s.lnc.slot = .waiting x) (clear : s.lnc.clearToSend = true)
    (frame : s.frameOf x = some f) : s.transmitStart = (s.started x f).choose := by
  simp only [State.transmitStart, slot, clear, if_true, frameOf_advance, frame, State.started]

theorem started_lnc (s : State) (x : Source) (f : Frame) :
    (s.started x f).lnc =
      { s.lnc.advance (s.startSilence x - s.lnc.silence) with
        slot := .driving x f.chars 0, busySince := some (s.started x f).clock.chars, driver := true } := by
  have charged := (frame_charge (s.advance (s.startSilence x - s.lnc.silence)) x f).trans (frame_takeOff _ x)
  simp only [State.started, State.startDriving, State.setLnc_lnc, State.setLnc_clock, charged.lnc (by decide), advance_lnc]

theorem started_clock (s : State) (x : Source) (f : Frame) :
    (s.started x f).clock = (s.advance (s.startSilence x - s.lnc.silence)).clock :=
  (frame_startDriving _ _ _).clock (by decide)

theorem started_pub (s : State) (x : Source) (f : Frame) :
    (s.started x f).pub = (((s.advance (s.startSilence x - s.lnc.silence)).charge x f).takeOff x).pub := rfl

theorem frame_started (s : State) (x : Source) (f : Frame) : SameBut [.clock, .lnc, .sp, .pub] s (s.started x f) :=
  (frame_advance _ _).chain (frame_startDriving _ _ _) (by decide) (by decide)

end Sys2Proof.Machine

open Sys2Proof Sys2Proof.Machine

/-- Settles O36: the start pays and takes off its frame at its start silence; a choice takes the slot for the credit brought up to date
(`choose_free`), which only a choice that tests the credit depends on (`slotFor_untested`). -/
theorem aTransmitStartDrivesTheFrame : Obligations.ATransmitStartDrivesTheFrame := by
  unfold Obligations.ATransmitStartDrivesTheFrame
  refine ⟨?start, fun s => choose_start, ?driving, ?free⟩
  case start =>
    intro s x f slot clear frame
    have idle := clearToSend_idle clear
    have lnc := started_lnc s x f
    have clock : (s.started x f).clock.chars = s.clock.chars + (s.startSilence x - s.lnc.silence) :=
      congrArg Clock.chars (started_clock s x f)
    have silence : (s.started x f).lnc.silence = s.lnc.silence + (s.startSilence x - s.lnc.silence) := by
      rw [lnc, silence_advance, if_pos idle]
    have pub := started_pub s x f
    have charged := charge_credit (s.advance (s.startSilence x - s.lnc.silence)) x f
    rw [takeOff_pub] at pub
    rw [advance_pub] at charged
    rw [lnc_advance_same] at lnc
    refine ⟨_, (exec_transmitStart s).trans (congrArg Host.Outcome.next (transmitStart_eq slot clear frame)), frame_started s x f,
      ?_, ?_, by rw [lnc], by rw [lnc], by rw [lnc], by rw [lnc], by rw [lnc], ?_, ?_, ?_, ?_, ?_, ?_, ?_, fun free => ?_,
      fun metered => ?_⟩
    · rw [silence, State.startSilence]
      omega
    · omega
    · rw [pub, charged.lineQueue]
    · rw [pub, charged.answers]
    · rw [pub, charged.defines]
    · rw [pub, charged.stationWaiting]
    · rw [pub, charged.stationWaiting, charged.stationInFlight]
    · rw [pub, charged.tailWaiting]
    · rw [pub, charged.tailWaiting, charged.tailInFlight]
    · rw [pub, charge_free f free, advance_pub]
    · rw [pub, charge_metered f metered, started_clock]
      exact ⟨rfl, rfl⟩
  case driving =>
    intro s x chars sent upd on slot updated
    have tests := choiceTests_iff s
    rw [slot, waitingIn_driving, waitingIn_driving, waitingIn_driving, waitingIn_driving, waitingAnswers_driving] at tests
    rw [choose_driving s on (by rw [slot]; rfl), updated]
    exact if_congr tests rfl rfl
  case free =>
    intro s upd on free updated
    have tests := choiceTests_iff s
    simp only [waitingIn_free free, waitingAnswers_free free] at tests
    obtain ⟨lnc, pub⟩ := choose_free on free
    refine ⟨(frame_choose s).mono (by decide), ?_, ?_⟩
    · rw [lnc, updated]
      rfl
    · rw [pub, updated]
      exact if_congr tests rfl rfl
end

section
/-! SUPPORT. A character read: its end on the line, the echo compare and the assembly; with them O32 and O33. -/

namespace Sys2Proof.Machine

/-! ## The end of a character (R105) -/

theorem characterEnd_line (s : State) (ok : Bool) :
    (s.characterEnd ok).lnc =
      { s.lnc with
        busySince := if ok = true then none else some (s.characterEnd ok).clock.chars, held := !ok, driver := false, silence := 0,
        quiet := none } := by
  unfold State.characterEnd
  dsimp only
  split
  · split
    · rfl
    · rw [State.setLnc_lnc, State.reachChars, advance_lnc, lnc_advance_same]
      rfl
  · rfl

/-! ## The assembly (R106) -/

/-- A character changes the assembly, the receive queue and the error counts alone of the Line Controller. -/
theorem assemble_lnc (s : State) (h : Bool) (b : Byte) (ok : Bool) :
    (s.assemble h b ok).lnc =
      { s.lnc with
        assembly := (s.assemble h b ok).lnc.assembly, queue := (s.assemble h b ok).lnc.queue,
        errors := (s.assemble h b ok).lnc.errors } := by
  unfold State.assemble
  split
  · split <;> rfl
  · split
    · rw [finishFrame_lnc]
      rfl
    · rfl

/-- The state in which a sound heading `b` has opened the next frame. -/
def State.headed (s : State) (b : Byte) : State :=
  s.setLnc { s.lnc with assembly := some (Assembly.start b false s.lnc.slot.isDriving) }

section
variable {s : State} {a : Assembly} {h ok : Bool} {b : Byte}

theorem assemble_nothing (none : s.lnc.assembly = none) : s.assemble false b ok = s := by
  simp [State.assemble, none]

theorem assemble_opens (none : s.lnc.assembly = none) :
    s.assemble true b ok = s.setLnc { s.lnc with assembly := some (Assembly.start b (!ok) s.lnc.slot.isDriving) } := by
  simp [State.assemble, none]

/-- A character that is no sound heading joins the frame in assembly, damaged or not (log 21). -/
theorem assemble_joins (assembly : s.lnc.assembly = some a) (plain : h = false ∨ ok = false) :
    s.assemble h b ok = s.setLnc { s.lnc with assembly := some (a.join b (!ok)) } := by
  have joins : (h && ok) = false := Bool.and_eq_false_iff.2 plain
  simp [State.assemble, assembly, joins]

/-- A sound heading ends the frame in assembly and opens the next. -/
theorem assemble_ends (assembly : s.lnc.assembly = some a) : s.assemble true b true = (s.headed b).finishFrame a := by
  simp [State.assemble, assembly, State.headed]

/-- What a sound heading makes of the frame before it, by its verdict (R108, R110). -/
theorem assemble_verdict (assembly : s.lnc.assembly = some a) :
    (s.assemble true b true).lnc.assembly = some (Assembly.start b false s.lnc.slot.isDriving)
    ∧ (∀ f, a.verdict = .good f → s.cfg.accepts f = true → s.lnc.queue.length < 8 →
        (s.assemble true b true).lnc.queue = s.lnc.queue ++ [f])
    ∧ (∀ f, a.verdict = .good f → s.cfg.accepts f = false →
        (s.assemble true b true).lnc.queue = s.lnc.queue ∧ (s.assemble true b true).lnc.errors = s.lnc.errors)
    ∧ (∀ x, a.verdict = .bad x →
        (s.assemble true b true).lnc.queue = s.lnc.queue ∧ (s.assemble true b true).lnc.errors = s.lnc.errors.raise x)
    ∧ (a.verdict = .own →
        (s.assemble true b true).lnc.queue = s.lnc.queue ∧ (s.assemble true b true).lnc.errors = s.lnc.errors) := by
  rw [assemble_ends assembly]
  refine ⟨by rw [finishFrame_lnc]; rfl, fun f good accepts room => ?_, fun f good other => ?_, fun x bad => ?_, fun own => ?_⟩
  · rw [finishFrame_joins (s := s.headed b) good accepts room]
    rfl
  · rw [finishFrame_passes (s := s.headed b) good other, reportFrame_lnc]
    exact ⟨rfl, rfl⟩
  · rw [finishFrame_of_bad bad, lineError_lnc]
    exact ⟨rfl, rfl⟩
  · rw [finishFrame_of_own own]
    exact ⟨rfl, rfl⟩

end

/-! ## A character received -/

theorem exec_characterReceived (h : Bool) (b : Byte) (ok : Bool) (s : State) :
    exec (.characterReceived h b ok) s = .next (s.characterReceived h b ok) := rfl

theorem choose_lnc (s : State) : s.choose.lnc = { s.lnc with slot := s.choose.lnc.slot } := choose_slot s

section
variable {s : State} (h : Bool) (b : Byte) (ok : Bool)

theorem characterReceived_start (start : s.online = false) : s.characterReceived h b ok = s.characterEnd ok := by
  have off : (s.characterEnd ok).online = false := ((frame_characterEnd s ok).online (by decide)).trans start
  simp [State.characterReceived, off]

/-- A character read ONLINE, with what the echo compare made of it. -/
theorem characterReceived_online (on : s.online = true) {e : State} (echo : (s.characterEnd ok).echo h b ok = e) :
    s.characterReceived h b ok = if e.lnc.slot.isDriving = true then e.assemble h b ok else (e.assemble h b ok).choose := by
  have online : (s.characterEnd ok).online = true := ((frame_characterEnd s ok).online (by decide)).trans on
  have slot : (e.assemble h b ok).lnc.slot = e.lnc.slot := by rw [assemble_lnc]
  simp only [State.characterReceived, online, if_true, echo, slot]

theorem echo_free (free : s.lnc.slot.isDriving = false) : s.echo h b ok = s := by
  unfold State.echo
  split
  · next driving => simp [driving, Slot.isDriving] at free
  · rfl

/-- While nothing is driven a character is assembled, and the slot chooses again. -/
theorem characterReceived_free (on : s.online = true) (free : s.lnc.slot.isDriving = false) :
    s.characterReceived h b ok = ((s.characterEnd ok).assemble h b ok).choose := by
  have slot : (s.characterEnd ok).lnc.slot.isDriving = false := by rw [characterEnd_line]; exact free
  rw [characterReceived_online h b ok on (echo_free h b ok slot), slot]
  rfl

end

end Sys2Proof.Machine

open Sys2Proof Sys2Proof.Machine

/-- Settles O32: in START the character only ends on the line; ONLINE it is assembled (`assemble_nothing`, `assemble_opens`,
`assemble_joins`, `assemble_verdict`), and the choice after it moves the slot and the credit alone. -/
theorem charactersAssembleToFrames : Obligations.CharactersAssembleToFrames := by
  unfold Obligations.CharactersAssembleToFrames
  intro h b ok s free
  have ended := characterEnd_line s ok
  refine ⟨_, exec_characterReceived h b ok s, ?_⟩
  cases on : s.online with
  | false =>
    rw [characterReceived_start h b ok on, ended]
    have same := frame_characterEnd s ok
    refine ⟨same.mono (by decide), ?_, rfl, rfl, rfl, rfl, fun _ => ⟨rfl, rfl, same.tb (by decide)⟩, nofun, nofun, nofun, nofun⟩
    rw [same.pub (by decide)]
    rfl
  | true =>
    have tb : (s.characterEnd ok).tb = s.tb := (frame_characterEnd s ok).tb (by decide)
    have cfg : (s.characterEnd ok).cfg = s.cfg := (frame_characterEnd s ok).cfg (by decide)
    have assembled := frame_assemble (s.characterEnd ok) h b ok
    have pub : ((s.characterEnd ok).assemble h b ok).pub = s.pub :=
      (assembled.pub (by decide)).trans ((frame_characterEnd s ok).pub (by decide))
    have clock : ((s.characterEnd ok).assemble h b ok).choose.clock = (s.characterEnd ok).clock :=
      (choose_clock _).trans (assembled.clock (by decide))
    have lnc := assemble_lnc (s.characterEnd ok) h b ok
    rw [ended] at lnc
    have slot : (s.characterEnd ok).lnc.slot.isDriving = false := by rw [ended]; exact free
    have assembly : (s.characterEnd ok).lnc.assembly = s.lnc.assembly := by rw [ended]
    rw [characterReceived_free h b ok on free, choose_lnc, choose_tb]
    refine ⟨?_, ?_, by rw [lnc], by rw [lnc, clock], by rw [lnc], by rw [lnc], nofun, ?_, ?_, ?_, ?_⟩
    · refine SameBut.chain (xs := [.clock, .lnc, .sp, .tb, .latches]) ?_ (frame_choose _) (by decide) (by decide)
      exact (frame_characterEnd s ok).chain assembled (by decide) (by decide)
    · exact pub ▸ choose_credit _
    · rintro - none rfl
      rw [assemble_nothing (assembly.trans none), ended]
      exact ⟨none, rfl, tb, rfl⟩
    · rintro - none rfl
      rw [assemble_opens (assembly.trans none), slot, ended]
      exact ⟨rfl, rfl, tb, rfl⟩
    · rintro - a some plain
      rw [assemble_joins (assembly.trans some) plain, ended]
      exact ⟨rfl, rfl, tb, rfl⟩
    · rintro - a some rfl rfl
      obtain ⟨opens, joins, passes, counted, own⟩ := assemble_verdict (b := b) (assembly.trans some)
      rw [slot] at opens
      rw [cfg, ended] at joins
      rw [cfg, ended] at passes
      rw [ended] at counted own
      exact ⟨opens, joins, passes, counted, own⟩
end

section
/-! SUPPORT. The echo compare while driving: the character sent, the frame sent, and the attempt aborted; with them O33. -/

namespace Sys2Proof.Machine

/-! ## A frame that leaves its source (R118, R120) -/

theorem removeSource_lnc (s : State) (x : Source) :
    (s.removeSource x).lnc =
      { s.lnc with custodyList := if x = .custody then s.lnc.custodyList.drop 1 else s.lnc.custodyList } := by
  cases x <;> simp [State.removeSource]

theorem removeSource_vw (s : State) (x : Source) :
    (s.removeSource x).vw = if x = .ask then { s.vw with asks := s.vw.asks.drop 1 } else s.vw := by
  cases x <;> simp [State.removeSource]

theorem dropFrame_lnc (s : State) (x : Source) :
    (s.dropFrame x).lnc = { (s.removeSource x).lnc with txDropped := satSucc s.lnc.txDropped } := by
  simp only [State.dropFrame, State.setLnc_lnc, removeSource_lnc]

theorem retryOrDrop_again {n : Nat} (few : n < 5) (again dropped : State) : retryOrDrop (n + 1) again dropped = again :=
  if_pos (by omega)

theorem retryOrDrop_sixth {n : Nat} (many : 5 ≤ n) (again dropped : State) : retryOrDrop (n + 1) again dropped = dropped :=
  if_neg (by omega)

/-! ## The end of an attempt (R119, R120) -/

/-- `t` is `s` with the attempt at the frame of `x` ended: but for that source, the counts and the places of its frames, the Line
Controller, the Viewer and the credit are as they were. -/
def AttemptEnds (x : Source) (s t : State) : Prop :=
  t.lnc = { s.lnc with custodyList := t.lnc.custodyList, txDropped := t.lnc.txDropped }
  ∧ (x ≠ .custody → t.lnc.custodyList = s.lnc.custodyList) ∧ (x ≠ .ask → t.vw = s.vw)
  ∧ t.pub.credit = s.pub.credit ∧ t.pub.remainder = s.pub.remainder ∧ t.pub.creditMark = s.pub.creditMark

section
variable {x : Source} {s t u : State}

theorem attemptEnds_removeSource (s : State) (x : Source) : AttemptEnds x s (s.removeSource x) := by
  refine ⟨by rw [removeSource_lnc], fun other => ?_, fun other => ?_, ?_⟩
  · rw [removeSource_lnc, if_neg other]
  · rw [removeSource_vw, if_neg other]
  · cases x <;> exact ⟨rfl, rfl, rfl⟩

theorem attemptEnds_dropFrame (s : State) (x : Source) : AttemptEnds x s (s.dropFrame x) := by
  obtain ⟨lnc, custody, others⟩ := attemptEnds_removeSource s x
  refine ⟨?_, fun other => ?_, others⟩
  · rw [dropFrame_lnc, lnc]
  · rw [dropFrame_lnc]
    exact custody other

theorem AttemptEnds.retryOrDrop (n : Nat) (again : AttemptEnds x s t) (dropped : AttemptEnds x s u) :
    AttemptEnds x s (retryOrDrop n t u) := by
  unfold Machine.retryOrDrop
  split
  · exact again
  · exact dropped

theorem attemptEnds_afterAbort (s : State) (x : Source) : AttemptEnds x s (s.afterAbort x) := by
  have dropped := attemptEnds_dropFrame s x
  cases x with
  | custody => exact ⟨rfl, fun other => absurd rfl other, fun _ => rfl, rfl, rfl, rfl⟩
  | station | line | define | answer n =>
    exact AttemptEnds.retryOrDrop _ ⟨rfl, fun _ => rfl, fun _ => rfl, rfl, rfl, rfl⟩ dropped
  | ask => exact AttemptEnds.retryOrDrop _ ⟨rfl, fun _ => rfl, fun other => absurd rfl other, rfl, rfl, rfl⟩ dropped
  | tail =>
    unfold State.afterAbort
    dsimp only
    split
    · exact ⟨rfl, fun _ => rfl, fun _ => rfl, rfl, rfl, rfl⟩
    · split
      · exact attemptEnds_removeSource s .tail
      · exact AttemptEnds.retryOrDrop _ ⟨rfl, fun _ => rfl, fun _ => rfl, rfl, rfl, rfl⟩ dropped

/-- A frame with `n` earlier aborts is tried again as `again` says, or leaves its source and is counted (R120). -/
theorem triedOrDropped_retryOrDrop {n : Nat} {again : State} {kept gone : Prop} (lnc : again.lnc = s.lnc)
    (ends : u.lnc.txDropped = (retryOrDrop (n + 1) again (s.dropFrame x)).lnc.txDropped)
    (retried : retryOrDrop (n + 1) again (s.dropFrame x) = again → kept)
    (dropped : retryOrDrop (n + 1) again (s.dropFrame x) = s.dropFrame x → gone) : TriedOrDropped s u n kept gone := by
  refine ⟨fun few => ⟨retried (retryOrDrop_again few _ _), ?_⟩, fun many => ⟨dropped (retryOrDrop_sixth many _ _), ?_⟩⟩
  · rw [ends, retryOrDrop_again few, lnc]
  · rw [ends, retryOrDrop_sixth many, dropFrame_lnc]

end

/-! ## The refund (R141) -/

/-- The credit and its remainder with `back` handed to `upd`, 800 at most. -/
def refunded (upd : Nat × Nat) (back : Nat) : Nat × Nat := if 800 < upd.1 + back then (800, 0) else (upd.1 + back, upd.2)

/-- The credit and its remainder brought up to date (R139). -/
def State.creditNow (s : State) : Nat × Nat :=
  creditAfter s.pub.credit s.pub.remainder s.pub.share (s.clock.chars - s.pub.creditMark)

theorem refund_pub (s : State) (n : Nat) :
    (s.refund n).pub =
      { s.pub with
        credit := (refunded s.creditNow n).1, remainder := (refunded s.creditNow n).2, creditMark := s.clock.chars } := by
  by_cases above : 800 < s.creditNow.1 + n
  · have amount : refunded s.creditNow n = (800, 0) := if_pos above
    rw [amount]
    exact congrArg State.pub (if_pos above)
  · have amount : refunded s.creditNow n = (s.creditNow.1 + n, s.creditNow.2) := if_neg above
    rw [amount]
    exact congrArg State.pub (if_neg above)

theorem refundUnsent_free {s : State} {x : Source} (chars sent : Nat) (free : x.metered = false) : s.refundUnsent x chars sent = s := by
  simp [State.refundUnsent, free]

theorem refundUnsent_metered {s : State} {x : Source} (chars sent : Nat) (metered : x.metered = true) :
    s.refundUnsent x chars sent = s.refund (chars + 2 - sent) := by
  simp [State.refundUnsent, metered]

theorem refundUnsent_credit (s : State) (x : Source) (chars sent : Nat) : SameButCredit s.pub (s.refundUnsent x chars sent).pub := by
  cases metered : x.metered with
  | false => rw [refundUnsent_free _ _ metered]; rfl
  | true => rw [refundUnsent_metered _ _ metered, refund_pub]; rfl

/-! ## The echo compare -/

section
variable {s : State} {h ok : Bool} {b : Byte} {x : Source} {chars : List (Bool × Byte)} {sent : Nat}

theorem echo_goes_on (slot : s.lnc.slot = .driving x chars sent) (same : ok = true ∧ chars[sent]? = some (h, b))
    (more : sent + 1 < chars.length) :
    s.echo h b ok =
      s.setLnc { s.lnc with slot := .driving x chars (sent + 1), busySince := some s.clock.chars, driver := true } := by
  simp only [State.echo, slot, if_pos same, if_pos more]

theorem echo_completes (slot : s.lnc.slot = .driving x chars sent) (same : ok = true ∧ chars[sent]? = some (h, b))
    (last : chars.length ≤ sent + 1) : s.echo h b ok = (s.setLnc { s.lnc with slot := .empty }).removeSource x := by
  simp only [State.echo, slot, if_pos same, if_neg (Nat.not_lt.2 last)]

/-- The state in which an attempt at a frame of `x` has stopped, `sent` of its characters being sent, and what is not sent is handed
back (R119, R141). -/
def State.stopped (s : State) (x : Source) (chars sent : Nat) : State :=
  (s.setLnc { s.lnc.stopDriving with aborted := satSucc s.lnc.aborted }).refundUnsent x chars sent

theorem echo_aborts (slot : s.lnc.slot = .driving x chars sent) (other : ¬ (ok = true ∧ chars[sent]? = some (h, b))) :
    s.echo h b ok = (s.stopped x chars.length (sent + 1)).afterAbort x := by
  simp only [State.echo, slot, if_neg other, State.abortAttempt, State.stopped]

theorem stopped_lnc (s : State) (x : Source) (chars sent : Nat) :
    (s.stopped x chars sent).lnc = { s.lnc.stopDriving with aborted := satSucc s.lnc.aborted } :=
  (frame_refundUnsent _ _ _ _).lnc (by decide)

theorem frame_stopped (s : State) (x : Source) (chars sent : Nat) : SameBut [.lnc, .pub] s (s.stopped x chars sent) :=
  (frame_setLnc _ _).chain (frame_refundUnsent _ _ _ _) (by decide) (by decide)

theorem stopped_credit (s : State) (x : Source) (chars sent : Nat) : SameButCredit s.pub (s.stopped x chars sent).pub :=
  refundUnsent_credit (s.setLnc _) x chars sent

theorem stopped_free {x : Source} (s : State) (chars sent : Nat) (free : x.metered = false) : (s.stopped x chars sent).pub = s.pub := by
  rw [State.stopped, refundUnsent_free _ _ free, State.setLnc_pub]

end

/-! ## What follows an abort, source by source (R120, R129) -/

section
variable {s t u : State} {n : Nat}

/-- `u` has what the abort of a frame of `x` in `t` left of the sources, `t` standing for `s` with the attempt stopped. -/
structure Aborted (s t u : State) (x : Source) : Prop where
  credit : SameButCredit s.pub t.pub
  dropped : t.lnc.txDropped = s.lnc.txDropped
  custody : t.lnc.custodyList = s.lnc.custodyList
  viewer : t.vw = s.vw
  allowed : t.tailsAllowed = s.tailsAllowed
  pub : u.pub = (t.afterAbort x).pub
  list : u.lnc.custodyList = (t.afterAbort x).lnc.custodyList
  count : u.lnc.txDropped = (t.afterAbort x).lnc.txDropped
  vw : u.vw = (t.afterAbort x).vw

/-- A frame with a rule of its own is none of these: it is tried again as `again` says, or dropped. -/
theorem Aborted.tried {x : Source} {again : State} {kept gone : Prop} (h : Aborted s t u x)
    (rule : t.afterAbort x = retryOrDrop (n + 1) again (t.dropFrame x)) (lnc : again.lnc = t.lnc)
    (retried : t.afterAbort x = again → kept) (dropped : t.afterAbort x = t.dropFrame x → gone) : TriedOrDropped s u n kept gone := by
  have count := h.count
  rw [rule] at count retried dropped
  obtain ⟨few, many⟩ := triedOrDropped_retryOrDrop (s := t) lnc count retried dropped
  rw [h.dropped] at few many
  exact ⟨few, many⟩

theorem Aborted.custody_rule (h : Aborted s t u .custody) (free : t.pub = s.pub) :
    u.pub = s.pub ∧ u.lnc.txDropped = s.lnc.txDropped
    ∧ ∀ e es, s.lnc.custodyList = e :: es → u.lnc.custodyList = { e with attempts := min 6 (e.attempts + 1) } :: es := by
  refine ⟨h.pub.trans free, h.count.trans h.dropped, fun e es list => ?_⟩
  rw [h.list, State.afterAbort, State.setLnc_lnc, h.custody, list, mapHead]

theorem Aborted.station_rule (h : Aborted s t u .station) (free : t.pub = s.pub) (flight : s.pub.stationInFlight = some n) :
    TriedOrDropped s u n (u.pub = { s.pub with stationInFlight := none, stationWaiting := some (n + 1) })
      (u.pub = { s.pub with stationInFlight := none }) := by
  have rule : t.afterAbort .station =
      retryOrDrop (n + 1) (t.setPub { t.pub with stationInFlight := none, stationWaiting := some (n + 1) }) (t.dropFrame .station) := by
    rw [State.afterAbort, free, flight, Option.getD_some]
  refine h.tried rule rfl (fun again => ?_) fun dropped => ?_
  · rw [h.pub, again, State.setPub_pub, free]
  · rw [h.pub, dropped, ← free]
    rfl

theorem Aborted.line_rule (h : Aborted s t u .line) {e : LineEntry} {es : List LineEntry} (queue : s.pub.lineQueue = e :: es) :
    TriedOrDropped s u e.attempts (SameButCredit { s.pub with lineQueue := { e with attempts := e.attempts + 1 } :: es } u.pub)
      (SameButCredit { s.pub with lineQueue := es } u.pub) := by
  have same := h.credit
  have stays : t.pub.lineQueue = e :: es := same.lineQueue.trans queue
  have rule : t.afterAbort .line =
      retryOrDrop (e.attempts + 1) (t.setPub { t.pub with lineQueue := { e with attempts := e.attempts + 1 } :: es })
        (t.dropFrame .line) := by
    rw [State.afterAbort, State.lineHead, stays]
    rfl
  refine h.tried rule rfl (fun again => ?_) fun dropped => ?_
  · rw [h.pub, again, State.setPub_pub, same]
    rfl
  · have left : (t.dropFrame .line).pub = { t.pub with lineQueue := es } := by
      rw [show es = t.pub.lineQueue.drop 1 by rw [stays]; rfl]
      rfl
    rw [h.pub, dropped, left, same]
    rfl

theorem Aborted.define_rule (h : Aborted s t u .define) (free : t.pub = s.pub) {e : DefineSend} {es : List DefineSend}
    (list : s.pub.defines = e :: es) :
    TriedOrDropped s u e.attempts (u.pub = { s.pub with defines := { e with attempts := e.attempts + 1 } :: es })
      (u.pub = { s.pub with defines := es }) := by
  have rule : t.afterAbort .define =
      retryOrDrop (e.attempts + 1) (t.setPub { t.pub with defines := { e with attempts := e.attempts + 1 } :: es })
        (t.dropFrame .define) := by
    rw [State.afterAbort, free, list]
    rfl
  refine h.tried rule rfl (fun again => ?_) fun dropped => ?_
  · rw [h.pub, again, State.setPub_pub, free]
  · rw [h.pub, dropped, show es = s.pub.defines.drop 1 by rw [list]; rfl, ← free]
    rfl

theorem Aborted.answer_rule {k : Nat} (h : Aborted s t u (.answer k)) {e : Answer}
    (found : s.pub.answers.find? (fun y => decide (y.number = k)) = some e) :
    TriedOrDropped s u e.attempts
      (SameButCredit
        { s.pub with answers := s.pub.answers.map fun y => if y.number = k then { y with attempts := e.attempts + 1 } else y } u.pub)
      (SameButCredit { s.pub with answers := s.pub.answers.filter fun y => decide (y.number ≠ k) } u.pub) := by
  have same := h.credit
  have attempts : t.attemptsOf (.answer k) = e.attempts := by
    rw [State.attemptsOf, same.answers, found]
    rfl
  have rule : t.afterAbort (.answer k) =
      retryOrDrop (e.attempts + 1)
        (t.setPub
          { t.pub with answers := t.pub.answers.map fun y => if y.number = k then { y with attempts := e.attempts + 1 } else y })
        (t.dropFrame (.answer k)) := by
    rw [State.afterAbort, attempts]
  refine h.tried rule rfl (fun again => ?_) fun dropped => ?_
  · rw [h.pub, again, State.setPub_pub, same]
    rfl
  · have left : (t.dropFrame (.answer k)).pub =
        { t.pub with answers := t.pub.answers.filter fun y => decide (y.number ≠ k) } := rfl
    rw [h.pub, dropped, left, same]
    rfl

theorem Aborted.ask_rule (h : Aborted s t u .ask) {e : Ask} {es : List Ask} (list : s.vw.asks = e :: es) :
    TriedOrDropped s u e.attempts (u.vw = { s.vw with asks := { e with attempts := e.attempts + 1 } :: es })
      (u.vw = { s.vw with asks := es }) := by
  have rule : t.afterAbort .ask =
      retryOrDrop (e.attempts + 1) (t.setVw { t.vw with asks := { e with attempts := e.attempts + 1 } :: es })
        (t.dropFrame .ask) := by
    rw [State.afterAbort, h.viewer, list]
    rfl
  refine h.tried rule rfl (fun again => ?_) fun dropped => ?_
  · rw [h.vw, again, State.setVw_vw, h.viewer]
  · rw [h.vw, dropped, show es = s.vw.asks.drop 1 by rw [list]; rfl, ← h.viewer]
    rfl

theorem afterAbort_ask_pub (s : State) : (s.afterAbort .ask).pub = s.pub := by
  unfold State.afterAbort retryOrDrop
  dsimp only
  split <;> rfl

theorem Aborted.tail_rule (h : Aborted s t u .tail) {e : TailImage} (flight : s.pub.tailInFlight = some e) :
    ((s.pub.tailWaiting ≠ none ∨ s.tailsAllowed = false) →
      SameButCredit { s.pub with tailInFlight := none } u.pub ∧ u.lnc.txDropped = s.lnc.txDropped)
    ∧ (s.pub.tailWaiting = none → s.tailsAllowed = true →
      TriedOrDropped s u e.attempts
        (SameButCredit { s.pub with tailInFlight := none, tailWaiting := some { e with attempts := e.attempts + 1 } } u.pub)
        (SameButCredit { s.pub with tailInFlight := none } u.pub)) := by
  have same := h.credit
  have there : t.pub.tailInFlight = some e := same.tailInFlight.trans flight
  have waiting := same.tailWaiting
  have allowed := h.allowed
  refine ⟨fun discarded => ?_, fun empty may => ?_⟩
  · have rule : t.afterAbort .tail = t.removeSource .tail := by
      have stops : (t.pub.tailWaiting.isSome || !t.tailsAllowed) = true := by
        rw [waiting, allowed, Bool.or_eq_true, Option.isSome_iff_ne_none, Bool.not_eq_true']
        exact discarded
      simp only [State.afterAbort, there, stops, if_true]
    refine ⟨?_, ?_⟩
    · rw [h.pub, rule, State.removeSource, State.setPub_pub, same]
      rfl
    · rw [h.count, rule, ← h.dropped]
      rfl
  · have rule : t.afterAbort .tail =
        retryOrDrop (e.attempts + 1)
          (t.setPub { t.pub with tailInFlight := none, tailWaiting := some { e with attempts := e.attempts + 1 } })
          (t.dropFrame .tail) := by
      simp only [State.afterAbort, there, waiting, empty, allowed, may, Option.isSome_none, Bool.not_true, Bool.or_self,
        Bool.false_eq_true, if_false]
    refine h.tried rule rfl (fun again => ?_) fun dropped => ?_
    · rw [h.pub, again, State.setPub_pub, same]
      rfl
    · have left : (t.dropFrame .tail).pub = { t.pub with tailInFlight := none } := rfl
      rw [h.pub, dropped, left, same]
      rfl

end

/-! ## A character read while driving -/

section
variable {s : State} {h ok : Bool} {b : Byte} {x : Source} {chars : List (Bool × Byte)} {sent : Nat}

theorem characterEnd_slot (s : State) (ok : Bool) : (s.characterEnd ok).lnc.slot = s.lnc.slot := by rw [characterEnd_line]

/-- The state after one more character has been read back, the next one going out. -/
def State.sentOne (s : State) (x : Source) (chars : List (Bool × Byte)) (sent : Nat) (h : Bool) (b : Byte) (ok : Bool) : State :=
  ((s.characterEnd ok).setLnc
    { (s.characterEnd ok).lnc with
      slot := .driving x chars (sent + 1), busySince := some (s.characterEnd ok).clock.chars, driver := true }).assemble h b ok

theorem characterReceived_goes_on (on : s.online = true) (slot : s.lnc.slot = .driving x chars sent)
    (same : ok = true ∧ chars[sent]? = some (h, b)) (more : sent + 1 < chars.length) :
    s.characterReceived h b ok = s.sentOne x chars sent h b ok := by
  rw [characterReceived_online h b ok on (echo_goes_on ((characterEnd_slot s ok).trans slot) same more)]
  rfl

theorem frame_endedWith (s : State) (ok : Bool) (l : Lnc) : SameBut [.clock, .lnc, .sp] s ((s.characterEnd ok).setLnc l) :=
  (frame_characterEnd s ok).chain (frame_setLnc _ l) (by decide) (by decide)

theorem frame_sentOne (s : State) (x : Source) (chars : List (Bool × Byte)) (sent : Nat) (h : Bool) (b : Byte) (ok : Bool) :
    SameBut [.clock, .lnc, .sp, .tb, .latches] s (s.sentOne x chars sent h b ok) :=
  (frame_endedWith s ok _).chain (frame_assemble _ h b ok) (by decide) (by decide)

/-- The state after a frame has been read back whole: its source has let it go, and its last character is assembled. -/
def State.sentWhole (s : State) (x : Source) (h : Bool) (b : Byte) (ok : Bool) : State :=
  (((s.characterEnd ok).setLnc { (s.characterEnd ok).lnc with slot := .empty }).removeSource x).assemble h b ok

theorem characterReceived_completes (on : s.online = true) (slot : s.lnc.slot = .driving x chars sent)
    (same : ok = true ∧ chars[sent]? = some (h, b)) (last : chars.length ≤ sent + 1) :
    s.characterReceived h b ok = (s.sentWhole x h b ok).choose := by
  rw [characterReceived_online h b ok on (echo_completes ((characterEnd_slot s ok).trans slot) same last), removeSource_lnc]
  rfl

theorem frame_sentWhole (s : State) (x : Source) (h : Bool) (b : Byte) (ok : Bool) :
    SameBut [.clock, .lnc, .sp, .tb, .latches, .pub, .vw] s (s.sentWhole x h b ok) := by
  refine SameBut.chain (xs := [.clock, .lnc, .sp, .pub, .vw]) ?_ (frame_assemble _ h b ok) (by decide) (by decide)
  exact (frame_endedWith s ok _).chain (frame_removeSource _ x) (by decide) (by decide)

/-- The state after an attempt at a frame of `x` has failed at the character `b`, which is then assembled. -/
def State.mismatched (s : State) (x : Source) (chars sent : Nat) (h : Bool) (b : Byte) (ok : Bool) : State :=
  (((s.characterEnd ok).stopped x chars (sent + 1)).afterAbort x).assemble h b ok

theorem frame_mismatched (s : State) (x : Source) (chars sent : Nat) (h : Bool) (b : Byte) (ok : Bool) :
    SameBut [.clock, .lnc, .sp, .tb, .latches, .pub, .vw] s (s.mismatched x chars sent h b ok) := by
  refine SameBut.chain (xs := [.clock, .lnc, .sp, .pub, .vw]) ?_ (frame_assemble _ h b ok) (by decide) (by decide)
  refine SameBut.chain (xs := [.clock, .lnc, .sp, .pub]) ?_ (frame_afterAbort _ x) (by decide) (by decide)
  exact (frame_characterEnd s ok).chain (frame_stopped _ x chars (sent + 1)) (by decide) (by decide)

theorem afterStop_lnc (s : State) (x : Source) (chars sent : Nat) :
    ((s.stopped x chars sent).afterAbort x).lnc =
      { s.lnc.stopDriving with
        aborted := satSucc s.lnc.aborted, custodyList := ((s.stopped x chars sent).afterAbort x).lnc.custodyList,
        txDropped := ((s.stopped x chars sent).afterAbort x).lnc.txDropped } := by
  obtain ⟨lnc, -⟩ := attemptEnds_afterAbort (s.stopped x chars sent) x
  rw [stopped_lnc] at lnc
  exact lnc

theorem characterReceived_aborts (on : s.online = true) (slot : s.lnc.slot = .driving x chars sent)
    (other : ¬ (ok = true ∧ chars[sent]? = some (h, b))) :
    s.characterReceived h b ok = (s.mismatched x chars.length sent h b ok).choose := by
  rw [characterReceived_online h b ok on (echo_aborts ((characterEnd_slot s ok).trans slot) other), afterStop_lnc]
  rfl

theorem mismatched_aborted (s : State) (x : Source) (chars sent : Nat) (h : Bool) (b : Byte) (ok : Bool) :
    Aborted s ((s.characterEnd ok).stopped x chars (sent + 1)) (s.mismatched x chars sent h b ok) x := by
  have ended := characterEnd_line s ok
  have stop := stopped_lnc (s.characterEnd ok) x chars (sent + 1)
  have frame := frame_stopped (s.characterEnd ok) x chars (sent + 1)
  have credit := stopped_credit (s.characterEnd ok) x chars (sent + 1)
  rw [characterEnd_pub] at credit
  have assembled := frame_assemble (((s.characterEnd ok).stopped x chars (sent + 1)).afterAbort x) h b ok
  have lnc := assemble_lnc (((s.characterEnd ok).stopped x chars (sent + 1)).afterAbort x) h b ok
  have cu : ((s.characterEnd ok).stopped x chars (sent + 1)).cu = s.cu := (frame.cu (by decide)).trans (characterEnd_cu s ok)
  exact
    { credit := credit
      dropped := by rw [stop, ended]; rfl
      custody := by rw [stop, ended]; rfl
      viewer := (frame.vw (by decide)).trans (characterEnd_vw s ok)
      allowed := by rw [State.tailsAllowed, credit.ownWeight, credit.muted, cu]; rfl
      pub := assembled.pub (by decide)
      list := by rw [State.mismatched, lnc]
      count := by rw [State.mismatched, lnc]
      vw := assembled.vw (by decide) }

theorem mismatched_clock (s : State) (x : Source) (chars sent : Nat) (h : Bool) (b : Byte) (ok : Bool) :
    (s.mismatched x chars sent h b ok).clock = (s.characterEnd ok).clock :=
  ((frame_assemble _ h b ok).clock (by decide)).trans
    (((frame_afterAbort _ x).clock (by decide)).trans ((frame_stopped _ x chars (sent + 1)).clock (by decide)))

theorem mismatched_credit (metered : x.metered = true) (n : Nat) :
    (s.mismatched x n sent h b ok).pub.creditMark = (s.characterEnd ok).clock.chars
    ∧ ((s.mismatched x n sent h b ok).pub.credit, (s.mismatched x n sent h b ok).pub.remainder) =
      refunded (s.characterEnd ok).creditNow (n + 2 - (sent + 1)) := by
  obtain ⟨-, -, -, credit, remainder, mark⟩ := attemptEnds_afterAbort ((s.characterEnd ok).stopped x n (sent + 1)) x
  rw [(mismatched_aborted s x n sent h b ok).pub, credit, remainder, mark, State.stopped, refundUnsent_metered _ _ metered, refund_pub]
  exact ⟨rfl, rfl⟩

end

end Sys2Proof.Machine

open Sys2Proof Sys2Proof.Machine

/-- Settles O33: the echo goes on, completes or aborts (`echo_goes_on`, `characterReceived_completes`, `characterReceived_aborts`); what an
abort leaves of each source is that source's rule (`Aborted.custody_rule` … `Aborted.tail_rule`). -/
theorem theEchoDecidesTheAttempt : Obligations.TheEchoDecidesTheAttempt := by
  unfold Obligations.TheEchoDecidesTheAttempt
  intro h b ok s x chars sent on slot
  have ended := characterEnd_line s ok
  refine ⟨fun same more => ?goesOn, fun same last => ?completes, fun other => ?aborts⟩
  case goesOn =>
    have lnc := assemble_lnc ((s.characterEnd ok).setLnc
      { (s.characterEnd ok).lnc with
        slot := .driving x chars (sent + 1), busySince := some (s.characterEnd ok).clock.chars, driver := true }) h b ok
    have clock : (s.sentOne x chars sent h b ok).clock = (s.characterEnd ok).clock := (frame_assemble _ h b ok).clock (by decide)
    refine ⟨_, (exec_characterReceived h b ok s).trans (congrArg Host.Outcome.next (characterReceived_goes_on on slot same more)),
      frame_sentOne s x chars sent h b ok, ?_⟩
    rw [clock, State.sentOne, lnc, State.setLnc_lnc]
    exact ⟨rfl, rfl, rfl, by rw [ended]⟩
  case completes =>
    have assembled := frame_assemble
      (((s.characterEnd ok).setLnc { (s.characterEnd ok).lnc with slot := .empty }).removeSource x) h b ok
    have pub : (s.sentWhole x h b ok).pub = _ := assembled.pub (by decide)
    have vw : (s.sentWhole x h b ok).vw = _ := assembled.vw (by decide)
    refine ⟨_, (exec_characterReceived h b ok s).trans (congrArg Host.Outcome.next (characterReceived_completes on slot same last)),
      frame_sentWhole s x h b ok, ?_⟩
    rw [pub, vw, State.sentWhole, assemble_lnc, removeSource_lnc, removeSource_vw, State.setLnc_lnc, State.setLnc_vw, characterEnd_vw,
      ended]
    refine ⟨rfl, rfl, rfl, rfl, rfl, rfl, ?_⟩
    cases x <;> simp [State.removeSource]
  case aborts =>
    have aborted := mismatched_aborted s x chars.length sent h b ok
    obtain ⟨-, custody, viewer, -⟩ := attemptEnds_afterAbort ((s.characterEnd ok).stopped x chars.length (sent + 1)) x
    have lnc := afterStop_lnc (s.characterEnd ok) x chars.length (sent + 1)
    rw [ended] at lnc
    have read : (((s.characterEnd ok).stopped x chars.length (sent + 1)).afterAbort x).lnc.assembly =
        s.lnc.assembly.map fun a => { a with own := false } := by rw [lnc]; rfl
    refine ⟨_, (exec_characterReceived h b ok s).trans (congrArg Host.Outcome.next (characterReceived_aborts on slot other)),
      frame_mismatched s x chars.length sent h b ok, ?_, ?_, ?_, ?_, ?_, ?_, ?_, ?_, ?_⟩
    · rw [State.mismatched, assemble_lnc, lnc]
      rfl
    · rw [State.mismatched, assemble_lnc, lnc]
      rfl
    · rw [State.mismatched, assemble_lnc, lnc]
    · exact fun other => aborted.list.trans ((custody other).trans aborted.custody)
    · exact fun other => aborted.vw.trans ((viewer other).trans aborted.viewer)
    · have free (free : x.metered = false) : ((s.characterEnd ok).stopped x chars.length (sent + 1)).pub = s.pub :=
        (stopped_free _ _ _ free).trans (characterEnd_pub s ok)
      cases x with
      | custody => exact aborted.custody_rule (free rfl)
      | station => exact fun n flight => aborted.station_rule (free rfl) flight
      | line => exact fun e es queue => aborted.line_rule queue
      | define => exact fun e es list => aborted.define_rule (free rfl) list
      | answer n => exact fun e found => aborted.answer_rule found
      | ask => exact ⟨aborted.pub.trans ((afterAbort_ask_pub _).trans (free rfl)), fun e es list => aborted.ask_rule list⟩
      | tail => exact fun e flight => aborted.tail_rule flight
    · rintro metered upd back rfl rfl
      rw [mismatched_clock, ← characterEnd_pub s ok]
      exact mismatched_credit metered chars.length
    · intro a some plain
      have joins := assemble_joins (b := b) (read.trans (congrArg _ some)) plain
      rw [State.mismatched, joins, State.setLnc_lnc, lnc]
      exact ⟨rfl, rfl, rfl⟩
    · rintro a a' some rfl rfl rfl
      obtain ⟨opens, joins, -, counted, -⟩ := assemble_verdict (b := b) (read.trans (congrArg _ some))
      have cfg : (((s.characterEnd true).stopped x chars.length (sent + 1)).afterAbort x).cfg = s.cfg :=
        ((frame_afterAbort _ x).cfg (by decide)).trans
          (((frame_stopped _ x chars.length (sent + 1)).cfg (by decide)).trans (characterEnd_cfg s true))
      rw [lnc] at opens counted
      rw [cfg, lnc] at joins
      exact ⟨opens, counted, joins⟩
end

section
/-! SUPPORT. A STATION with the node's own number: what each block does at a new CONFLICT, and the slot's choice after it; with them O40. -/

namespace Sys2Proof.Machine

/-! ## Under CONFLICT the record's work offers no frame (R127, R131, R149) -/

/-- From `s` to `t` the Transcript Builder has worked: no ASK came or went, and under CONFLICT nothing reached the Publisher. -/
def OffersNothing (s t : State) : Prop :=
  SameBut tbParts s t ∧ t.vw.asks = s.vw.asks ∧ (s.cu.conflict = true → t.pub = s.pub)

section
variable {s t u : State}

theorem OffersNothing.trans (h : OffersNothing s t) (k : OffersNothing t u) : OffersNothing s u := by
  obtain ⟨frame, asks, pub⟩ := h
  obtain ⟨frame', asks', pub'⟩ := k
  refine ⟨frame.trans frame', asks'.trans asks, fun conflict => ?_⟩
  have kept : t.cu.conflict = true := (congrArg Cu.conflict (frame.cu (by decide))).trans conflict
  exact (pub' kept).trans (pub conflict)

/-- An operation of the Transcript Builder that reaches neither Publisher nor Viewer. -/
theorem SameBut.offersNothing (h : SameBut [.tb, .latches] s t) : OffersNothing s t :=
  ⟨h.mono (by decide), congrArg Viewer.asks (h.vw (by decide)), fun _ => h.pub (by decide)⟩

theorem storeLine_asks (s : State) (n : Nat) (gone brk : Bool) (text : List Byte) :
    (s.storeLine n gone brk text).vw.asks = s.vw.asks := by
  unfold State.storeLine
  split
  · rfl
  · split <;> rfl
  · split <;> rfl
  · split
    · split <;> rfl
    · rfl

theorem ownLineToViewer_offersNothing (s : State) (n : Nat) (brk : Bool) (text : List Byte) :
    OffersNothing s (s.ownLineToViewer n brk text) := by
  have frame := frame_ownLineToViewer s n brk text
  refine ⟨frame.mono (by decide), ?_, fun _ => frame.pub (by decide)⟩
  unfold State.ownLineToViewer
  split
  · dsimp only
    split
    · obtain ⟨-, -, asks, -⟩ :=
        setReach_views (s.storeLine n false brk text) (s.storeLine n false brk text).tb.committedThrough s.own
      exact asks.trans (storeLine_asks s n false brk text)
    · exact storeLine_asks s n false brk text
  · rfl

theorem queueLine_offersNothing (s : State) (n : Nat) (brk : Bool) (text : List Byte) : OffersNothing s (s.queueLine n brk text) := by
  have frame := frame_queueLine s n brk text
  refine ⟨frame.mono (by decide), congrArg Viewer.asks (frame.vw (by decide)), fun conflict => ?_⟩
  rw [State.queueLine, if_pos conflict]

theorem enterRing_offersNothing (s : State) (x : Tb) (l : CommittedLine) : OffersNothing s ((s.setTb x).enterRing l) :=
  ((frame_setTb s x).chain (frame_enterRing _ l) (by decide) (by decide)).offersNothing

theorem recordLine_offersNothing (s : State) (brk carried : Bool) (text : List Byte) (strokes : Nat) :
    OffersNothing s (s.recordLine brk carried text strokes) :=
  (((enterRing_offersNothing s _ _).trans (queueLine_offersNothing _ _ _ _)).trans
    ((frame_reportHorizon _ _).mono (by decide)).offersNothing).trans (ownLineToViewer_offersNothing _ _ _ _)

theorem breakLine_offersNothing (s : State) : OffersNothing s s.breakLine := by
  unfold State.breakLine
  split
  · exact ((frame_latch _ _).mono (by decide)).offersNothing
  · exact recordLine_offersNothing _ _ _ _ _

theorem jumpBreak_offersNothing (s : State) : OffersNothing s s.jumpBreak := by
  have wrote : OffersNothing s s.jump.breakLine :=
    ((frame_jump s).mono (by decide)).offersNothing.trans (breakLine_offersNothing _)
  unfold State.jumpBreak
  split
  · split
    · exact wrote
    · exact wrote.trans ((frame_latch _ _).mono (by decide)).offersNothing
  · exact (SameBut.refl _ _).offersNothing

theorem commitText_offersNothing (s : State) (carried : Bool) (text : List Byte) (strokes : Nat) :
    OffersNothing s (s.commitText carried text strokes) := by
  have discard (v : State) : OffersNothing v (v.discardLine strokes) :=
    ((frame_setTb v _).chain (frame_latch _ _) (by decide) (by decide)).offersNothing
  unfold State.commitText
  split
  · exact enterRing_offersNothing _ _ _
  · dsimp only
    split
    · exact (jumpBreak_offersNothing _).trans (discard _)
    · exact (jumpBreak_offersNothing _).trans (recordLine_offersNothing _ _ _ _ _)

theorem buildTail_conflict (conflict : s.cu.conflict = true) : s.buildTail = s :=
  if_neg (by simp [State.tailsAllowed, conflict])

theorem notified_offersNothing (s t : State) : OffersNothing t (s.notified t) := by
  have frame := frame_notice s t
  refine ⟨frame.mono (by decide), congrArg Viewer.asks (frame.vw (by decide)), fun conflict => ?_⟩
  rw [State.notified, buildTail_conflict conflict, ite_self]

theorem commitOldest_offersNothing (s : State) : OffersNothing s s.commitOldest :=
  (((frame_setTb s _).mono (by decide)).offersNothing.trans (commitText_offersNothing _ _ _ _)).trans (notified_offersNothing _ _)

theorem commitWhile_offersNothing (p : Region → Bool) (fuel : Nat) (s : State) : OffersNothing s (State.commitWhile p fuel s) := by
  induction fuel generalizing s with
  | zero => exact (SameBut.refl _ _).offersNothing
  | succ fuel ih =>
    unfold State.commitWhile
    split
    · exact (commitOldest_offersNothing s).trans (ih _)
    · exact (SameBut.refl _ _).offersNothing

theorem commitAllLines_offersNothing (s : State) : OffersNothing s s.commitAllLines :=
  (commitWhile_offersNothing _ _ s).trans
    (((frame_setTb _ _).mono (by decide)).offersNothing.trans (notified_offersNothing _ _))

end

/-! ## The Publisher under CONFLICT (R127, R135, R139) -/

/-- Of the frames a Publisher may send, a STATION alone waits. -/
def OnlyStation (p : Pub) : Prop :=
  p.lineQueue = [] ∧ p.answers = [] ∧ p.defines = [] ∧ p.tailWaiting = none ∧ p.stationWaiting = some 0

/-- The credit is up to date and in its bounds (R139). -/
def CreditFresh (s : State) : Prop := s.pub.creditMark = s.clock.chars ∧ s.pub.credit ≤ 800 ∧ s.pub.remainder < 1000

/-- The state weighed anew on an updated credit (R138). -/
def State.weighed (s : State) : State := s.updateCredit.reweigh s.cu.state.weight

/-- The state with no TAIL waiting and none to come. -/
def State.tailWithdrawn (s : State) : State := s.setPub { s.pub with tailWaiting := none, refreshAt := none }

section
variable {s : State}

theorem conflictAtPub_onlyStation (s : State) : OnlyStation s.conflictAtPub.pub := ⟨rfl, rfl, rfl, rfl, rfl⟩

theorem creditAfter_zero {c f : Nat} (full : c ≤ 800) (part : f < 1000) (share : Nat) : (creditAfter c f share 0).1 = c := by
  simp only [creditAfter, Nat.zero_mul, Nat.add_zero, Nat.div_eq_of_lt part]
  split
  · next top => exact (Nat.le_antisymm full top).symm
  · rfl

theorem updateCredit_fresh (fresh : CreditFresh s) : s.updateCredit.pub.credit = s.pub.credit := by
  obtain ⟨mark, full, part⟩ := fresh
  simp [State.updateCredit, mark, creditAfter_zero full part]

theorem dropTail_conflict (conflict : s.cu.conflict = true) : s.dropTail = s.tailWithdrawn :=
  if_neg (by simp [State.tailsAllowed, conflict])

/-- Under CONFLICT a recomputation weighs the node anew, and its TAIL is withdrawn. -/
theorem reshare_conflict (conflict : s.cu.conflict = true) :
    s.reshare = if s.weighed.pub.muted = s.pub.muted then s.weighed.tailWithdrawn else s.weighed.stationReady.tailWithdrawn := by
  have kept : s.weighed.dropTail = s.weighed.tailWithdrawn := dropTail_conflict conflict
  have changed : s.weighed.stationReady.dropTail = s.weighed.stationReady.tailWithdrawn := dropTail_conflict conflict
  have built : s.weighed.stationReady.tailWithdrawn.buildTail = s.weighed.stationReady.tailWithdrawn := buildTail_conflict conflict
  change (if s.weighed.pub.muted = s.pub.muted then s.weighed.dropTail
    else if s.weighed.pub.muted = true then s.weighed.stationReady.dropTail else s.weighed.stationReady.dropTail.buildTail) = _
  rw [kept, changed, built, ite_self]

theorem reshare_conflict_tail (conflict : s.cu.conflict = true) : s.reshare.pub.tailWaiting = none := by
  rw [reshare_conflict conflict]
  split <;> rfl

/-- A node without weight is given no credit at its weighing. -/
theorem reshare_conflict_credit (conflict : s.cu.conflict = true) (idle : s.cu.state = .idle) :
    s.reshare.pub.credit = s.updateCredit.pub.credit := by
  have weighed : s.weighed.pub.credit = s.updateCredit.pub.credit := if_neg (by simp [idle, CustodyState.weight])
  rw [reshare_conflict conflict]
  split
  · exact weighed
  · exact weighed

theorem setCustody_conflict (conflict : s.cu.conflict = true) (c : CustodyState) :
    (s.setCustody c).pub = (s.setCu { s.cu with state := c }).stationReady.reshare.pub := by
  rw [State.setCustody, State.reportCustody, follow_pub, State.tellCustody, buildTail_conflict (by simpa using conflict)]

theorem setCustody_onlyStation (conflict : s.cu.conflict = true) (c : CustodyState) (only : OnlyStation s.pub) :
    OnlyStation (s.setCustody c).pub := by
  obtain ⟨lines, answers, defines, -, -⟩ := only
  obtain ⟨lines', answers', defines', -⟩ := setCustody_lists s c
  refine ⟨lines'.trans lines, answers'.trans answers, defines'.trans defines, ?_, setCustody_station s c⟩
  rw [setCustody_conflict conflict]
  exact reshare_conflict_tail conflict

theorem setCustody_idle_credit (conflict : s.cu.conflict = true) (fresh : CreditFresh s) :
    (s.setCustody .idle).pub.credit = s.pub.credit := by
  rw [setCustody_conflict conflict]
  refine Eq.trans (reshare_conflict_credit conflict rfl) ?_
  exact updateCredit_fresh (s := (s.setCu { s.cu with state := .idle }).stationReady) fresh

end

/-! ## The Custody Unit at a new CONFLICT (R149) -/

/-- The state out of RECORD: a holder's lines are committed, and its series is DRAFT. -/
def State.outOfRecord (s : State) : State := if s.cu.state.holds then (s.commitAllLines).switchToDraft else s

/-- The state out of RECORD, with no claim and no hand-over under way. -/
def State.claimsEnded (s : State) : State :=
  s.outOfRecord.setCu
    { s.outOfRecord.cu with claims := [], settleAt := none, claimAt := none, prior := none, handOver := .none }

/-- The state with the Custody Unit IDLE. -/
def State.madeIdle (s : State) : State := if s.cu.state = .idle then s.claimsEnded else s.claimsEnded.setCustody .idle

section
variable {s : State}

theorem conflictAtCu_eq (s : State) :
    s.conflictAtCu = if s.cu.state.holds then s.madeIdle.latch (.custodyChanged .conflict s.own 0) else s.madeIdle := rfl

theorem conflictAtCu_but_latch {α : Type} (get : State → α) (blind : ∀ (t : State) (e : Event), get (t.latch e) = get t) (s : State) :
    get s.conflictAtCu = get s.madeIdle := by
  rw [conflictAtCu_eq]
  split
  · exact blind _ _
  · rfl

theorem outOfRecord_offersNothing (s : State) : OffersNothing s s.outOfRecord := by
  unfold State.outOfRecord
  split
  · exact (commitAllLines_offersNothing s).trans ((frame_switchToDraft _).mono (by decide)).offersNothing
  · exact (SameBut.refl _ _).offersNothing

theorem outOfRecord_cu (s : State) : s.outOfRecord.cu = s.cu := (outOfRecord_offersNothing s).1.cu (by decide)

theorem outOfRecord_draft (holds : s.cu.state.holds = true) : s.outOfRecord.tb.series = .draft := by
  rw [State.outOfRecord, if_pos holds, switchToDraft_tb]
  split
  · rfl
  · next other =>
    cases series : s.commitAllLines.tb.series with
    | draft => rfl
    | record => exact absurd series other

theorem claimsEnded_cu (s : State) :
    s.claimsEnded.cu = { s.cu with claims := [], settleAt := none, claimAt := none, prior := none, handOver := .none } := by
  rw [State.claimsEnded, State.setCu_cu, outOfRecord_cu]

theorem madeIdle_cu (s : State) :
    s.madeIdle.cu =
      { s.cu with state := .idle, claims := [], settleAt := none, claimAt := none, prior := none, handOver := .none } := by
  unfold State.madeIdle
  split
  · next idle => rw [claimsEnded_cu, ← idle]
  · rw [setCustody_cu, claimsEnded_cu]

theorem madeIdle_tb (s : State) : s.madeIdle.tb = s.outOfRecord.tb := by
  unfold State.madeIdle
  split
  · rfl
  · rw [setCustody_tb]
    rfl

theorem madeIdle_asks (s : State) : s.madeIdle.vw.asks = s.vw.asks := by
  obtain ⟨-, asks, -⟩ := outOfRecord_offersNothing s
  unfold State.madeIdle
  split
  · exact asks
  · obtain ⟨-, -, same, -⟩ := setCustody_views s.claimsEnded .idle
    exact same.trans asks

section
variable (conflict : s.cu.conflict = true)
include conflict

theorem claimsEnded_pub : s.claimsEnded.pub = s.pub := by
  obtain ⟨-, -, pub⟩ := outOfRecord_offersNothing s
  exact pub conflict

theorem claimsEnded_conflict : s.claimsEnded.cu.conflict = true := by rw [claimsEnded_cu, conflict]

theorem madeIdle_onlyStation (only : OnlyStation s.pub) : OnlyStation s.madeIdle.pub := by
  have before : OnlyStation s.claimsEnded.pub := (claimsEnded_pub conflict).symm ▸ only
  unfold State.madeIdle
  split
  · exact before
  · exact setCustody_onlyStation (claimsEnded_conflict conflict) .idle before

theorem madeIdle_lists : SameLists s.pub s.madeIdle.pub := by
  have before := claimsEnded_pub conflict
  unfold State.madeIdle
  split
  · exact before.symm ▸ SameLists.refl _
  · exact before ▸ setCustody_lists s.claimsEnded .idle

theorem madeIdle_credit (fresh : CreditFresh s) : s.madeIdle.pub.credit = s.pub.credit := by
  have before := claimsEnded_pub conflict
  have clock : s.claimsEnded.clock = s.clock := (outOfRecord_offersNothing s).1.clock (by decide)
  have still : CreditFresh s.claimsEnded := by
    rw [CreditFresh, before, clock]
    exact fresh
  unfold State.madeIdle
  split
  · rw [before]
  · rw [setCustody_idle_credit (claimsEnded_conflict conflict) still, before]

end

theorem latched_conflictAtCu (holds : s.cu.state.holds = true) :
    Latched s s.conflictAtCu 4 (.custodyChanged .conflict s.own 0) := by
  have before : LatchesBut switchEvents s s.madeIdle := by
    have left : LatchesBut switchEvents s s.claimsEnded := by
      refine LatchesBut.trans ?_ ((frame_setCu _ _).noLatch (by decide))
      exact latches_ite ((latches_leaveRecord s).mono (by decide)) (LatchesBut.refl _ _)
    exact latches_ite left (left.trans ((latches_setCustody _ _).mono (by decide)))
  rw [conflictAtCu_eq, if_pos holds]
  exact Latched.after (latched_latch s.madeIdle _) before (by decide) (by decide)

end

/-! ## The Line Controller at a new CONFLICT (R121) -/

/-- The state in which the frame of `x`, whose character `sent` goes out, is cut off: what is not sent is handed back, and it has left
its source. -/
def State.cutShort (s : State) (x : Source) (chars sent : Nat) : State :=
  ((s.setLnc { s.lnc.stopDriving with cutOff := satSucc s.lnc.cutOff }).refundUnsent x chars (sent + 1)).removeSource x

section
variable {s : State} {x : Source} {chars : List (Bool × Byte)} {sent : Nat}

theorem conflictAtLnc_free (free : s.lnc.slot.isDriving = false) :
    s.conflictAtLnc = s.setLnc { s.lnc with slot := .empty, custodyList := [] } := by
  unfold State.conflictAtLnc
  cases slot : s.lnc.slot with
  | empty => rfl
  | waiting x => rfl
  | driving x chars sent =>
    rw [slot] at free
    cases free

theorem conflictAtLnc_station (slot : s.lnc.slot = .driving .station chars sent) :
    s.conflictAtLnc = s.setLnc { s.lnc with custodyList := [] } := by
  rw [State.conflictAtLnc, slot]

theorem conflictAtLnc_cutOff (slot : s.lnc.slot = .driving x chars sent) (other : x ≠ .station) :
    s.conflictAtLnc =
      (s.cutShort x chars.length sent).setLnc { (s.cutShort x chars.length sent).lnc with custodyList := [] } := by
  rw [State.conflictAtLnc, slot]
  cases x with
  | station => exact absurd rfl other
  | custody | line | define | answer n | ask | tail => rfl

theorem cutShort_lnc (s : State) (x : Source) (chars sent : Nat) :
    (s.cutShort x chars sent).lnc =
      { s.lnc.stopDriving with
        cutOff := satSucc s.lnc.cutOff, custodyList := (s.cutShort x chars sent).lnc.custodyList } := by
  have kept := (frame_refundUnsent (s.setLnc { s.lnc.stopDriving with cutOff := satSucc s.lnc.cutOff }) x chars (sent + 1)).lnc
    (by decide)
  rw [State.cutShort, removeSource_lnc, kept]
  rfl

theorem conflictAtLnc_lnc (slot : s.lnc.slot = .driving x chars sent) (other : x ≠ .station) :
    s.conflictAtLnc.lnc = { s.lnc.stopDriving with cutOff := satSucc s.lnc.cutOff, custodyList := [] } := by
  rw [conflictAtLnc_cutOff slot other, State.setLnc_lnc, cutShort_lnc]

/-- Whatever the slot holds, the list of custody frames is emptied, and the receiver and the driver stay. -/
theorem conflictAtLnc_same (s : State) :
    s.conflictAtLnc.lnc.custodyList = [] ∧ s.conflictAtLnc.lnc.queue = s.lnc.queue ∧ s.conflictAtLnc.lnc.driver = s.lnc.driver
    ∧ s.conflictAtLnc.lnc.busySince = s.lnc.busySince := by
  cases driving : s.lnc.slot.isDriving with
  | false =>
    rw [conflictAtLnc_free driving]
    exact ⟨rfl, rfl, rfl, rfl⟩
  | true =>
    cases slot : s.lnc.slot with
    | empty | waiting x => simp [slot, Slot.isDriving] at driving
    | driving x chars sent =>
      by_cases station : x = .station
      · rw [conflictAtLnc_station (station ▸ slot)]
        exact ⟨rfl, rfl, rfl, rfl⟩
      · rw [conflictAtLnc_lnc slot station]
        exact ⟨rfl, rfl, rfl, rfl⟩

theorem conflictAtLnc_tail (slot : s.lnc.slot = .driving .tail chars sent) : s.conflictAtLnc.pub.tailInFlight = none := by
  rw [conflictAtLnc_cutOff slot (by decide)]
  rfl

/-- What comes back is added to the credit brought up to date, 800 at most (R141). -/
theorem refunded_le (upd : Nat × Nat) (back : Nat) : (refunded upd back).1 = min 800 (upd.1 + back) := by
  unfold refunded
  split
  · next above => exact (Nat.min_eq_left above.le).symm
  · next within => exact (Nat.min_eq_right (Nat.not_lt.1 within)).symm

theorem creditNow_part (s : State) : s.creditNow.2 < 1000 := by
  unfold State.creditNow creditAfter
  split
  · exact Nat.zero_lt_succ _
  · exact Nat.mod_lt _ (by decide)

theorem refunded_part {upd : Nat × Nat} (part : upd.2 < 1000) (back : Nat) : (refunded upd back).2 < 1000 := by
  unfold refunded
  split
  · exact Nat.zero_lt_succ _
  · exact part

theorem cutShort_credit (s : State) (chars sent : Nat) (metered : x.metered = true) :
    (s.cutShort x chars sent).pub.credit = (refunded s.creditNow (chars + 2 - (sent + 1))).1
    ∧ (s.cutShort x chars sent).pub.remainder = (refunded s.creditNow (chars + 2 - (sent + 1))).2
    ∧ (s.cutShort x chars sent).pub.creditMark = s.clock.chars := by
  obtain ⟨-, -, -, credit, remainder, mark⟩ := attemptEnds_removeSource
    ((s.setLnc { s.lnc.stopDriving with cutOff := satSucc s.lnc.cutOff }).refund (chars + 2 - (sent + 1))) x
  rw [State.cutShort, refundUnsent_metered _ _ metered, credit, remainder, mark, refund_pub]
  exact ⟨rfl, rfl, rfl⟩

theorem conflictAtLnc_credit (slot : s.lnc.slot = .driving x chars sent) (metered : x.metered = true) :
    CreditFresh s.conflictAtLnc
    ∧ s.conflictAtLnc.pub.credit = min 800 (s.creditNow.1 + (chars.length + 2 - (sent + 1))) := by
  have other : x ≠ .station := by
    rintro rfl
    cases metered
  have clock : s.conflictAtLnc.clock = s.clock := (frame_conflictAtLnc s).clock (by decide)
  have pub : s.conflictAtLnc.pub = (s.cutShort x chars.length sent).pub := by rw [conflictAtLnc_cutOff slot other, State.setLnc_pub]
  obtain ⟨credit, remainder, mark⟩ := cutShort_credit s chars.length sent metered
  rw [CreditFresh, pub, clock, credit, remainder, mark, refunded_le]
  exact ⟨⟨rfl, Nat.min_le_left _ _, refunded_part (creditNow_part s) _⟩, rfl⟩

end

/-! ## The slot's choice under CONFLICT (R115, R121) -/

section
variable {s : State} (conflict : s.cu.conflict = true)
include conflict

theorem choose_conflict_pub : s.choose.pub = s.pub := by
  have untested : ¬ s.choiceTests = true := by simp [choiceTests_iff, conflict]
  cases on : s.online with
  | false => rw [choose_start on]
  | true =>
    cases driving : s.lnc.slot.isDriving with
    | false =>
      obtain ⟨-, pub⟩ := choose_free on driving
      rw [pub, if_neg untested]
    | true => rw [choose_driving s on driving, if_neg untested]

theorem choose_conflict_slot (station : s.pub.stationWaiting ≠ none) (free : s.lnc.slot.isDriving = false) :
    s.choose.lnc.slot = if s.online = true then .waiting .station else s.lnc.slot := by
  cases on : s.online with
  | false => rw [choose_start on, if_neg (by decide)]
  | true =>
    obtain ⟨lnc, -⟩ := choose_free on free
    rw [lnc, if_pos rfl]
    simp only [State.slotFor, conflict, if_true, if_neg station]

theorem choose_conflict_driving (driving : s.lnc.slot.isDriving = true) : s.choose.lnc = s.lnc := by
  have untested : ¬ s.choiceTests = true := by simp [choiceTests_iff, conflict]
  cases on : s.online with
  | false => rw [choose_start on]
  | true => rw [choose_driving s on driving, if_neg untested]

end

/-! ## DELIVER_STATION with the own number -/

/-- The state with CONFLICT latched and set. -/
def State.conflictSet (s : State) : State := (s.latch (.stationConflict s.own)).setCu { s.cu with conflict := true }

/-- The state in which every list of frames to send but the STATION is empty. -/
def State.listsEmptied (s : State) : State :=
  (s.conflictSet.conflictAtLnc.conflictAtPub).setVw { s.conflictSet.conflictAtLnc.conflictAtPub.vw with asks := [] }

/-- The state whose oldest queued frame has been taken, `rest` staying. -/
def State.frameTaken (s : State) (rest : List Frame) : State := s.setLnc { s.lnc with queue := rest }

theorem exec_deliverStation (s : State) : exec .deliverStation s = .next s.deliverStation := rfl

theorem stationAtRoster_own {s : State} {f : Frame} {b : StationBody} (parsed : StationBody.parse f.body = some b)
    (own : b.station = s.own) : s.stationAtRoster f = s.stationConflict := by
  simp only [State.stationAtRoster, parsed, if_pos own]

theorem deliverStation_own {s : State} {f : Frame} {rest : List Frame} {b : StationBody} (queue : s.lnc.queue = f :: rest)
    (kind : f.kind = .station) (parsed : StationBody.parse f.body = some b) (own : b.station = s.own) :
    s.deliverStation = (s.frameTaken rest).stationConflict.offered := by
  rw [← stationAtRoster_own (s := s.frameTaken rest) parsed own]
  simp only [State.deliverStation, State.deliver, queue, if_pos kind]
  rfl

section
variable {s : State}

theorem stationConflict_again (again : s.cu.conflict = true) : s.stationConflict = s.latch (.stationConflict s.own) := if_pos again

theorem stationConflict_first (first : s.cu.conflict = false) : s.stationConflict = s.listsEmptied.conflictAtCu :=
  if_neg (by simp [first])

theorem frame_conflictSet (s : State) : SameBut [.cu, .latches] s s.conflictSet :=
  (frame_latch _ _).chain (frame_setCu _ _) (by decide) (by decide)

theorem frame_listsEmptied (s : State) : SameBut [.lnc, .pub, .vw] s.conflictSet s.listsEmptied := by
  refine SameBut.chain (xs := [.lnc, .pub, .vw]) ?_ (frame_setVw _ _) (by decide) (by decide)
  exact (frame_conflictAtLnc _).chain (frame_conflictAtPub _) (by decide) (by decide)

theorem listsEmptied_cu (s : State) : s.listsEmptied.cu = { s.cu with conflict := true } :=
  (frame_listsEmptied s).cu (by decide)

theorem listsEmptied_own (s : State) : s.listsEmptied.own = s.own :=
  ((frame_listsEmptied s).own (by decide)).trans ((frame_conflictSet s).own (by decide))

theorem listsEmptied_lnc (s : State) : s.listsEmptied.lnc = s.conflictSet.conflictAtLnc.lnc := rfl

theorem latched_listsEmptied (s : State) : Latched s s.listsEmptied 1 (.stationConflict s.own) := by
  have set : LatchesBut [] (s.latch (.stationConflict s.own)) s.conflictSet := (frame_setCu _ _).noLatch (by decide)
  exact Latched.keep (latched_latch s _) (set.trans ((frame_listsEmptied s).noLatch (by decide))) (by decide) (by decide)

theorem listsEmptied_onlyStation (s : State) : OnlyStation s.listsEmptied.pub := conflictAtPub_onlyStation _

/-! ### Each block after the first STATION with the own number -/

section
variable (first : s.cu.conflict = false)
include first

theorem stationConflict_but_latch {α : Type} (get : State → α) (blind : ∀ (t : State) (e : Event), get (t.latch e) = get t) :
    get s.stationConflict = get s.listsEmptied.madeIdle := by
  rw [stationConflict_first first, conflictAtCu_but_latch get blind]

theorem stationConflict_cu :
    s.stationConflict.cu =
      { s.cu with conflict := true, state := .idle, claims := [], settleAt := none, claimAt := none, prior := none,
                  handOver := .none } := by
  rw [stationConflict_but_latch first State.cu fun _ _ => rfl, madeIdle_cu, listsEmptied_cu]

theorem stationConflict_lnc : s.stationConflict.lnc = s.conflictSet.conflictAtLnc.lnc := by
  rw [stationConflict_first first]
  exact (frame_conflictAtCu _).lnc (by decide)

theorem stationConflict_onlyStation : OnlyStation s.stationConflict.pub := by
  rw [stationConflict_but_latch first State.pub fun _ _ => rfl]
  exact madeIdle_onlyStation (by rw [listsEmptied_cu]) (listsEmptied_onlyStation s)

theorem stationConflict_asks : s.stationConflict.vw.asks = [] := by
  rw [stationConflict_but_latch first State.vw fun _ _ => rfl]
  exact madeIdle_asks _

theorem stationConflict_tailInFlight : s.stationConflict.pub.tailInFlight = s.conflictSet.conflictAtLnc.pub.tailInFlight := by
  rw [stationConflict_but_latch first State.pub fun _ _ => rfl]
  obtain ⟨-, -, -, -, -, -, -, flight, -⟩ := madeIdle_lists (s := s.listsEmptied) (by rw [listsEmptied_cu])
  exact flight

theorem stationConflict_credit (fresh : CreditFresh s.conflictSet.conflictAtLnc) :
    s.stationConflict.pub.credit = s.conflictSet.conflictAtLnc.pub.credit := by
  rw [stationConflict_but_latch first State.pub fun _ _ => rfl]
  exact madeIdle_credit (s := s.listsEmptied) (by rw [listsEmptied_cu]) fresh

theorem stationConflict_latched : Latched s s.stationConflict 1 (.stationConflict s.own) := by
  rw [stationConflict_first first]
  exact Latched.keep (latched_listsEmptied s) (latches_conflictAtCu _) (by decide) (by decide)

/-- A holder leaves RECORD, and CUSTODY_CHANGED tells it. -/
theorem stationConflict_holder (holds : s.cu.state.holds = true) :
    s.stationConflict.tb.series = .draft ∧ Latched s s.stationConflict 4 (.custodyChanged .conflict s.own 0) := by
  have held : s.listsEmptied.cu.state.holds = true := by rw [listsEmptied_cu, holds]
  refine ⟨?_, ?_⟩
  · rw [stationConflict_but_latch first State.tb fun _ _ => rfl, madeIdle_tb, outOfRecord_draft held]
  · have before : LatchesBut [1] s s.listsEmptied := by
      refine LatchesBut.trans ?_ ((frame_listsEmptied s).noLatch (by decide))
      exact LatchesBut.trans (latches_latch s (.stationConflict s.own)) ((frame_setCu _ _).noLatch (by decide))
    have told := latched_conflictAtCu held
    rw [listsEmptied_own] at told
    rw [stationConflict_first first]
    exact told.after before (by decide) (by decide)

theorem stationConflict_conflict : s.stationConflict.cu.conflict = true := by rw [stationConflict_cu first]

/-! ### The Line Controller after the slot's choice -/

theorem stationConflict_pub : s.stationConflict.offered.pub = s.stationConflict.pub :=
  (compose_pub _).trans (choose_conflict_pub (stationConflict_conflict first))

/-- Where the cut leaves nothing driven, a STATION waits in the slot; ahead of GO the slot stays EMPTY. -/
theorem stationConflict_waits (empty : s.conflictSet.conflictAtLnc.lnc.slot = .empty) :
    s.stationConflict.offered.lnc =
      { s.conflictSet.conflictAtLnc.lnc with slot := if s.online = true then .waiting .station else .empty } := by
  obtain ⟨-, -, -, -, station⟩ := stationConflict_onlyStation first
  have lnc := stationConflict_lnc first
  have slot : s.stationConflict.lnc.slot = .empty := (congrArg Lnc.slot lnc).trans empty
  have chosen := choose_conflict_slot (stationConflict_conflict first) (by simp [station]) (by rw [slot]; rfl)
  rw [slot, (frame_stationConflict s).online (by decide)] at chosen
  rw [State.offered, compose_lnc, choose_lnc, chosen, lnc]

theorem stationConflict_free (free : s.lnc.slot.isDriving = false) :
    s.stationConflict.offered.lnc =
      { s.lnc with slot := if s.online = true then .waiting .station else .empty, custodyList := [] } := by
  have cut := conflictAtLnc_free (s := s.conflictSet) free
  rw [stationConflict_waits first (by rw [cut]; rfl), cut]
  rfl

theorem stationConflict_station {chars : List (Bool × Byte)} {sent : Nat} (slot : s.lnc.slot = .driving .station chars sent) :
    s.stationConflict.offered.lnc = { s.lnc with custodyList := [] } := by
  have lnc := stationConflict_lnc first
  rw [conflictAtLnc_station (s := s.conflictSet) slot] at lnc
  have driving : s.stationConflict.lnc.slot.isDriving = true := by
    rw [lnc]
    exact congrArg Slot.isDriving slot
  rw [State.offered, compose_lnc, choose_conflict_driving (stationConflict_conflict first) driving, lnc]
  rfl

theorem stationConflict_cutOff {x : Source} {chars : List (Bool × Byte)} {sent : Nat} (slot : s.lnc.slot = .driving x chars sent)
    (other : x ≠ .station) :
    s.stationConflict.offered.lnc =
      { s.lnc.stopDriving with
        slot := if s.online = true then .waiting .station else .empty, cutOff := satSucc s.lnc.cutOff, custodyList := [] } := by
  have cut := conflictAtLnc_lnc (s := s.conflictSet) slot other
  rw [stationConflict_waits first (by rw [cut]; rfl), cut]
  rfl

theorem stationConflict_same :
    s.stationConflict.offered.lnc.custodyList = [] ∧ s.stationConflict.offered.lnc.queue = s.lnc.queue
    ∧ s.stationConflict.offered.lnc.driver = s.lnc.driver ∧ s.stationConflict.offered.lnc.busySince = s.lnc.busySince := by
  rw [State.offered, compose_lnc, choose_lnc, stationConflict_lnc first]
  exact conflictAtLnc_same s.conflictSet

end

end

end Sys2Proof.Machine

open Sys2Proof Sys2Proof.Machine

/-- Settles O40: at the first such STATION each block acts on CONFLICT (`stationConflict_cu` … `stationConflict_holder`), the Line
Controller by what its slot held (`stationConflict_free`, `stationConflict_station`, `stationConflict_cutOff`). -/
theorem aStationWithTheOwnNumberIsAConflict : Obligations.AStationWithTheOwnNumberIsAConflict := by
  unfold Obligations.AStationWithTheOwnNumberIsAConflict
  intro s f rest b queue kind parsed own
  have delivered := (exec_deliverStation s).trans (congrArg Host.Outcome.next (deliverStation_own queue kind parsed own))
  refine ⟨fun first => ?first, fun again => ?again⟩
  case again =>
    refine ⟨_, delivered, ?_⟩
    rw [stationConflict_again (s := s.frameTaken rest) again]
    exact ⟨(frame_setLnc _ _).chain (frame_latch _ _) (by decide) (by decide), rfl, rfl⟩
  case first =>
    have first : (s.frameTaken rest).cu.conflict = false := first
    have frame : SameBut [.lnc, .tb, .cu, .pub, .vw, .latches, .sp] s (s.frameTaken rest).stationConflict.offered := by
      refine SameBut.chain (xs := .lnc :: recordParts) ?_ (frame_offered _) (by decide) (by decide)
      exact (frame_setLnc s _).chain (frame_stationConflict _) (by decide) (by decide)
    have offered := frame_offered (s.frameTaken rest).stationConflict
    have cu := (offered.cu (by decide)).trans (stationConflict_cu first)
    have tb := offered.tb (by decide)
    have asks := (congrArg Viewer.asks (offered.vw (by decide))).trans (stationConflict_asks first)
    have stays {ps : List Nat} : LatchesBut ps (s.frameTaken rest).stationConflict (s.frameTaken rest).stationConflict.offered :=
      offered.noLatch (by decide)
    have latched := (stationConflict_latched first).keep (stays (ps := [])) (by decide) (by decide)
    have pub := stationConflict_pub first
    obtain ⟨lines, answers, defines, tail, station⟩ := stationConflict_onlyStation first
    obtain ⟨custody, left, driver, busy⟩ := stationConflict_same first
    rw [← pub] at lines answers defines tail station
    refine ⟨_, delivered, frame, left, custody, latched, cu, lines, answers, defines, tail, station, asks, fun holds => ?holder, driver,
      busy, fun free => ?free, fun chars sent slot => ?station, fun x chars sent slot other => ?cutOff⟩
    case holder =>
      obtain ⟨series, told⟩ := stationConflict_holder first holds
      exact ⟨(congrArg Tb.series tb).trans series, told.keep (stays (ps := [])) (by decide) (by decide)⟩
    case free =>
      have lnc := stationConflict_free first free
      rw [lnc]
      exact ⟨rfl, rfl, rfl⟩
    case station =>
      have lnc := stationConflict_station first slot
      rw [lnc]
      exact ⟨rfl, rfl, rfl⟩
    case cutOff =>
      have lnc := stationConflict_cutOff first slot other
      rw [lnc]
      refine ⟨rfl, rfl, rfl, ?_, ?_⟩
      · rintro rfl
        exact (congrArg Pub.tailInFlight pub).trans ((stationConflict_tailInFlight first).trans (conflictAtLnc_tail slot))
      · rintro metered upd rfl
        obtain ⟨fresh, credit⟩ := conflictAtLnc_credit (s := (s.frameTaken rest).conflictSet) slot metered
        exact (congrArg Pub.credit pub).trans ((stationConflict_credit first fresh).trans credit)
end

section
/-! SUPPORT. Weights, the share and a recomputation of it; with them O15. -/

namespace Sys2Proof.Machine

/-! ## The waiting TAIL image and its refresh timer (R127 to R129) -/

/-- The Publisher with a waiting image and a refresh timer given. -/
def Pub.withTail (p : Pub) (image : Option TailImage) (refresh : Option Ms) : Pub := { p with tailWaiting := image, refreshAt := refresh }

section
variable {s : State}

theorem buildTail_allowed (allowed : s.tailsAllowed = true) :
    s.buildTail.pub = s.pub.withTail (some s.tailImage) (some (s.clock.ms + 2000)) := by
  rw [State.buildTail, if_pos allowed]
  rfl

theorem buildTail_barred (barred : ¬ s.tailsAllowed = true) : s.buildTail = s := if_neg barred

theorem dropTail_allowed (allowed : s.tailsAllowed = true) : s.dropTail = s := if_pos allowed

theorem dropTail_barred (barred : ¬ s.tailsAllowed = true) : s.dropTail.pub = s.pub.withTail none none := by
  rw [State.dropTail, if_neg barred]
  rfl

/-! ## The recomputation (R138) -/

/-- The state weighed anew, a STATION ready where the MUTED flag has changed. -/
def State.shareTold (s : State) : State :=
  if s.mutedFor s.cu.state.weight = s.pub.muted then s.weighed else s.weighed.stationReady

theorem shareTold_pub (s : State) : s.shareTold.pub =
    { s.weighed.pub with
      stationWaiting := if s.mutedFor s.cu.state.weight = s.pub.muted then s.pub.stationWaiting else some 0 } := by
  unfold State.shareTold
  split <;> rfl

theorem frame_shareTold (s : State) : SameBut [.pub] s s.shareTold :=
  frame_ite (frame_setPub _ _) (frame_setPub _ _)

theorem reshare_eq (s : State) : s.reshare =
    if s.mutedFor s.cu.state.weight = s.pub.muted ∨ s.mutedFor s.cu.state.weight = true then s.shareTold.dropTail
    else s.shareTold.dropTail.buildTail := by
  have branches : s.reshare = if s.mutedFor s.cu.state.weight = s.pub.muted then s.weighed.dropTail
      else if s.mutedFor s.cu.state.weight = true then s.weighed.stationReady.dropTail
      else s.weighed.stationReady.dropTail.buildTail := rfl
  rw [branches, State.shareTold]
  split
  · next same => rw [if_pos (Or.inl same)]
  · next changed => simp only [changed, false_or]

/-- TAILs are allowed after the weighing exactly where the new weight is above 0, the node is not MUTED and there is no CONFLICT
(R127). -/
theorem shareTold_allowed : s.shareTold.tailsAllowed = true ↔
    ¬ (s.cu.state.weight = 0 ∨ s.mutedFor s.cu.state.weight = true ∨ s.cu.conflict = true) := by
  rw [tailsAllowed_iff, shareTold_pub, (frame_shareTold s).cu (by decide), Nat.pos_iff_ne_zero, not_or, not_or, Bool.not_eq_true,
    Bool.not_eq_true]
  rfl

theorem reshare_barred (barred : s.cu.state.weight = 0 ∨ s.mutedFor s.cu.state.weight = true ∨ s.cu.conflict = true) :
    s.reshare.pub = s.shareTold.pub.withTail none none := by
  have forbidden : ¬ s.shareTold.tailsAllowed = true := fun allowed => shareTold_allowed.mp allowed barred
  have still : ¬ s.shareTold.dropTail.tailsAllowed = true := by
    rw [State.dropTail, if_neg forbidden]
    exact forbidden
  rw [reshare_eq, buildTail_barred still, ite_self, dropTail_barred forbidden]

section
variable (free : ¬ (s.cu.state.weight = 0 ∨ s.mutedFor s.cu.state.weight = true ∨ s.cu.conflict = true))
include free

theorem reshare_cleared (before : s.pub.muted = true) :
    s.reshare.pub = s.shareTold.pub.withTail (some s.tailImage) (some (s.clock.ms + 2000)) := by
  have allowed := shareTold_allowed.mpr free
  have now : s.mutedFor s.cu.state.weight = false := by simpa using (not_or.mp (not_or.mp free).2).1
  have image : s.shareTold.tailImage = s.tailImage := by
    unfold State.tailImage
    rw [(frame_shareTold s).tb (by decide), (frame_shareTold s).cu (by decide)]
  rw [reshare_eq, now, before, if_neg (by decide), dropTail_allowed allowed, buildTail_allowed allowed, image,
    (frame_shareTold s).clock (by decide)]

theorem reshare_unmuted (before : s.pub.muted = false) : s.reshare.pub = s.shareTold.pub := by
  have now : s.mutedFor s.cu.state.weight = false := by simpa using (not_or.mp (not_or.mp free).2).1
  rw [reshare_eq, now, before, if_pos (Or.inl rfl), dropTail_allowed (shareTold_allowed.mpr free)]

end

end

end Sys2Proof.Machine

open Sys2Proof Sys2Proof.Machine

/-- Settles O15: a recomputation by whether TAILs are allowed at the new weight (`reshare_barred`), and then by whether the node was MUTED
before (`reshare_cleared`, `reshare_unmuted`). -/
theorem weightsGiveTheShare : Obligations.WeightsGiveTheShare := by
  unfold Obligations.WeightsGiveTheShare
  refine ⟨rfl, rfl, rfl, rfl, rfl, fun s own dynamic => ?_, fun s own static => ?_, fun _ _ => rfl, fun s own => ?_, ?_⟩
  · rw [State.weightSumFor, dynamic]
    rfl
  · rw [State.weightSumFor, static]
  · rw [State.mutedFor, Bool.and_eq_true, decide_eq_true_eq, decide_eq_true_eq]
  · rintro s own upd rfl rfl
    refine ⟨frame_reshare s, ?_⟩
    by_cases barred : s.cu.state.weight = 0 ∨ s.mutedFor s.cu.state.weight = true ∨ s.cu.conflict = true
    · rw [reshare_barred barred, shareTold_pub, if_pos barred, if_pos barred]
      rfl
    · cases before : s.pub.muted with
      | true =>
        rw [reshare_cleared barred before, shareTold_pub, if_neg barred, if_neg barred, before]
        rfl
      | false =>
        rw [reshare_unmuted barred before, shareTold_pub, if_neg barred, if_neg barred, before]
        rfl
end

section
/-! SUPPORT. The credit's reach and the timers of the Publisher; with them O37. -/

namespace Sys2Proof.Machine

/-! ## The credit reaches a cost (R139) -/

section
variable {c f share cost : Nat}

theorem creditAfter_credit (c f share d : Nat) : (creditAfter c f share d).1 = min 800 (c + (f + d * share) / 1000) := by
  unfold creditAfter
  split
  · next full => exact (Nat.min_eq_left full).symm
  · next below => exact (Nat.min_eq_right (by omega)).symm

/-- The credit covers a cost of at most 800 once it has grown by what it was short of. -/
theorem covers_iff (low : cost ≤ 800) (short : c < cost) (d : Nat) :
    cost ≤ (creditAfter c f share d).1 ↔ 1000 * (cost - c) ≤ f + d * share := by
  rw [creditAfter_credit]
  omega

/-- `reachTime` is the first number of character times after which the credit has grown by what it was short of. -/
theorem reachTime_le_iff (flows : share ≠ 0) (d : Nat) : reachTime c f share cost ≤ d ↔ 1000 * (cost - c) ≤ f + d * share := by
  have more : (d + 1) * share = d * share + share := Nat.succ_mul d share
  rw [reachTime, ← Nat.lt_succ_iff, Nat.div_lt_iff_lt_mul (Nat.pos_of_ne_zero flows), more]
  omega

theorem covers_iff_reachTime (flows : share ≠ 0) (low : cost ≤ 800) (short : c < cost) (d : Nat) :
    cost ≤ (creditAfter c f share d).1 ↔ reachTime c f share cost ≤ d := by
  rw [covers_iff low short, reachTime_le_iff flows]

end

/-! ## CREDIT_REACH (R139) -/

section
variable {s : State} {cost : Nat}

theorem exec_creditReach (s : State) : exec .creditReach s = .next s.creditReach := rfl

theorem heldCosts_short (least : s.heldCosts.min? = some cost) : s.pub.credit < cost :=
  ((mem_heldCosts s cost).mp (List.min?_mem least)).1

/-- The state at the moment the credit reaches `cost`, the credit brought up to date. -/
def State.reachedCost (s : State) (cost : Nat) : State := (s.reachChars (s.reachAt cost)).updateCredit

theorem creditReach_reaches (least : s.heldCosts.min? = some cost) (flows : s.pub.share ≠ 0) (low : cost ≤ 800) :
    s.creditReach = (s.reachedCost cost).choose := by
  rw [State.creditReach, least]
  exact if_neg (by omega)

theorem creditReach_dry (dry : s.pub.share = 0) : s.creditReach = s := by
  unfold State.creditReach
  split
  · rfl
  · exact if_pos (Or.inl dry)

theorem creditReach_nothingHeld (empty : s.heldCosts = []) : s.creditReach = s := by
  rw [State.creditReach, empty]
  rfl

theorem creditReach_tooDear (least : s.heldCosts.min? = some cost) (dear : 800 < cost) : s.creditReach = s := by
  rw [State.creditReach, least]
  exact if_pos (Or.inr dear)

theorem reachedCost_clock (s : State) (cost : Nat) : (s.reachedCost cost).clock = (s.reachChars (s.reachAt cost)).clock := rfl

theorem reachedCost_credit (s : State) (cost : Nat) : (s.reachedCost cost).pub.credit =
    (creditAfter s.pub.credit s.pub.remainder s.pub.share ((s.reachedCost cost).clock.chars - s.pub.creditMark)).1 := rfl

theorem reachedCost_remainder (s : State) (cost : Nat) : (s.reachedCost cost).pub.remainder =
    (creditAfter s.pub.credit s.pub.remainder s.pub.share ((s.reachedCost cost).clock.chars - s.pub.creditMark)).2 := rfl

theorem frame_reachedCost (s : State) (cost : Nat) : SameBut [.clock, .lnc, .sp, .pub] s (s.reachedCost cost) :=
  (frame_reachChars _ _).chain (frame_updateCredit _) (by decide) (by decide)

theorem reachedCost_sameButCredit (s : State) (cost : Nat) : SameButCredit s.pub (s.reachedCost cost).pub := by
  have credit := updateCredit_credit (s.reachChars (s.reachAt cost))
  rwa [reachChars_pub] at credit

theorem le_reachChars (s : State) (n : Nat) : n ≤ (s.reachChars n).clock.chars := by
  change n ≤ s.clock.chars + (n - s.clock.chars)
  omega

theorem waitingIn_drop {α : Type} (slot : Slot) (x : Source) (queue : List α) :
    slot.waitingIn x queue = queue.drop (if slot.inFlight = some x then 1 else 0) := by
  unfold Slot.waitingIn
  split <;> rfl

theorem mem_waitingAnswers (slot : Slot) (answers : List Answer) (a : Answer) :
    a ∈ slot.waitingAnswers answers ↔ a ∈ answers ∧ slot.inFlight ≠ some (.answer a.number) := by
  simp [Slot.waitingAnswers]

end

/-! ## BEACON_TIMER_EXPIRY and REFRESH_TIMER_EXPIRY (R124, R129) -/

section
variable {s : State} {e : Ms}

theorem exec_beaconTimerExpiry (s : State) : exec .beaconTimerExpiry s = .next s.beaconExpiry := rfl

theorem exec_refreshTimerExpiry (s : State) : exec .refreshTimerExpiry s = .next s.refreshExpiry := rfl

/-- The state at the beacon's expiry: a STATION is ready, the timer runs again. -/
def State.beaconSent (s : State) (e : Ms) : State :=
  (s.reachMs e).setPub { s.pub with stationWaiting := some 0, beaconAt := some ((s.reachMs e).clock.ms + 500) }

theorem beaconExpiry_running (running : s.pub.beaconAt = some e) : s.beaconExpiry = (s.beaconSent e).choose := by
  rw [State.beaconExpiry, running, State.beaconSent, ← reachMs_pub s e]
  rfl

/-- The state at the refresh timer's expiry, the timer stopped. -/
def State.refreshStopped (s : State) (e : Ms) : State := (s.reachMs e).setPub { s.pub with refreshAt := none }

theorem refreshExpiry_running (running : s.pub.refreshAt = some e) : s.refreshExpiry = (s.refreshStopped e).buildTail.choose := by
  rw [State.refreshExpiry, running, State.refreshStopped, ← reachMs_pub s e]

theorem refreshStopped_built : (s.refreshStopped e).buildTail.pub =
    if 0 < s.pub.ownWeight ∧ s.pub.muted = false ∧ s.cu.conflict = false then
      { s.pub with refreshAt := some ((s.reachMs e).clock.ms + 2000), tailWaiting := some s.tailImage }
    else { s.pub with refreshAt := none } := by
  have allowed : (s.refreshStopped e).tailsAllowed = true ↔ 0 < s.pub.ownWeight ∧ s.pub.muted = false ∧ s.cu.conflict = false := by
    have cu : (s.refreshStopped e).cu = s.cu := reachMs_cu s e
    rw [tailsAllowed_iff, cu]
    rfl
  have image : (s.refreshStopped e).tailImage = s.tailImage := by
    simp [State.tailImage, State.refreshStopped]
  by_cases may : (s.refreshStopped e).tailsAllowed = true
  · rw [buildTail_allowed may, image, if_pos (allowed.mp may)]
    rfl
  · rw [buildTail_barred may, if_neg (mt allowed.mpr may)]
    rfl

end

end Sys2Proof.Machine

open Sys2Proof Sys2Proof.Machine

/-- Settles O37: the reach is the first moment the credit covers the cost (`covers_iff_reachTime`); the two timers by the state at their
expiry, the slot's choice after it touching the credit alone. -/
theorem thePublishersTimersActInTime : Obligations.ThePublishersTimersActInTime := by
  unfold Obligations.ThePublishersTimersActInTime
  refine ⟨⟨?reach, ?nothing, ?dear, ?held, creditAfter_add⟩, ?beacon, ?refresh⟩
  case reach =>
    intro s cost least flows low
    have short := heldCosts_short least
    have late := le_reachChars s (s.reachAt cost)
    have covers := covers_iff_reachTime (f := s.pub.remainder) flows low short
    refine ⟨s.reachedCost cost, (exec_creditReach s).trans (congrArg Host.Outcome.next (creditReach_reaches least flows low)),
      frame_reachedCost s cost, reachedCost_sameButCredit s cost, rfl, fun d early => ?_, ?_, rfl, reachedCost_credit s cost,
      reachedCost_remainder s cost⟩
    · rw [State.reachAt] at early
      exact Nat.lt_of_not_le (mt (covers d).mp (by omega))
    · rw [reachedCost_credit, covers, reachedCost_clock]
      rw [State.reachAt] at late ⊢
      omega
  case nothing =>
    rintro s (dry | empty)
    · exact (exec_creditReach s).trans (congrArg Host.Outcome.next (creditReach_dry dry))
    · exact (exec_creditReach s).trans (congrArg Host.Outcome.next (creditReach_nothingHeld empty))
  case dear =>
    intro s cost least dear
    exact (exec_creditReach s).trans (congrArg Host.Outcome.next (creditReach_tooDear least dear))
  case held =>
    intro s cost
    rw [mem_heldCosts, waitingIn_drop]
    simp only [mem_waitingAnswers, and_assoc, State.tailCost, Option.map_eq_some_iff, Frame.cost]
  case beacon =>
    intro s e running
    have chosen := choose_credit (s.beaconSent e)
    refine ⟨_, (exec_beaconTimerExpiry s).trans (congrArg Host.Outcome.next (beaconExpiry_running running)), ?_, choose_clock _, ?_⟩
    · exact ((frame_reachMs s e).chain (frame_setPub _ _) (by decide) (by decide)).trans ((frame_choose _).mono (by decide))
    · rw [choose_clock]
      exact chosen
  case refresh =>
    intro s e running
    have chosen := choose_credit (s.refreshStopped e).buildTail
    refine ⟨_, (exec_refreshTimerExpiry s).trans (congrArg Host.Outcome.next (refreshExpiry_running running)), ?_, ?_, ?_⟩
    · exact ((frame_reachMs s e).chain ((frame_setPub _ _).trans (frame_buildTail _)) (by decide) (by decide)).trans
        ((frame_choose _).mono (by decide))
    · rw [choose_clock, buildTail_clock]
      rfl
    · rw [refreshStopped_built] at chosen
      rw [choose_clock, buildTail_clock]
      exact chosen
end

section
/-! SUPPORT. An ASK taken into the answer set; with them O38. -/

namespace Sys2Proof.Machine

/-! ## The answer set in order (R132) -/

theorem mem_insertAnswer (a x : Answer) (l : List Answer) : x ∈ insertAnswer a l ↔ x = a ∨ x ∈ l := by
  induction l with
  | nil => simp [insertAnswer]
  | cons y l ih =>
    unfold insertAnswer
    split
    · exact List.mem_cons
    · simp only [List.mem_cons, ih, or_left_comm]

theorem insertAnswer_rising {a : Answer} {l : List Answer} (rising : l.Pairwise fun x y => x.number < y.number)
    (fresh : ∀ y ∈ l, y.number ≠ a.number) : (insertAnswer a l).Pairwise fun x y => x.number < y.number := by
  induction l with
  | nil => exact List.pairwise_singleton _ _
  | cons y l ih =>
    obtain ⟨first, rest⟩ := List.pairwise_cons.mp rising
    have other := fresh y List.mem_cons_self
    unfold insertAnswer
    split
    · next below =>
      refine List.pairwise_cons.mpr ⟨fun x later => ?_, rising⟩
      obtain rfl | later := List.mem_cons.mp later
      · exact below
      · exact below.trans (first x later)
    · next above =>
      refine List.pairwise_cons.mpr ⟨fun x later => ?_, ih rest fun x held => fresh x (List.mem_cons_of_mem _ held)⟩
      obtain rfl | later := (mem_insertAnswer a x l).mp later
      · omega
      · exact first x later

/-! ## One number of an ASK (R132) -/

/-- The answer that a number of an ASK enters: the line of the committed ring, or GONE. -/
def Tb.answer (t : Tb) (n : Nat) : Answer := { number := n, form := t.answerForm n, attempts := 0 }

theorem eq_answer_iff (t : Tb) (n : Nat) (x : Answer) :
    x = t.answer n ↔ x.number = n ∧ x.attempts = 0 ∧ x.form =
      match t.ring.find? fun l => decide (l.series = .record) && decide (l.number = n) with
      | some l => .held l.brk l.text
      | none => .gone := by
  obtain ⟨number, form, attempts⟩ := x
  simp only [Tb.answer, Answer.mk.injEq, and_comm (a := attempts = 0)]
  rfl

/-- The number has no answer in the set yet. -/
def Pub.lacks (p : Pub) (n : Nat) : Bool := decide (∀ y ∈ p.answers, y.number ≠ n)

theorem lacks_iff (p : Pub) (n : Nat) : p.lacks n = true ↔ ∀ y ∈ p.answers, y.number ≠ n := decide_eq_true_iff

section
variable {s : State} {n : Nat}

theorem askFor_held (held : s.pub.lacks n = false) : s.askFor n = s := by
  refine if_pos ?_
  simpa [Pub.lacks] using held

theorem askFor_eq (new : s.pub.lacks n = true) : s.askFor n =
    if s.pub.answers.length < 32 then s.setPub { s.pub with answers := insertAnswer (s.tb.answer n) s.pub.answers }
    else s.setPub { s.pub with answersDropped := satSucc s.pub.answersDropped } := by
  refine if_neg ?_
  simpa [Pub.lacks] using new

end

/-! ## The numbers of an ASK, one after another -/

/-- The answer set and the dropped count after the numbers `new`, none of them in the set before. -/
def AnswersFilled (t : Tb) (p q : Pub) (new : List Nat) : Prop :=
  (∀ x, x ∈ q.answers ↔ x ∈ p.answers ∨ ∃ n ∈ new.take (32 - p.answers.length), x = t.answer n)
  ∧ q.answers.length = p.answers.length + (new.take (32 - p.answers.length)).length
  ∧ (p.answers.Pairwise (fun x y => x.number < y.number) → q.answers.Pairwise fun x y => x.number < y.number)
  ∧ q.answersDropped = satSucc^[new.length - (32 - p.answers.length)] p.answersDropped

theorem AnswersFilled.nil (t : Tb) (p : Pub) : AnswersFilled t p p [] := by
  simp [AnswersFilled]

/-- A number that finds room enters the set. -/
theorem AnswersFilled.enter {t : Tb} {p q : Pub} {n : Nat} {new : List Nat} (room : p.answers.length < 32) (lacks : p.lacks n = true)
    (h : AnswersFilled t { p with answers := insertAnswer (t.answer n) p.answers } q new) : AnswersFilled t p q (n :: new) := by
  obtain ⟨mem, length, rising, dropped⟩ := h
  obtain ⟨r, left⟩ : ∃ r, 32 - p.answers.length = r + 1 := ⟨31 - p.answers.length, by omega⟩
  have left' : 32 - (insertAnswer (t.answer n) p.answers).length = r := by rw [length_insertAnswer]; omega
  dsimp only at mem length rising dropped
  rw [left'] at mem length dropped
  rw [length_insertAnswer] at length
  refine ⟨fun x => ?_, ?_, fun sorted => rising (insertAnswer_rising sorted ((lacks_iff p n).mp lacks)), ?_⟩
  · rw [mem, mem_insertAnswer, left, List.take_succ_cons]
    simp only [List.mem_cons, exists_eq_or_imp]
    tauto
  · rw [length, left, List.take_succ_cons, List.length_cons]
    omega
  · rw [dropped, left, List.length_cons, Nat.add_sub_add_right]

/-- A number that finds the set full is counted as dropped. -/
theorem AnswersFilled.drop {t : Tb} {p q : Pub} {n : Nat} {new : List Nat} (full : 32 ≤ p.answers.length)
    (h : AnswersFilled t { p with answersDropped := satSucc p.answersDropped } q new) : AnswersFilled t p q (n :: new) := by
  have left : 32 - p.answers.length = 0 := Nat.sub_eq_zero_of_le full
  unfold AnswersFilled at h ⊢
  dsimp only at h
  rw [left] at h ⊢
  exact h

theorem askFor_filled (ns : List Nat) (distinct : ns.Nodup) (s : State) :
    AnswersFilled s.tb s.pub (ns.foldl State.askFor s).pub (ns.filter s.pub.lacks) := by
  induction ns generalizing s with
  | nil => exact AnswersFilled.nil _ _
  | cons n ns ih =>
    obtain ⟨other, distinct⟩ := List.nodup_cons.mp distinct
    rw [List.foldl_cons]
    cases lacks : s.pub.lacks n with
    | false =>
      rw [askFor_held lacks, List.filter_cons_of_neg (by simp [lacks])]
      exact ih distinct s
    | true =>
      rw [askFor_eq lacks, List.filter_cons_of_pos lacks]
      split
      · next room =>
        have same : ns.filter s.pub.lacks =
            ns.filter { s.pub with answers := insertAnswer (s.tb.answer n) s.pub.answers : Pub }.lacks := by
          refine List.filter_congr fun m listed => Bool.eq_iff_iff.mpr ?_
          have apart : n ≠ m := fun e => other (e ▸ listed)
          simp only [lacks_iff, mem_insertAnswer, forall_eq_or_imp]
          exact (and_iff_right apart).symm
        rw [same]
        exact (ih distinct (s.setPub _)).enter room lacks
      · next full => exact (ih distinct (s.setPub _)).drop (Nat.le_of_not_lt full)

/-! ## DELIVER_ASK (R132) -/

/-- The Publisher `q` is `p` but for the answer set and the count of answers dropped. -/
def SameButAnswers (p q : Pub) : Prop := q = { p with answers := q.answers, answersDropped := q.answersDropped }

theorem SameButAnswers.refl (p : Pub) : SameButAnswers p p := rfl

theorem SameButAnswers.trans {p q r : Pub} (h : SameButAnswers p q) (k : SameButAnswers q r) : SameButAnswers p r := by
  unfold SameButAnswers at *
  rw [k, h]

theorem askFor_sameButAnswers (s : State) (n : Nat) : SameButAnswers s.pub (s.askFor n).pub := by
  unfold State.askFor
  split
  · exact SameButAnswers.refl _
  · split <;> rfl

theorem foldl_askFor_sameButAnswers (ns : List Nat) (s : State) : SameButAnswers s.pub (ns.foldl State.askFor s).pub := by
  induction ns generalizing s with
  | nil => exact SameButAnswers.refl _
  | cons n ns ih => exact (askFor_sameButAnswers s n).trans (ih _)

/-- The record lines of an ASK's range, in order. -/
def AskBody.lines (a : AskBody) : List Nat := (List.range' a.first a.count).filter fun n => decide (n ≤ maxLine)

theorem AskBody.lines_nodup (a : AskBody) : a.lines.Nodup := List.Nodup.filter _ List.nodup_range'

section
variable {s : State} {a : AskBody}

theorem takeAsk_ignored (ignored : s.cu.conflict = true ∨ a.count = 0 ∨ 8 < a.count ∨ a.first = 0) : s.takeAsk a = s := by
  unfold State.takeAsk
  split
  · rfl
  · next sound => exact if_pos (ignored.resolve_left sound)

theorem takeAsk_sound (sound : s.cu.conflict = false) (low : 1 ≤ a.count) (high : a.count ≤ 8) (first : 1 ≤ a.first) :
    s.takeAsk a = a.lines.foldl State.askFor s := by
  rw [State.takeAsk, sound, if_neg (by decide), if_neg (by omega)]
  rfl

theorem takeAsk_sameButAnswers (s : State) (a : AskBody) : SameButAnswers s.pub (s.takeAsk a).pub := by
  unfold State.takeAsk
  split
  · exact SameButAnswers.refl _
  · split
    · exact SameButAnswers.refl _
    · exact foldl_askFor_sameButAnswers _ _

end

theorem exec_deliverAsk (s : State) : exec .deliverAsk s = .next s.deliverAsk := rfl

/-- The state in which the oldest frame, an ASK of body `body`, has been taken. -/
def State.askTaken (s : State) (rest : List Frame) (body : List Byte) : State :=
  (s.frameTaken rest).takeBody (AskBody.parse body) State.takeAsk

theorem deliverAsk_eq {s : State} {f : Frame} {rest : List Frame} (queue : s.lnc.queue = f :: rest) (kind : f.kind = .ask) :
    s.deliverAsk = (s.askTaken rest f.body).choose := by
  simp only [State.deliverAsk, State.deliver, queue, if_pos kind]
  rfl

section
variable {s : State} {rest : List Frame} {body : List Byte}

theorem askTaken_unsound (unsound : AskBody.parse body = none) : s.askTaken rest body = s.frameTaken rest := by
  rw [State.askTaken, unsound]
  rfl

theorem askTaken_sound {a : AskBody} (parsed : AskBody.parse body = some a) :
    s.askTaken rest body = (s.frameTaken rest).takeAsk a := by
  rw [State.askTaken, parsed]
  rfl

theorem frame_askTaken (s : State) (rest : List Frame) (body : List Byte) : SameBut [.pub] (s.frameTaken rest) (s.askTaken rest body) :=
  frame_takeBody _ _ fun _ => frame_takeAsk _ _

theorem askTaken_sameButAnswers (s : State) (rest : List Frame) (body : List Byte) :
    SameButAnswers s.pub (s.askTaken rest body).pub := by
  cases parsed : AskBody.parse body with
  | none => rw [askTaken_unsound parsed]; rfl
  | some a => rw [askTaken_sound parsed]; exact takeAsk_sameButAnswers _ a

end

end Sys2Proof.Machine

open Sys2Proof Sys2Proof.Machine

/-- Settles O38: an ASK with a count and a first line in range fills the set number by number (`askFor_filled`); any other is ignored. -/
theorem anAskFillsTheAnswerSet : Obligations.AnAskFillsTheAnswerSet := by
  unfold Obligations.AnAskFillsTheAnswerSet
  intro s f rest queue kind
  refine ⟨s.askTaken rest f.body, (exec_deliverAsk s).trans (congrArg Host.Outcome.next (deliverAsk_eq queue kind)),
    (frame_setLnc _ _).chain (frame_askTaken s rest f.body) (by decide) (by decide), (frame_askTaken s rest f.body).lnc (by decide),
    askTaken_sameButAnswers s rest f.body, fun unsound => ?_, fun a parsed ignored => ?_, ?_⟩
  · rw [askTaken_unsound unsound]
    rfl
  · rw [askTaken_sound parsed, takeAsk_ignored (s := s.frameTaken rest) ignored]
    rfl
  · rintro a parsed calm low high first new room listed rfl
    have fresh : a.lines.filter s.pub.lacks = new := by
      rw [listed, AskBody.lines, List.filter_filter]
      exact List.filter_congr fun n _ => Bool.and_comm _ _
    have filled : AnswersFilled s.tb s.pub (s.askTaken rest f.body).pub (a.lines.filter s.pub.lacks) := by
      rw [askTaken_sound parsed, takeAsk_sound (s := s.frameTaken rest) calm low high first]
      exact askFor_filled a.lines a.lines_nodup (s.frameTaken rest)
    obtain ⟨mem, length, rising, dropped⟩ := filled
    simp only [fresh, eq_answer_iff] at mem length dropped
    exact ⟨mem, length, rising, dropped⟩
end

section
/-! SUPPORT. A roster slot that lapses or is freed, and what its readers do then; with them O41. -/

namespace Sys2Proof.Machine

/-! ## Marks and images of a slot given up -/

theorem mark_setMark_none (v : Viewer) (i : Nat) : (v.setMark i .none).mark i = .none := by
  unfold Viewer.mark Viewer.setMark
  rw [Vector.getElem?_setIfInBounds, if_pos rfl]
  split <;> rfl

theorem tail_setTail_none (v : Viewer) (i : Nat) : (v.setTail i none).tail i = none := by
  unfold Viewer.tail Viewer.setTail
  rw [Vector.getElem?_setIfInBounds, if_pos rfl]
  split <;> rfl

/-! ## The readers are told (R147) -/

section
variable {s t u v w : State} {n : Nat}

/-- A choice of the followed holder made from `u` to `v` stands between `s` and `t`, where what goes before and after it touches neither
the holder followed nor the latch of a change. -/
theorem Refollowed.between (h : Refollowed u v) (followed : u.vw.followed = s.vw.followed) (reach : u.vw.reach = s.vw.reach)
    (own : u.own = s.own) (before : LatchesBut [15] s u) (after : SameBut [.pub, .lnc, .sp] v t) : Refollowed s t := by
  have cfg := after.cfg (by decide)
  have vw := after.vw (by decide)
  have choice : t.followChoice = v.followChoice :=
    followChoice_congr v t cfg (after.cu (by decide)) (after.roster (by decide)) (congrArg Viewer.marks vw)
  have station : t.followStation = v.followStation := by
    funext x
    cases x with
    | none => rfl
    | some y =>
      cases y with
      | station n => rfl
      | self => exact after.own (by decide)
  have online : t.online = v.online := after.online (by decide)
  obtain ⟨chosen, changed, same⟩ := h
  rw [followed, own] at changed
  rw [followed, reach] at same
  refine ⟨fun on viewer => ?_, fun change => ?_, fun stays => ?_⟩
  · rw [vw, choice]
    exact chosen (online ▸ on) (cfg ▸ viewer)
  · rw [vw] at change ⊢
    obtain ⟨told, self⟩ := changed change
    rw [station, after.tb (by decide)]
    exact ⟨(told.after before (by decide) (by decide)).keep (after.noLatch (ps := []) (by decide)) (by decide) (by decide), self⟩
  · rw [vw] at stays ⊢
    exact same stays

theorem Weighed.after (h : Weighed v) (k : SameBut [.pub, .lnc, .sp] v t) (share : SameShare v.pub t.pub) : Weighed t :=
  h.of_same share (congrArg Cu.state (k.cu (by decide))) (k.cfg (by decide)) (k.roster (by decide))

theorem offered_share (u : State) : SameShare u.pub u.offered.pub := by
  rw [State.offered, compose_pub]
  exact choose_share u

theorem offered_credit (u : State) : SameButCredit u.pub u.offered.pub := by
  rw [State.offered, compose_pub]
  exact choose_credit u

/-- The readers of a roster change since `s`, told at `w`, which has changed nothing else that they read. -/
theorem toldLeft_of_tellLeft (cu : w.cu = s.cu) (own : w.own = s.own) (followed : w.vw.followed = s.vw.followed)
    (reach : w.vw.reach = s.vw.reach) (latches : LatchesBut [15] s w) : ToldLeft s (w.tellLeft n).offered n := by
  obtain ⟨v, tell, vw, lcp, -, -, weighed, stays, leaves⟩ := tellLeft_spec w n
  have offered := frame_offered v.follow
  have cuEnd : v.follow.offered.cu = v.cu := (offered.cu (by decide)).trans (follow_cu v)
  have station : v.follow.offered.pub.stationWaiting = v.pub.stationWaiting := by
    rw [(offered_credit v.follow).stationWaiting, follow_pub]
  have ownV : v.own = s.own := by
    rw [← own]
    unfold State.own State.cfg
    rw [lcp]
  have latchesV : LatchesBut [15] s v := by
    intro p low other
    rw [lcp]
    exact latches p low other
  rw [cu] at stays leaves
  rw [tell]
  refine ⟨fun apart => cuEnd.trans (stays apart), fun gathering listed left leftIs => ?_, ?_, ?_⟩
  · rw [cuEnd, station]
    exact leaves gathering listed left leftIs
  · have followWeighed : Weighed v.follow :=
      weighed.of_same (by rw [follow_pub]; exact ⟨rfl, rfl, rfl, rfl⟩) (by rw [follow_cu]) (follow_cfg v) (follow_roster v)
    exact followWeighed.after offered (offered_share _)
  · exact (follow_refollowed v).between (by rw [vw, followed]) (by rw [vw, reach]) ownV latchesV offered

theorem tellLeft_views (w : State) (n : Nat) : SameViews w.vw (w.tellLeft n).vw := by
  obtain ⟨v, tell, vw, -⟩ := tellLeft_spec w n
  rw [tell, ← vw]
  exact follow_views v

end

/-! ## What both timers come to (R146) -/

section
variable {s w : State} {i : Nat} {station : Nat} {change : RosterChange} {e : Ms} {slot : Option RosterSlot}

/-- The state `w` at the expiry `e`, with `slot` in slot `i`, its mark gone, and `change` told of `station`. -/
structure SlotChanged (s w : State) (i : Nat) (e : Ms) (slot : Option RosterSlot) (station : Nat) (change : RosterChange) : Prop where
  frame : SameBut [.clock, .lnc, .sp, .roster, .vw, .latches] s w
  clock : w.clock = (s.reachMs e).clock
  roster : w.roster = s.roster.setSlot i slot
  mark : w.vw.mark i = .none
  followed : w.vw.followed = s.vw.followed
  reach : w.vw.reach = s.vw.reach
  lcp : w.lcp = s.lcp.latched (.rosterChanged station change)

theorem SlotChanged.told (h : SlotChanged s w i e slot station change) (inside : i < 16) :
    SameBut [.clock, .lnc, .sp, .roster, .vw, .pub, .cu, .latches] s (w.tellLeft station).offered
    ∧ (w.tellLeft station).offered.clock = (s.reachMs e).clock
    ∧ (w.tellLeft station).offered.roster.slot i = slot
    ∧ (∀ j, j ≠ i → (w.tellLeft station).offered.roster.slot j = s.roster.slot j)
    ∧ (w.tellLeft station).offered.vw.mark i = .none
    ∧ (w.tellLeft station).offered.vw.tail i = w.vw.tail i
    ∧ Latched s (w.tellLeft station).offered 15 (.rosterChanged station change)
    ∧ ToldLeft s (w.tellLeft station).offered station := by
  have tell := frame_tellLeft w station
  have offered := frame_offered (w.tellLeft station)
  have roster : (w.tellLeft station).offered.roster = s.roster.setSlot i slot :=
    (offered.roster (by decide)).trans ((tell.roster (by decide)).trans h.roster)
  have latched : Latched s w 15 (.rosterChanged station change) := latched_of_lcp h.lcp
  have vw := offered.vw (by decide)
  obtain ⟨marks, tails, -⟩ := tellLeft_views w station
  refine ⟨(h.frame.chain tell (zs := [.clock, .lnc, .sp, .roster, .vw, .pub, .cu, .latches]) (by decide) (by decide)).trans
      (offered.mono (by decide)), (offered.clock (by decide)).trans ((tell.clock (by decide)).trans h.clock), ?_, fun j other => ?_, ?_,
    ?_, ?_, ?_⟩
  · rw [roster, roster_setSlot, if_pos ⟨rfl, inside⟩]
  · rw [roster, roster_setSlot, if_neg fun same => other same.1.symm]
  · rw [← h.mark, State.offered, vw, Viewer.mark, marks]
    rfl
  · rw [State.offered, vw, Viewer.tail, tails]
    rfl
  · exact (latched.keep (latches_tellLeft w station) (by decide) (by decide)).keep (offered.noLatch (ps := []) (by decide)) (by decide)
      (by decide)
  · refine toldLeft_of_tellLeft (h.frame.cu (by decide)) (h.frame.own (by decide)) h.followed h.reach fun p low other => ?_
    rw [h.lcp]
    exact latches_latch s (.rosterChanged station change) p low other

end

/-! ## The two expiries -/

section
variable {s : State} {i : Nat} {q : RosterSlot} {e : Ms}

theorem exec_lapseTimerExpiry (i : Nat) (s : State) : exec (.lapseTimerExpiry i) s = .next (s.lapseExpiry i) := rfl

theorem exec_freeTimerExpiry (i : Nat) (s : State) : exec (.freeTimerExpiry i) s = .next (s.freeExpiry i) := rfl

/-- A slot that has lapsed at `now` (R146). -/
def RosterSlot.lapsedAtTime (q : RosterSlot) (now : Ms) : RosterSlot :=
  { q with state := .lapsed, lapseAt := none, lapsedAt := some now, freeAt := some (now + 30000) }

/-- The state in which slot `i`, which held `q`, has lapsed at `e`. -/
def State.slotLapsed (s : State) (i : Nat) (q : RosterSlot) (e : Ms) : State :=
  (((s.reachMs e).setSlot i (some (q.lapsedAtTime (s.reachMs e).clock.ms))).setVw (s.vw.setMark i .none)).latch
    (.rosterChanged q.station .lapsed)

theorem lapseExpiry_running (held : s.roster.slot i = some q) (running : q.lapseAt = some e) :
    s.lapseExpiry i = ((s.slotLapsed i q e).tellLeft q.station).offered := by
  have vw : ∀ x, ((s.reachMs e).setSlot i x).vw = s.vw := fun x => reachMs_vw s e
  simp only [State.lapseExpiry, held, running, vw]
  rfl

theorem freeExpiry_running (held : s.roster.slot i = some q) (running : q.freeAt = some e) :
    s.freeExpiry i = (((s.reachMs e).removeSlot i q).tellLeft q.station).offered := by
  simp only [State.freeExpiry, held, running]
  rfl

theorem frame_slotLapsed (s : State) (i : Nat) (q : RosterSlot) (e : Ms) :
    SameBut [.roster, .vw, .latches] (s.reachMs e) (s.slotLapsed i q e) :=
  SameBut.chain (xs := [.roster, .vw]) ((frame_setSlot _ _ _).chain (frame_setVw _ _) (by decide) (by decide)) (frame_latch _ _)
    (by decide) (by decide)

theorem slotLapsed_vw (s : State) (i : Nat) (q : RosterSlot) (e : Ms) : (s.slotLapsed i q e).vw = s.vw.setMark i .none :=
  latch_vw _ _

theorem slotLapsed_changed (s : State) (i : Nat) (q : RosterSlot) (e : Ms) :
    SlotChanged s (s.slotLapsed i q e) i e (some (q.lapsedAtTime (s.reachMs e).clock.ms)) q.station .lapsed where
  frame := (frame_reachMs s e).chain (frame_slotLapsed s i q e) (by decide) (by decide)
  clock := (frame_slotLapsed s i q e).clock (by decide)
  roster := by
    refine (latch_roster _ _).trans ?_
    rw [State.setVw_roster, State.setSlot, State.setRoster_roster, reachMs_roster]
  mark := by rw [slotLapsed_vw, mark_setMark_none]
  followed := by rw [slotLapsed_vw]; rfl
  reach := by rw [slotLapsed_vw]; rfl
  lcp := by
    change ((s.reachMs e).lcp).latched _ = _
    rw [reachMs_lcp]

theorem removeSlot_vw (s : State) (i : Nat) (q : RosterSlot) :
    (s.removeSlot i q).vw = (s.vw.setMark i .none).setTail i none := latch_vw _ _

theorem removeSlot_changed (s : State) (i : Nat) (q : RosterSlot) (e : Ms) :
    SlotChanged s ((s.reachMs e).removeSlot i q) i e none q.station .removed where
  frame := (frame_reachMs s e).chain (frame_removeSlot _ _ _) (by decide) (by decide)
  clock := (frame_removeSlot _ _ _).clock (by decide)
  roster := by
    refine (latch_roster _ _).trans ?_
    rw [State.setVw_roster, State.setSlot, State.setRoster_roster, reachMs_roster]
  mark := by
    rw [removeSlot_vw]
    exact mark_setMark_none _ i
  followed := by rw [removeSlot_vw, reachMs_vw]; rfl
  reach := by rw [removeSlot_vw, reachMs_vw]; rfl
  lcp := by
    change ((s.reachMs e).lcp).latched _ = _
    rw [reachMs_lcp]

theorem removeSlot_tail (s : State) (i : Nat) (q : RosterSlot) : (s.removeSlot i q).vw.tail i = none := by
  rw [removeSlot_vw]
  exact tail_setTail_none _ i

end

end Sys2Proof.Machine

open Sys2Proof Sys2Proof.Machine

/-- Settles O41: at either expiry the slot changes (`slotLapsed_changed`, `removeSlot_changed`), and the readers are told
(`SlotChanged.told`). -/
theorem slotsLapseAndAreFreed : Obligations.SlotsLapseAndAreFreed := by
  unfold Obligations.SlotsLapseAndAreFreed
  constructor
  · intro s i q e _ held running
    obtain ⟨frame, clock, slot, others, mark, -, latched, told⟩ := (slotLapsed_changed s i q e).told (slot_lt _ _ _ held)
    refine ⟨_, (exec_lapseTimerExpiry i s).trans (congrArg Host.Outcome.next (lapseExpiry_running held running)), frame, clock, ?_,
      others, mark, latched, told⟩
    rw [slot, clock]
    rfl
  · intro s i q e _ held running
    obtain ⟨frame, clock, slot, others, mark, tail, latched, told⟩ := (removeSlot_changed s i q e).told (slot_lt _ _ _ held)
    exact ⟨_, (exec_freeTimerExpiry i s).trans (congrArg Host.Outcome.next (freeExpiry_running held running)), frame, clock, slot, others,
      mark, tail.trans (removeSlot_tail _ i q), latched, told⟩
end

section
/-! SUPPORT. The custody requests of the host: where they apply, and what each does there; with them O57. -/

namespace Sys2Proof.Machine

/-! ## Requests taken (R151) -/

theorem takenIn_custody {s : State} (online : s.online = true) : takenIn 9 s.online = true := by rw [online]; decide

section
variable {s : State} {q : CustodyRequest} {k : Byte}

theorem requestApplies_iff (s : State) (q : CustodyRequest) : s.requestApplies q = true ↔
    s.cfg.writer = true ∧ s.cu.conflict = false ∧ q.appliesIn s.cu.state s.cu.handOver = true := by
  simp only [State.requestApplies, State.inCustody, Bool.and_eq_true, Bool.not_eq_true', and_assoc]

/-- A request with further bytes. -/
theorem custody_range {rs : List Byte} (idle : s.lcp.inFlight = none) (online : s.online = true) (further : rs ≠ [])
    (short : rs.length ≤ 263) : OnlyAnswers s (s.custody k rs q) 9 (k :: rs) .range :=
  takeCommand_range (fun u _ => u.hostRequest q) idle (Nat.succ_le_succ short) (takenIn_custody online) (noParams_of_ne further)

theorem custody_taken (idle : s.lcp.inFlight = none) (online : s.online = true) :
    s.custody k [] q = (s.taking 9 [k]).hostRequest q :=
  takeCommand_checked (fun u _ => u.hostRequest q) idle (Nat.le_of_ble_eq_true rfl) (takenIn_custody online) (rfl : noParams [] = some ())

theorem custody_badState (idle : s.lcp.inFlight = none) (online : s.online = true)
    (barred : s.cfg.writer = false ∨ s.cu.conflict = true ∨ q.appliesIn s.cu.state s.cu.handOver = false) :
    OnlyAnswers s (s.custody k [] q) 9 [k] .badState := by
  rw [custody_taken idle online]
  refine if_neg fun applies => ?_
  obtain ⟨writer, calm, may⟩ := (requestApplies_iff (s.taking 9 [k]) q).mp applies
  obtain other | conflict | outside := barred
  · exact absurd (writer.symm.trans other) (by decide)
  · exact absurd (calm.symm.trans conflict) (by decide)
  · exact absurd (may.symm.trans outside) (by decide)

/-- The state in which a request has been carried out and answered. -/
def State.requestDone (s : State) (k : Byte) (q : CustodyRequest) : State :=
  ((((s.taking 9 [k]).carryOut q).flushFor q).reply q.reply []).offered

theorem custody_applies (idle : s.lcp.inFlight = none) (online : s.online = true) (writer : s.cfg.writer = true)
    (calm : s.cu.conflict = false) (applies : q.appliesIn s.cu.state s.cu.handOver = true) :
    s.custody k [] q = s.requestDone k q := by
  have may : (s.taking 9 [k]).requestApplies q = true := (requestApplies_iff (s.taking 9 [k]) q).mpr ⟨writer, calm, applies⟩
  have carried : (s.taking 9 [k]).takeRequest q = (s.taking 9 [k]).carryOut q := if_pos may
  rw [custody_taken idle online, State.hostRequest, if_pos may, carried]
  rfl

end

/-! ## What a request that applies comes to -/

theorem SameBut.inFlight {xs : List Part} {s t : State} (h : SameBut xs s t) (hx : Part.lcp ∉ xs) : t.lcp.inFlight = s.lcp.inFlight :=
  (congrArg Lcp.inFlight (h.port hx) :)

/-- `t` is `s` with the request taken, carried out as far as `v`, and answered `c`. -/
structure Requested (s v t : State) (xs : List Part) (k : Byte) (c : ReplyCode) : Prop where
  frame : SameBut ([.lcp, .lnc, .pub, .sp] ++ xs) s t
  inFlight : InFlight t 9 [k]
  answers : Answers t c []
  cu : t.cu = v.cu
  custodyList : t.lnc.custodyList = v.lnc.custodyList
  station : t.pub.stationWaiting = v.pub.stationWaiting
  weight : t.pub.ownWeight = v.pub.ownWeight

theorem requestDone_requested {s : State} {xs : List Part} {k : Byte} {q : CustodyRequest} (other : q ≠ .release)
    (carried : SameBut xs (s.taking 9 [k]) ((s.taking 9 [k]).carryOut q)) (port : Part.lcp ∉ xs) :
    Requested s ((s.taking 9 [k]).carryOut q) (s.requestDone k q) xs k q.reply := by
  have noFlush : ((s.taking 9 [k]).carryOut q).flushFor q = (s.taking 9 [k]).carryOut q := by
    cases q with
    | release => exact absurd rfl other
    | claim | enterShadow | leaveShadow | hold | unhold => rfl
  have ends := frame_offered (((s.taking 9 [k]).carryOut q).reply q.reply [])
  have lcp := ends.lcp (by decide) (by decide)
  have credit := offered_credit (((s.taking 9 [k]).carryOut q).reply q.reply [])
  have list : (((s.taking 9 [k]).carryOut q).reply q.reply []).offered.lnc.custodyList =
      (((s.taking 9 [k]).carryOut q).reply q.reply []).lnc.custodyList := by
    rw [State.offered, compose_lnc]
    exact (choose_slot _).custodyList
  rw [State.requestDone, noFlush]
  refine { frame := ?_, inFlight := ?_, answers := ?_, cu := ends.cu (by decide), custodyList := list, station := credit.stationWaiting,
           weight := credit.ownWeight }
  · refine SameBut.chain (xs := [.lcp] ++ xs) ?_ ends (by simp +contextual) (by simp)
    exact SameBut.chain ((frame_taking s 9 [k]).chain carried (zs := [.lcp] ++ xs) (by simp) (by simp +contextual)) (frame_reply _ _ _)
      (by simp) (by simp)
  · exact (inFlight_taking s 9 (Nat.le_of_ble_eq_true rfl)).keep ((congrArg Lcp.inFlight lcp).trans (carried.inFlight port))
  · exact (congrArg Lcp.response lcp).trans rfl

/-! ## CLAIM (R153) -/

section
variable {s : State}

theorem handCustody_last (s : State) (k : CustodyFrameKind) (f : Frame) :
    (s.handCustody k f).lnc.custodyList.getLast? = some { kind := k, frame := f, attempts := 0 } := List.getLast?_concat

theorem beginClaim_cu (s : State) : s.beginClaim.cu =
    { s.cu with state := .claiming, prior := some s.cu.state,
                claimAt := some (s.clock.ms + BitVec.ofNat 32 (1000 * s.cfg.claimWait)) } := by
  rw [State.beginClaim, setCustody_cu]
  rfl

theorem beginClaim_last (s : State) : s.beginClaim.lnc.custodyList.getLast? =
    some { kind := .claim, frame := claimFrame s.cfg s.tb.horizon, attempts := 0 } := by
  rw [State.beginClaim, setCustody_lnc]
  exact handCustody_last _ _ _

theorem beginClaim_station (s : State) : s.beginClaim.pub.stationWaiting = some 0 := setCustody_station _ _

/-! ## HOLD and UNHOLD (R124, R152) -/

theorem setHold_cu (s : State) (b : Bool) : (s.setHold b).cu = { s.cu with hold := b } := by
  unfold State.setHold
  split
  · next same => rw [← same]
  · rfl

theorem setHold_station {b : Bool} (change : s.cu.hold ≠ b) : (s.setHold b).pub.stationWaiting = some 0 := by
  rw [State.setHold, if_neg change]
  rfl

theorem holdRequest_gathering (gathering : s.cu.state = .releasing ∧ s.cu.handOver = .gathering) :
    s.holdRequest = (s.setHold true).refuseGathered := if_pos gathering

theorem holdRequest_else (other : ¬ (s.cu.state = .releasing ∧ s.cu.handOver = .gathering)) : s.holdRequest = s.setHold true :=
  if_neg other

/-- The REFUSE with reason HOLD to station `n`, as it joins the custody list. -/
def Settings.holdRefusal (g : Settings) (n : Nat) : CustodyFrame := { kind := .refuse n, frame := refuseFrame g n .hold, attempts := 0 }

/-- The custody list with the REFUSE to station `n` handed to it. -/
def withRefusal (g : Settings) (inFlight : Bool) (l : List CustodyFrame) (n : Nat) : List CustodyFrame :=
  dropWaiting (.refuse n) inFlight l ++ [g.holdRefusal n]

theorem mem_dropWaiting {k : CustodyFrameKind} {inFlight : Bool} {x : CustodyFrame} {l : List CustodyFrame} (held : x ∈ l)
    (other : x.kind ≠ k) : x ∈ dropWaiting k inFlight l := by
  have stays : ∀ m : List CustodyFrame, x ∈ m → x ∈ m.filter fun y => decide (y.kind ≠ k) := fun m listed =>
    List.mem_filter.mpr ⟨listed, decide_eq_true other⟩
  cases l with
  | nil => exact held
  | cons y l =>
    cases inFlight with
    | false => exact stays _ held
    | true => exact List.mem_cons.mpr ((List.mem_cons.mp held).imp_right (stays l))

/-- A REFUSE in the list stays there through further ones: only one to the same station replaces it, by its equal. -/
theorem holdRefusal_mem_withRefusal {g : Settings} {inFlight : Bool} {l : List CustodyFrame} {n : Nat} (m : Nat)
    (held : g.holdRefusal n ∈ l) : g.holdRefusal n ∈ withRefusal g inFlight l m := by
  by_cases same : n = m
  · exact List.mem_append_right _ (List.mem_singleton.mpr (congrArg g.holdRefusal same))
  · refine List.mem_append_left _ (mem_dropWaiting held fun kinds => same ?_)
    exact CustodyFrameKind.refuse.inj kinds

theorem holdRefusal_mem_foldl {g : Settings} {inFlight : Bool} {cs : List Claim} {l : List CustodyFrame} {n : Nat}
    (held : g.holdRefusal n ∈ l ∨ ∃ c ∈ cs, c.station = n) :
    g.holdRefusal n ∈ cs.foldl (fun l c => withRefusal g inFlight l c.station) l := by
  induction cs generalizing l with
  | nil => exact held.resolve_right (by simp)
  | cons c cs ih =>
    refine ih ?_
    obtain held | ⟨x, listed, rfl⟩ := held
    · exact Or.inl (holdRefusal_mem_withRefusal _ held)
    · obtain rfl | listed := List.mem_cons.mp listed
      · exact Or.inl (List.mem_append_right _ (List.mem_singleton.mpr rfl))
      · exact Or.inr ⟨x, listed, rfl⟩

/-- The claims `cs` are refused with reason HOLD, one after another. -/
def State.refuseAll (s : State) (cs : List Claim) : State := cs.foldl (fun t c => t.refuse c.station .hold) s

theorem frame_refuseAll (s : State) (cs : List Claim) : SameBut [.lnc] s (s.refuseAll cs) :=
  SameBut.foldl (fun t (c : Claim) => t.refuse c.station .hold) (fun t c => frame_refuse t c.station .hold) cs s

theorem refuseAll_custodyList (s : State) (cs : List Claim) : (s.refuseAll cs).lnc.custodyList =
    cs.foldl (fun l c => withRefusal s.cfg (decide (s.lnc.slot.inFlight = some .custody)) l c.station) s.lnc.custodyList := by
  induction cs generalizing s with
  | nil => rfl
  | cons c cs ih => exact ih (s.refuse c.station .hold)

theorem refuseGathered_eq (s : State) : s.refuseGathered =
    ((s.refuseAll s.cu.claims).setCu { (s.refuseAll s.cu.claims).cu with claims := [], settleAt := none, handOver := .none }).setCustody
      .onRecord := rfl

theorem refuseGathered_cu (s : State) : s.refuseGathered.cu =
    { s.cu with state := .onRecord, handOver := .none, claims := [], settleAt := none } := by
  rw [refuseGathered_eq, setCustody_cu, State.setCu_cu, (frame_refuseAll s s.cu.claims).cu (by decide)]

theorem refuseGathered_custodyList (s : State) : s.refuseGathered.lnc.custodyList =
    s.cu.claims.foldl (fun l c => withRefusal s.cfg (decide (s.lnc.slot.inFlight = some .custody)) l c.station) s.lnc.custodyList := by
  rw [refuseGathered_eq, setCustody_lnc, State.setCu_lnc, refuseAll_custodyList]

end

/-! ## RELEASE (R161) -/

section
variable {s : State} {c : Claim}

/-- A flush asked of the TE during a hand-over: an IDLE one requests the commit-all at once (R70, R159). -/
theorem requestFlush_cu (going : ∃ n, s.cu.handOver = .handingOver n) :
    s.requestFlush.cu = { s.cu with commitAllDue := s.cu.commitAllDue || decide (s.te.phase = .idle) } := by
  unfold State.requestFlush
  cases phase : s.te.phase with
  | idle =>
    dsimp only
    rw [flushReport_handingOver going]
    simp
  | hold | step | fetch => simp

theorem requestFlush_idle (phase : s.te.phase = .idle) : s.requestFlush.te = s.te := by
  rw [State.requestFlush, phase]
  exact (frame_flushReport s).te (by decide)

theorem requestFlush_busy (phase : s.te.phase ≠ .idle) : s.requestFlush.te.flushOwed = true ∧ s.requestFlush.te.demand = .all := by
  unfold State.requestFlush
  cases now : s.te.phase with
  | idle => exact absurd now phase
  | hold | step | fetch => exact ⟨rfl, rfl⟩

/-- The state in which the record is to be closed, before the flush is asked of the TE. -/
def State.closing (s : State) : State := (s.setCu { s.cu with handOver := .handingOver 0 }).setCustody .releasing

theorem closing_cu (s : State) : s.closing.cu = { s.cu with state := .releasing, handOver := .handingOver 0 } := setCustody_cu _ _

theorem closing_te (s : State) : s.closing.te = s.te := setCustody_te _ _

theorem closeRecord_eq (s : State) : s.closeRecord = s.closing.requestFlush := rfl

theorem handOverToBest_eq (best : s.cu.claims.foldl betterClaim none = some c) : s.handOverToBest = (s.handingTo c).requestFlush := by
  rw [State.handOverToBest, best]
  rfl

theorem frame_handingTo_flush (s : State) (c : Claim) : SameBut [.te, .cu] s (s.handingTo c).requestFlush :=
  (frame_setCu _ _).chain (frame_requestFlush _) (by decide) (by decide)

theorem custody_releases (idle : s.lcp.inFlight = none) (online : s.online = true) (writer : s.cfg.writer = true)
    (calm : s.cu.conflict = false) (applies : CustodyRequest.release.appliesIn s.cu.state s.cu.handOver = true) :
    s.custody 1 [] .release = (((s.taking 9 [1]).carryOut .release).teRun.reply .accepted []).offered :=
  custody_applies idle online writer calm applies

end

/-! ## The commands -/

theorem exec_custodyClaim (rs : List Byte) (s : State) : exec (.custodyClaim rs) s = .next (s.custody 0 rs .claim) := rfl
theorem exec_custodyRelease (rs : List Byte) (s : State) : exec (.custodyRelease rs) s = .next (s.custody 1 rs .release) := rfl
theorem exec_custodyEnterShadow (rs : List Byte) (s : State) :
    exec (.custodyEnterShadow rs) s = .next (s.custody 2 rs .enterShadow) := rfl
theorem exec_custodyLeaveShadow (rs : List Byte) (s : State) :
    exec (.custodyLeaveShadow rs) s = .next (s.custody 3 rs .leaveShadow) := rfl
theorem exec_custodyHold (rs : List Byte) (s : State) : exec (.custodyHold rs) s = .next (s.custody 4 rs .hold) := rfl
theorem exec_custodyUnhold (rs : List Byte) (s : State) : exec (.custodyUnhold rs) s = .next (s.custody 5 rs .unhold) := rfl

end Sys2Proof.Machine

open Sys2Proof Sys2Proof.Machine

/-- Settles O57: a request is refused by its form (`custody_range`) or by the node's state (`custody_badState`); one that applies is
carried out and answered (`requestDone_requested`), a RELEASE with the TE's flush before the answer (`custody_releases`). -/
theorem custodyRequestsActWhereTheyApply : Obligations.CustodyRequestsActWhereTheyApply := by
  unfold Obligations.CustodyRequestsActWhereTheyApply
  refine ⟨fun s idle online => ⟨fun writer calm => ⟨?claim, ?enter, ?leave, ?hold, ?gathering, ?unhold⟩, ?noClaim, ?noEnter, ?noLeave,
    ?noHold⟩, fun s idle online => ⟨fun writer calm => ⟨?close, ?pass⟩, ?noRelease⟩, ?further⟩
  case claim =>
    intro state
    have applies : CustodyRequest.claim.appliesIn s.cu.state s.cu.handOver = true := by simpa [CustodyRequest.appliesIn] using state
    have done := requestDone_requested (s := s) (k := 0) (q := .claim) (by decide) (frame_beginClaim _) (by decide)
    refine ⟨_, (exec_custodyClaim [] s).trans (congrArg Host.Outcome.next (custody_applies idle online writer calm applies)),
      done.frame.mono (by decide), done.inFlight, done.answers, ?_, ?_, ?_⟩
    · exact done.cu.trans (beginClaim_cu _)
    · exact (congrArg List.getLast? done.custodyList).trans (beginClaim_last _)
    · exact done.station.trans (beginClaim_station _)
  case enter =>
    intro state
    have applies : CustodyRequest.enterShadow.appliesIn s.cu.state s.cu.handOver = true := decide_eq_true state
    have done := requestDone_requested (s := s) (k := 2) (q := .enterShadow) (by decide) (frame_setCustody _ _) (by decide)
    exact ⟨_, (exec_custodyEnterShadow [] s).trans (congrArg Host.Outcome.next (custody_applies idle online writer calm applies)),
      done.frame.mono (by decide), done.inFlight, done.answers, done.cu.trans (setCustody_cu _ _),
      done.station.trans (setCustody_station _ _), done.weight.trans (setCustody_weight _ _)⟩
  case leave =>
    intro state
    have applies : CustodyRequest.leaveShadow.appliesIn s.cu.state s.cu.handOver = true := decide_eq_true state
    have done := requestDone_requested (s := s) (k := 3) (q := .leaveShadow) (by decide) (frame_setCustody _ _) (by decide)
    exact ⟨_, (exec_custodyLeaveShadow [] s).trans (congrArg Host.Outcome.next (custody_applies idle online writer calm applies)),
      done.frame.mono (by decide), done.inFlight, done.answers, done.cu.trans (setCustody_cu _ _),
      done.station.trans (setCustody_station _ _), done.weight.trans (setCustody_weight _ _)⟩
  case hold =>
    intro other
    have carried : (s.taking 9 [4]).carryOut .hold = (s.taking 9 [4]).setHold true := holdRequest_else (s := s.taking 9 [4]) other
    have done := requestDone_requested (s := s) (k := 4) (q := .hold) (xs := [.cu, .pub]) (by decide)
      (carried ▸ frame_setHold _ _) (by decide)
    rw [carried] at done
    exact ⟨_, (exec_custodyHold [] s).trans (congrArg Host.Outcome.next (custody_applies idle online writer calm rfl)),
      done.frame.mono (by decide), done.inFlight, done.answers, done.cu.trans (setHold_cu _ _),
      fun clear => done.station.trans (setHold_station (s := s.taking 9 [4]) (by rw [taking_cu, clear]; decide))⟩
  case gathering =>
    intro state
    have carried : (s.taking 9 [4]).carryOut .hold = ((s.taking 9 [4]).setHold true).refuseGathered :=
      holdRequest_gathering (s := s.taking 9 [4]) state
    have done := requestDone_requested (s := s) (k := 4) (q := .hold) (by decide) (frame_holdRequest _) (by decide)
    rw [carried] at done
    have cu : ((s.taking 9 [4]).setHold true).cu = { s.cu with hold := true } := setHold_cu _ _
    have lnc : ((s.taking 9 [4]).setHold true).lnc = s.lnc := (frame_setHold _ _).lnc (by decide)
    have cfg : ((s.taking 9 [4]).setHold true).cfg = s.cfg := (frame_setHold _ _).cfg (by decide)
    have list := done.custodyList.trans (refuseGathered_custodyList _)
    rw [cu, lnc, cfg] at list
    refine ⟨_, (exec_custodyHold [] s).trans (congrArg Host.Outcome.next (custody_applies idle online writer calm rfl)),
      done.frame.mono (by decide), done.inFlight, done.answers, ?_, list, fun c listed => ?_⟩
    · rw [done.cu, refuseGathered_cu, cu]
    · rw [list]
      exact holdRefusal_mem_foldl (Or.inr ⟨c, listed, rfl⟩)
  case unhold =>
    have done := requestDone_requested (s := s) (k := 5) (q := .unhold) (by decide) (frame_setHold _ _) (by decide)
    exact ⟨_, (exec_custodyUnhold [] s).trans (congrArg Host.Outcome.next (custody_applies idle online writer calm rfl)),
      done.frame.mono (by decide), done.inFlight, done.answers, done.cu.trans (setHold_cu _ _),
      fun set => done.station.trans (setHold_station (s := s.taking 9 [5]) (by rw [taking_cu, set]; decide))⟩
  case noClaim =>
    intro barred
    refine ⟨_, exec_custodyClaim [] s, custody_badState idle online (barred.imp_right (Or.imp_right fun state => ?_))⟩
    simp [CustodyRequest.appliesIn, state]
  case noEnter =>
    exact fun barred => ⟨_, exec_custodyEnterShadow [] s,
      custody_badState idle online (barred.imp_right (Or.imp_right decide_eq_false))⟩
  case noLeave =>
    exact fun barred => ⟨_, exec_custodyLeaveShadow [] s,
      custody_badState idle online (barred.imp_right (Or.imp_right decide_eq_false))⟩
  case noHold =>
    exact fun barred => ⟨⟨_, exec_custodyHold [] s, custody_badState idle online (barred.imp_right Or.inl)⟩,
      _, exec_custodyUnhold [] s, custody_badState idle online (barred.imp_right Or.inl)⟩
  case close =>
    intro state
    have applies : CustodyRequest.release.appliesIn s.cu.state s.cu.handOver = true := by simp [CustodyRequest.appliesIn, state]
    have carried : (s.taking 9 [1]).carryOut .release = (s.taking 9 [1]).closing.requestFlush := if_pos state
    have released := custody_releases idle online writer calm applies
    rw [carried] at released
    have te : (s.taking 9 [1]).closing.te = s.te := closing_te _
    refine ⟨_, (exec_custodyRelease [] s).trans (congrArg Host.Outcome.next released),
      (frame_taking s 9 [1]).chain (frame_closeRecord _) (by decide) (by decide),
      (inFlight_taking s 9 (Nat.le_of_ble_eq_true rfl)).keep ((frame_closeRecord _).inFlight (by decide)), ?_,
      fun phase => (requestFlush_idle (te ▸ phase)).trans te, fun phase => requestFlush_busy (te ▸ phase)⟩
    rw [requestFlush_cu ⟨0, by rw [closing_cu]⟩, closing_cu, te]
    rfl
  case pass =>
    intro c state gathering best
    have applies : CustodyRequest.release.appliesIn s.cu.state s.cu.handOver = true := by
      simp [CustodyRequest.appliesIn, state, gathering]
    have other : ¬ (s.taking 9 [1]).cu.state = .onRecord := by rw [taking_cu, state]; decide
    have carried : (s.taking 9 [1]).carryOut .release = ((s.taking 9 [1]).handingTo c).requestFlush :=
      (if_neg other).trans (handOverToBest_eq (s := s.taking 9 [1]) best)
    have released := custody_releases idle online writer calm applies
    rw [carried] at released
    refine ⟨_, (exec_custodyRelease [] s).trans (congrArg Host.Outcome.next released),
      (frame_taking s 9 [1]).chain (frame_handingTo_flush _ c) (by decide) (by decide),
      (inFlight_taking s 9 (Nat.le_of_ble_eq_true rfl)).keep ((frame_handingTo_flush _ c).inFlight (by decide)), ?_,
      fun phase => requestFlush_idle (s := (s.taking 9 [1]).handingTo c) phase,
      fun phase => requestFlush_busy (s := (s.taking 9 [1]).handingTo c) phase⟩
    exact requestFlush_cu (s := (s.taking 9 [1]).handingTo c) ⟨c.station, rfl⟩
  case noRelease =>
    intro barred
    refine ⟨_, exec_custodyRelease [] s, custody_badState idle online (barred.imp_right (Or.imp_right fun state => ?_))⟩
    simpa [CustodyRequest.appliesIn] using state
  case further =>
    intro rs s idle online given short
    exact ⟨⟨_, exec_custodyClaim rs s, custody_range idle online given short⟩,
      ⟨_, exec_custodyRelease rs s, custody_range idle online given short⟩,
      ⟨_, exec_custodyEnterShadow rs s, custody_range idle online given short⟩,
      ⟨_, exec_custodyLeaveShadow rs s, custody_range idle online given short⟩,
      ⟨_, exec_custodyHold rs s, custody_range idle online given short⟩,
      _, exec_custodyUnhold rs s, custody_range idle online given short⟩
end

section
/-! SUPPORT. The status, the roster and the events read by the host, and the mask it sets; with them O60. -/

namespace Sys2Proof.Machine

/-! ## Commands taken in both node states -/

theorem takenIn_reading {code : Byte} (h : code ∈ [(13 : Byte), 14, 15, 16]) (online : Bool) : takenIn code online = true := by
  simp only [List.mem_cons, List.not_mem_nil, or_false] at h
  obtain rfl | rfl | rfl | rfl := h <;> cases online <;> decide

theorem exec_readStatus (ps : List Byte) (s : State) : exec (.readStatus ps) s = .next (s.readStatus ps) := rfl
theorem exec_readRoster (ps : List Byte) (s : State) : exec (.readRoster ps) s = .next (s.readRoster ps) := rfl
theorem exec_readEvent (ps : List Byte) (s : State) : exec (.readEvent ps) s = .next (s.readEvent ps) := rfl
theorem exec_setMask (ps : List Byte) (s : State) : exec (.setMask ps) s = .next (s.setMask ps) := rfl

/-! ## The status data (R197) -/

theorem length_claimBytes (cs : List Claim) : (claimBytes cs).length = 20 := by
  rw [claimBytes, List.length_take, List.length_append, List.length_replicate]
  omega

theorem length_statusLcp (s : State) : (statusLcp s).length = 2 := rfl
theorem length_statusCapture (s : State) : (statusCapture s).length = 14 := rfl
theorem length_statusStore (s : State) : (statusStore s).length = 22 := rfl
theorem length_statusTe (s : State) : (statusTe s).length = 18 := rfl
theorem length_statusTb (s : State) : (statusTb s).length = 23 := rfl
theorem length_statusLnc (s : State) : (statusLnc s).length = 36 := rfl
theorem length_statusPub (s : State) : (statusPub s).length = 27 := rfl
theorem length_statusVw (s : State) : (statusVw s).length = 37 := rfl

theorem length_statusCu (s : State) : (statusCu s).length = 29 := by
  simp only [statusCu, List.length_append, length_claimBytes]
  rfl

theorem length_statusData (s : State) : s.statusData.length = 208 := by
  simp only [State.statusData, List.length_append, length_statusLcp, length_statusCapture, length_statusStore, length_statusTe,
    length_statusTb, length_statusLnc, length_statusPub, length_statusCu, length_statusVw]

theorem statusData_start (s : State) :
    s.statusData.take 6 = [boolByte s.lcp.online, boolByte s.lcp.config.isSome] ++ leBytes 4 s.kcu.nextStroke := rfl

/-! ## READ_STATUS and READ_ROSTER -/

section
variable {s : State}

theorem readStatus_taken (idle : s.lcp.inFlight = none) : s.readStatus [] = (s.taking 13 []).giveStatus.choose :=
  takeCommand_checked (fun u _ => u.giveStatus.choose) idle (Nat.zero_le _) (takenIn_reading (by decide) _) (rfl : noParams [] = some ())

theorem readRoster_taken (idle : s.lcp.inFlight = none) : s.readRoster [] = (s.taking 14 []).giveRoster :=
  takeCommand_checked (fun u _ => u.giveRoster) idle (Nat.zero_le _) (takenIn_reading (by decide) _) (rfl : noParams [] = some ())

theorem rosterRecord_length {r : List Byte} (given : r ∈ s.rosterRecords) : r.length = 20 := by
  obtain ⟨i, -, record⟩ := List.mem_filterMap.mp given
  obtain ⟨q, -, rfl⟩ := Option.map_eq_some_iff.mp record
  rfl

/-! ## READ_EVENT (R199) -/

theorem readEvent_taken (idle : s.lcp.inFlight = none) : s.readEvent [] = (s.taking 15 []).giveEvent :=
  takeCommand_checked (fun u _ => u.giveEvent) idle (Nat.zero_le _) (takenIn_reading (by decide) _) (rfl : noParams [] = some ())

end

section
variable {l : Lcp} {p : Nat} {x : Latch}

/-- The next event is the pending, enabled one that no such event of a higher priority stands before. -/
theorem nextEvent_first (low : 1 ≤ p) (high : p ≤ 16) (pending : l.latch p = some x) (enabled : l.mask.getLsbD (p - 1) = true)
    (first : ∀ k, 1 ≤ k → k < p → l.latch k = none ∨ l.mask.getLsbD (k - 1) = false) : l.nextEvent = some (p, x) := by
  have head : l.offered.head? = some p := by
    rw [Lcp.offered, List.head?_filter, List.find?_range'_eq_some]
    refine ⟨by simp [pending, maskEnables, enabled], by simp; omega, fun k above below => ?_⟩
    obtain clear | masked := first k above below
    · simp [clear]
    · simp [maskEnables, masked]
  obtain ⟨rest, offered⟩ := List.head?_eq_some_iff.mp head
  rw [Lcp.nextEvent, offered]
  simp [pending]

theorem nextEvent_none (quiet : l.attn = false) : l.nextEvent = none := by
  have empty : l.offered = [] := by simpa [Lcp.attn] using quiet
  rw [Lcp.nextEvent, empty]

theorem clearLatch_same (l : Lcp) (p : Nat) : (l.clearLatch p).latch p = none := by
  unfold Lcp.clearLatch Lcp.latch
  rw [Vector.getElem?_setIfInBounds, if_pos rfl]
  split <;> rfl

theorem clearLatch_other {k : Nat} (low : 1 ≤ p) (lowK : 1 ≤ k) (other : k ≠ p) : (l.clearLatch p).latch k = l.latch k := by
  unfold Lcp.clearLatch Lcp.latch
  rw [Vector.getElem?_setIfInBounds, if_neg (by omega)]

end

section
variable {s : State}

theorem giveEvent_some {p : Nat} {x : Latch} (offered : s.lcp.nextEvent = some (p, x)) :
    s.giveEvent = (s.setLcp (s.lcp.clearLatch p)).reply .ok (leBytes 1 p ++ leBytes 1 x.count ++ x.event.detail) := by
  rw [State.giveEvent, offered]

theorem giveEvent_none (quiet : s.attn = false) : s.giveEvent = s.reply .ok (List.replicate 8 0) := by
  rw [State.giveEvent, nextEvent_none quiet]

/-! ## SET_MASK (R199) -/

theorem maskParam_pair (lo hi : Byte) : maskParam [lo, hi] = some (BitVec.ofNat 16 (lo.toNat + 256 * hi.toNat)) := rfl

theorem maskParam_bad {ps : List Byte} (other : ps.length ≠ 2) : maskParam ps = none := if_neg other

theorem setMask_taken {ps : List Byte} {m : BitVec 16} (idle : s.lcp.inFlight = none) (short : ps.length ≤ 264)
    (good : maskParam ps = some m) : s.setMask ps = ((s.taking 16 ps).setLcp { (s.taking 16 ps).lcp with mask := m }).ok :=
  takeCommand_checked (fun u m => (u.setLcp { u.lcp with mask := m }).ok) idle short (takenIn_reading (by decide) _) good

end

end Sys2Proof.Machine

open Sys2Proof Sys2Proof.Machine

/-- Settles O60: each command taken gives its data; the event given is the first of the pending and enabled ones (`nextEvent_first`). -/
theorem statusRosterAndEventsAreRead : Obligations.StatusRosterAndEventsAreRead := by
  unfold Obligations.StatusRosterAndEventsAreRead
  refine ⟨⟨fun s idle => ?status, fun s idle => ?roster⟩, ⟨fun s p x idle low high pending enabled first => ?event,
    fun s idle quiet => ?noEvent, fun ps s idle short => ⟨?mask, fun other => ?badMask⟩⟩, ?further⟩
  case status =>
    have taken := readStatus_taken idle
    have chosen := frame_choose (s.taking 13 []).giveStatus
    have lcp := chosen.lcp (by decide) (by decide)
    have frame := frame_readStatus s []
    rw [taken] at frame
    exact ⟨_, _, (exec_readStatus [] s).trans (congrArg Host.Outcome.next taken), frame,
      (inFlight_taking s 13 (Nat.zero_le _)).keep ((congrArg Lcp.inFlight lcp).trans rfl), congrArg Lcp.response lcp,
      choose_credit (s.taking 13 []).giveStatus, choose_slot (s.taking 13 []).giveStatus, rfl, length_statusData _, statusData_start _⟩
  case roster =>
    have taken := readRoster_taken idle
    have frame := frame_readRoster s []
    rw [taken] at frame
    exact ⟨_, (s.taking 14 []).rosterRecords, (exec_readRoster [] s).trans (congrArg Host.Outcome.next taken), frame,
      (inFlight_taking s 14 (Nat.zero_le _)).keep rfl, rfl, rfl, fun r given => rosterRecord_length given⟩
  case event =>
    have offered : (s.taking 15 []).lcp.nextEvent = some (p, x) := nextEvent_first low high pending enabled first
    have taken := (readEvent_taken idle).trans (giveEvent_some offered)
    have frame := frame_readEvent s []
    rw [taken] at frame
    exact ⟨_, (exec_readEvent [] s).trans (congrArg Host.Outcome.next taken), frame,
      (inFlight_taking s 15 (Nat.zero_le _)).keep rfl, answers_reply _ _ _, clearLatch_same _ p,
      fun k lowK _ other => clearLatch_other (l := (s.taking 15 []).lcp) low lowK other, rfl⟩
  case noEvent =>
    have taken := (readEvent_taken idle).trans (giveEvent_none (s := s.taking 15 []) quiet)
    exact ⟨_, (exec_readEvent [] s).trans (congrArg Host.Outcome.next taken), (frame_taking s 15 []).trans (frame_reply _ _ _),
      (inFlight_taking s 15 (Nat.zero_le _)).keep rfl, answers_reply _ _ _, rfl⟩
  case mask =>
    rintro lo hi rfl
    have taken := setMask_taken idle short (maskParam_pair lo hi)
    have frame := frame_setMask s [lo, hi]
    rw [taken] at frame
    exact ⟨_, (exec_setMask _ s).trans (congrArg Host.Outcome.next taken), frame, (inFlight_taking s 16 short).keep rfl,
      answers_reply _ _ _, rfl⟩
  case badMask =>
    exact ⟨_, exec_setMask ps s, takeCommand_range (fun u m => (u.setLcp { u.lcp with mask := m }).ok) idle short
      (takenIn_reading (by decide) _) (maskParam_bad other)⟩
  case further =>
    intro ps s code c idle given short row
    have bad := noParams_of_ne given
    simp only [List.mem_cons, Prod.mk.injEq, List.not_mem_nil, or_false] at row
    obtain ⟨rfl, rfl⟩ | ⟨rfl, rfl⟩ | ⟨rfl, rfl⟩ := row
    · exact ⟨_, exec_readStatus ps s, takeCommand_range (fun u _ => u.giveStatus.choose) idle short (takenIn_reading (by decide) _) bad⟩
    · exact ⟨_, exec_readRoster ps s, takeCommand_range (fun u _ => u.giveRoster) idle short (takenIn_reading (by decide) _) bad⟩
    · exact ⟨_, exec_readEvent ps s, takeCommand_range (fun u _ => u.giveEvent) idle short (takenIn_reading (by decide) _) bad⟩
end

section
/-! SUPPORT. Deliveries of frames and what the slot's choice after them leaves; a CLAIM at a holder and at a claimer; with them O42. -/

namespace Sys2Proof.Machine

/-! ## What the end of an event leaves -/

section
variable (u : State)

@[simp] theorem offered_cu : u.offered.cu = u.cu := (frame_offered u).cu (by decide)
@[simp] theorem offered_tb : u.offered.tb = u.tb := (frame_offered u).tb (by decide)
@[simp] theorem offered_vw : u.offered.vw = u.vw := (frame_offered u).vw (by decide)
@[simp] theorem offered_roster : u.offered.roster = u.roster := (frame_offered u).roster (by decide)
@[simp] theorem offered_clock : u.offered.clock = u.clock := (frame_offered u).clock (by decide)
@[simp] theorem offered_lcp : u.offered.lcp = u.lcp := (frame_offered u).lcp (by decide) (by decide)
@[simp] theorem offered_stationWaiting : u.offered.pub.stationWaiting = u.pub.stationWaiting := (offered_credit u).stationWaiting

theorem offered_slot : SameButSlot u.lnc u.offered.lnc := by
  rw [State.offered, compose_lnc]
  exact choose_slot u

@[simp] theorem offered_queue : u.offered.lnc.queue = u.lnc.queue := (offered_slot u).queue
@[simp] theorem offered_custodyList : u.offered.lnc.custodyList = u.lnc.custodyList := (offered_slot u).custodyList

end

theorem Latched.offered {s u : State} {p : Nat} {e : Event} (h : Latched s u p e) : Latched s u.offered p e := by
  unfold Latched
  rw [offered_lcp]
  exact h

/-! ## A frame taken from the receive queue (R111, R144) -/

/-- The state whose oldest queued frame, one of station `n`, has been taken, the lapse timer of `n` restarted. -/
def State.heard (s : State) (rest : List Frame) (n : Nat) : State := (s.frameTaken rest).refreshSlot n

section
variable {s : State} {f : Frame} {rest : List Frame}

theorem deliver_front {k : FrameKind} {take : State → Frame → State} (queue : s.lnc.queue = f :: rest) (kind : f.kind = k) :
    s.deliver k take = take (s.frameTaken rest) f := by
  simp only [State.deliver, queue, if_pos kind]
  rfl

theorem frame_heard (s : State) (rest : List Frame) (n : Nat) : SameBut [.lnc, .roster] s (s.heard rest n) :=
  (frame_setLnc _ _).chain (frame_refreshSlot _ _) (by decide) (by decide)

@[simp] theorem heard_lnc (s : State) (n : Nat) : (s.heard rest n).lnc = { s.lnc with queue := rest } :=
  (frame_refreshSlot (s.frameTaken rest) n).lnc (by decide)

@[simp] theorem heard_cu (s : State) (n : Nat) : (s.heard rest n).cu = s.cu := (frame_heard s rest n).cu (by decide)
@[simp] theorem heard_tb (s : State) (n : Nat) : (s.heard rest n).tb = s.tb := (frame_heard s rest n).tb (by decide)
@[simp] theorem heard_vw (s : State) (n : Nat) : (s.heard rest n).vw = s.vw := (frame_heard s rest n).vw (by decide)
@[simp] theorem heard_clock (s : State) (n : Nat) : (s.heard rest n).clock = s.clock := (frame_heard s rest n).clock (by decide)
@[simp] theorem heard_cfg (s : State) (n : Nat) : (s.heard rest n).cfg = s.cfg := (frame_heard s rest n).cfg (by decide)
@[simp] theorem heard_own (s : State) (n : Nat) : (s.heard rest n).own = s.own := (frame_heard s rest n).own (by decide)

theorem latches_heard {ps : List Nat} (s : State) (rest : List Frame) (n : Nat) : LatchesBut ps s (s.heard rest n) :=
  (frame_heard s rest n).noLatch (by decide)

/-- A slot rewritten for the same station in the same state admits whom it admitted. -/
theorem admits_setSlot {r : Roster} {i : Nat} {q q' : RosterSlot} (held : r.slot i = some q) (station : q'.station = q.station)
    (state : q'.state = q.state) (n : Nat) : (r.setSlot i (some q')).admits n = r.admits n := by
  have inside := slot_lt r i q held
  simp only [Roster.admits, Roster.of, indexOf_setSlot held station]
  cases r.indexOf n with
  | none => rfl
  | some j =>
    dsimp only
    rw [roster_setSlot]
    by_cases same : i = j
    · rw [if_pos ⟨same, same ▸ inside⟩, ← same, held]
      simp only [state]
    · rw [if_neg fun both => same both.1]

@[simp] theorem refreshSlot_admits (s : State) (n m : Nat) : (s.refreshSlot n).roster.admits m = s.roster.admits m := by
  unfold State.refreshSlot
  split
  · rfl
  · split
    · rfl
    · next q held =>
      split
      · rfl
      · exact admits_setSlot (q' := s.refreshedSlot q) held rfl rfl m

@[simp] theorem heard_admits (s : State) (n m : Nat) : (s.heard rest n).roster.admits m = s.roster.admits m :=
  refreshSlot_admits _ n m

end

/-! ## A claim that ends without the record (R155, R156) -/

theorem endClaim_cu (s : State) (o : ClaimEnd) (a b : Nat) : (s.endClaim o a b).cu =
    { s.cu with state := s.cu.prior.getD .idle, claimAt := none, prior := none } := by
  simp [State.endClaim]

theorem inCustody_iff (s : State) : s.inCustody = true ↔ s.cfg.writer = true ∧ s.cu.conflict = false := by
  simp [State.inCustody]

/-! ## A CLAIM at a holder (R157) -/

section
variable {s : State} {c : Claim}

theorem judgeClaim_hold (hold : s.cu.hold = true) : s.judgeClaim c = s.refuse c.station .hold := if_pos hold

variable (free : s.cu.hold = false)
include free

theorem judgeClaim_notAdmitted (other : s.roster.admits c.station = false) : s.judgeClaim c = s.refuse c.station .notAdmitted := by
  rw [State.judgeClaim, if_neg (by simp [free]), if_pos (by simp [other])]

variable (admitted : s.roster.admits c.station = true)
include admitted

theorem judgeClaim_renews (listed : ∃ x ∈ s.cu.claims, x.station = c.station) :
    s.judgeClaim c = s.setCu { s.cu with claims := renewClaim c s.cu.claims } := by
  rw [State.judgeClaim, if_neg (by simp [free]), if_neg (by simp [admitted]), if_pos (by simpa using listed)]

variable (unlisted : ∀ x ∈ s.cu.claims, x.station ≠ c.station)
include unlisted

theorem judgeClaim_full (full : 4 ≤ s.cu.claims.length) : s.judgeClaim c = s := by
  rw [State.judgeClaim, if_neg (by simp [free]), if_neg (by simp [admitted]), if_neg (by simpa using unlisted), if_pos full]

theorem judgeClaim_gathers (room : s.cu.claims.length < 4) : s.judgeClaim c = s.gatherClaim c := by
  rw [State.judgeClaim, if_neg (by simp [free]), if_neg (by simp [admitted]), if_neg (by simpa using unlisted),
    if_neg (Nat.not_le.mpr room)]

end

/-- A claimer joins the list: the first one begins the gathering, with the settle timer, a later one finds it begun. -/
theorem gatherClaim_cu {s : State} (c : Claim)
    (judging : s.cu.state = .onRecord ∨ (s.cu.state = .releasing ∧ s.cu.handOver = .gathering)) : (s.gatherClaim c).cu =
      { s.cu with claims := s.cu.claims ++ [c], state := .releasing, handOver := .gathering,
                  settleAt := if s.cu.state = .onRecord then some (s.clock.ms + BitVec.ofNat 32 s.cfg.settleWait)
                              else s.cu.settleAt } := by
  obtain first | ⟨state, handOver⟩ := judging
  · rw [State.gatherClaim, if_pos first, if_pos first, setCustody_cu]
    rfl
  · have later : s.cu.state ≠ .onRecord := by rw [state]; decide
    rw [State.gatherClaim, if_neg later, if_neg later, ← state, ← handOver]
    rfl

/-! ## A CLAIM at the Custody Unit, by its state (R155, R157) -/

section
variable {s : State} {c : Claim} (writer : s.cfg.writer = true) (calm : s.cu.conflict = false)
include writer calm

theorem claimAtCu_judges (judging : s.cu.state = .onRecord ∨ (s.cu.state = .releasing ∧ s.cu.handOver = .gathering)) :
    s.claimAtCu c = s.judgeClaim c := by
  have acts := (inCustody_iff s).mpr ⟨writer, calm⟩
  obtain state | ⟨state, handOver⟩ := judging
  · simp only [State.claimAtCu, acts, state, Bool.not_true, Bool.false_eq_true, if_false]
  · simp only [State.claimAtCu, acts, state, Bool.not_true, Bool.false_eq_true, if_false, if_pos handOver]

theorem claimAtCu_claiming (claiming : s.cu.state = .claiming) : s.claimAtCu c =
    if s.roster.admits c.station && better c.rank c.station s.cfg.rank s.own then s.endClaim .withdrawn c.station 0 else s := by
  have acts := (inCustody_iff s).mpr ⟨writer, calm⟩
  simp only [State.claimAtCu, acts, claiming, Bool.not_true, Bool.false_eq_true, if_false]

theorem claimAtCu_withdraws (claiming : s.cu.state = .claiming) (admitted : s.roster.admits c.station = true)
    (outranked : better c.rank c.station s.cfg.rank s.own = true) : s.claimAtCu c = s.endClaim .withdrawn c.station 0 := by
  rw [claimAtCu_claiming writer calm claiming, admitted, outranked]
  rfl

theorem claimAtCu_insists (claiming : s.cu.state = .claiming)
    (weaker : s.roster.admits c.station = false ∨ better c.rank c.station s.cfg.rank s.own = false) : s.claimAtCu c = s := by
  rw [claimAtCu_claiming writer calm claiming]
  obtain other | other := weaker <;> simp [other]

theorem claimAtCu_ignores
    (apart : s.cu.state = .idle ∨ s.cu.state = .shadow ∨ (s.cu.state = .releasing ∧ s.cu.handOver ≠ .gathering)) :
    s.claimAtCu c = s := by
  have acts := (inCustody_iff s).mpr ⟨writer, calm⟩
  obtain state | state | ⟨state, other⟩ := apart
  · simp only [State.claimAtCu, acts, state, Bool.not_true, Bool.false_eq_true, if_false]
  · simp only [State.claimAtCu, acts, state, Bool.not_true, Bool.false_eq_true, if_false]
  · simp only [State.claimAtCu, acts, state, Bool.not_true, Bool.false_eq_true, if_false, if_neg other]

end

/-! ## DELIVER_CLAIM -/

theorem exec_deliverClaim (s : State) : exec .deliverClaim s = .next s.deliverClaim := rfl

theorem deliverClaim_eq {s : State} {f : Frame} {rest : List Frame} {c : Claim} (queue : s.lnc.queue = f :: rest) (kind : f.kind = .claim)
    (parsed : Claim.parse f.body = some c) : s.deliverClaim = ((s.heard rest f.station).claimAtCu c).offered := by
  rw [State.deliverClaim, deliver_front queue kind, parsed]
  rfl

/-- Taking a CLAIM leaves the receive queue. -/
theorem claimAtCu_queue (s : State) (c : Claim) : (s.claimAtCu c).lnc.queue = s.lnc.queue := by
  have judged : (s.judgeClaim c).lnc.queue = s.lnc.queue := by
    unfold State.judgeClaim
    split
    · rfl
    · split
      · rfl
      · split
        · rfl
        · split
          · rfl
          · rw [(frame_gatherClaim s c).lnc (by decide)]
  unfold State.claimAtCu
  split
  · rfl
  · split
    · exact judged
    · split
      · exact judged
      · rfl
    · split
      · rw [(frame_endClaim _ _ _ _).lnc (by decide)]
      · rfl
    · rfl

end Sys2Proof.Machine

open Sys2Proof Sys2Proof.Machine

/-- Settles O42: a holder judges the claim (`claimAtCu_judges`) by its hold flag, the claimer's slot and the claim list (`judgeClaim_hold`
… `judgeClaim_gathers`); a claimer gives way to a better one alone. -/
theorem aClaimIsJudged : Obligations.AClaimIsJudged := by
  unfold Obligations.AClaimIsJudged
  intro s f rest c queue kind parsed writer calm
  have writer' : (s.heard rest f.station).cfg.writer = true := by rw [heard_cfg]; exact writer
  have calm' : (s.heard rest f.station).cu.conflict = false := by rw [heard_cu]; exact calm
  have frame : SameBut [.lnc, .roster, .cu, .pub, .vw, .latches, .sp] s ((s.heard rest f.station).claimAtCu c).offered := by
    refine SameBut.chain (xs := .roster :: .lnc :: cuParts) ?_ (frame_offered _) (by decide) (by decide)
    exact (frame_heard s rest _).chain (frame_claimAtCu _ _) (by decide) (by decide)
  refine ⟨_, (exec_deliverClaim s).trans (congrArg Host.Outcome.next (deliverClaim_eq queue kind parsed)), frame, ?_, ?judged, ?claimer,
    ?apart⟩
  · rw [offered_queue, claimAtCu_queue, heard_lnc]
  case judged =>
    intro judging
    have judging' : (s.heard rest f.station).cu.state = .onRecord
        ∨ ((s.heard rest f.station).cu.state = .releasing ∧ (s.heard rest f.station).cu.handOver = .gathering) := by
      rw [heard_cu]
      exact judging
    rw [claimAtCu_judges writer' calm' judging', offered_cu, offered_custodyList]
    refine ⟨fun hold => ?hold, fun free other => ?notAdmitted, fun free admitted unlisted room => ?gathers,
      fun free admitted unlisted full => ?full, fun free admitted listed => ?renews⟩
    case hold =>
      rw [judgeClaim_hold (by rwa [heard_cu]), State.refuse, handCustody_cu, handCustody_last, heard_cu, heard_cfg]
      exact ⟨rfl, rfl⟩
    case notAdmitted =>
      rw [judgeClaim_notAdmitted (by rwa [heard_cu]) (by rwa [heard_admits]), State.refuse, handCustody_cu, handCustody_last, heard_cu,
        heard_cfg]
      exact ⟨rfl, rfl⟩
    case gathers =>
      rw [judgeClaim_gathers (by rwa [heard_cu]) (by rwa [heard_admits]) (by rwa [heard_cu]) (by rwa [heard_cu]),
        gatherClaim_cu c judging', heard_cu, heard_cfg, heard_clock]
    case full =>
      rw [judgeClaim_full (by rwa [heard_cu]) (by rwa [heard_admits]) (by rwa [heard_cu]) (by rwa [heard_cu]), heard_cu]
    case renews =>
      rw [judgeClaim_renews (by rwa [heard_cu]) (by rwa [heard_admits]) (by rwa [heard_cu]), State.setCu_cu, heard_cu]
      rfl
  case claimer =>
    intro claiming
    have claiming' : (s.heard rest f.station).cu.state = .claiming := by rw [heard_cu]; exact claiming
    refine ⟨fun admitted outranked => ?_, fun weaker => ?_⟩
    · rw [claimAtCu_withdraws writer' calm' claiming' (by rwa [heard_admits]) (by rwa [heard_cfg, heard_own]), offered_cu, endClaim_cu,
        heard_cu]
      exact ⟨rfl, ((latched_endClaim _ _ _ _).after (latches_heard (ps := []) s rest _) (by decide) (by decide)).offered⟩
    · rw [claimAtCu_insists writer' calm' claiming' (by rwa [heard_admits, heard_cfg, heard_own]), offered_cu, offered_custodyList,
        heard_cu, heard_lnc]
      exact ⟨rfl, rfl⟩
  case apart =>
    intro apart
    rw [claimAtCu_ignores writer' calm' (by rwa [heard_cu]), offered_cu, offered_custodyList, heard_cu, heard_lnc]
    exact ⟨rfl, rfl⟩
end

section
/-! SUPPORT. A node that becomes the holder: the switch into RECORD with or without a BREAK line, the events, the holder followed; a
REFUSE and the claim timer; with them O44. -/

namespace Sys2Proof.Machine

/-! ## The switch into RECORD (R99) -/

/-- The state in RECORD with the next line `n`, before anything is written. -/
def State.inRecordAt (s : State) (n : Nat) : State := s.setTb { s.tb with series := .record, nextRecord := some n }

/-- The state in RECORD, the BREAK line, where one is requested, written. -/
def State.intoRecord (s : State) (n : Nat) (brk : Bool) : State :=
  if brk then (s.inRecordAt n).jump.breakLine else s.inRecordAt n

section
variable {s : State}

theorem inRecordAt_above : (s.inRecordAt (s.tb.horizon + 1)).jump = s.inRecordAt (s.tb.horizon + 1) :=
  if_neg (Nat.not_succ_le_self s.tb.horizon)

/-- The BREAK line of a switch takes the number above the horizon. -/
theorem intoRecord_breaks (room : s.tb.horizon < 16777215) : s.intoRecord (s.tb.horizon + 1) true =
    (s.inRecordAt (s.tb.horizon + 1)).tookLine (s.lineAt (s.tb.horizon + 1) true false breakText 0) := by
  have free : ¬ maxLine < (s.inRecordAt (s.tb.horizon + 1)).tb.nextRecord.getD 1 := Nat.not_lt.mpr room
  rw [State.intoRecord, if_pos rfl, inRecordAt_above, State.breakLine, if_neg free,
    recordLine_eq (s := s.inRecordAt (s.tb.horizon + 1)) rfl rfl room]
  rfl

/-- Past the end of the record no BREAK line is written. -/
theorem intoRecord_ended (ended : 16777215 ≤ s.tb.horizon) : s.intoRecord (s.tb.horizon + 1) true =
    (s.inRecordAt (s.tb.horizon + 1)).latch (.recordEnd s.tb.discardedLines) := by
  have past : maxLine < (s.inRecordAt (s.tb.horizon + 1)).tb.nextRecord.getD 1 := Nat.lt_succ_of_le ended
  rw [State.intoRecord, if_pos rfl, inRecordAt_above, State.breakLine, if_pos past]
  rfl

theorem intoRecord_breaks_tb (room : s.tb.horizon < 16777215) :
    (s.intoRecord (s.tb.horizon + 1) true).tb.nextRecord = some (s.tb.horizon + 2)
    ∧ (s.intoRecord (s.tb.horizon + 1) true).tb.horizon = s.tb.horizon + 1 := by
  obtain ⟨tb, -⟩ := tookLine_parts (s := s.inRecordAt (s.tb.horizon + 1)) (l := s.lineAt (s.tb.horizon + 1) true false breakText 0)
    (Nat.le_succ s.tb.horizon)
  rw [intoRecord_breaks room, tb]
  exact ⟨rfl, rfl⟩

theorem viewedLine_followed (s : State) (v : Viewer) (n : Nat) (brk : Bool) (text : List Byte) :
    (s.viewedLine v n brk text).followed = v.followed := by
  unfold State.viewedLine
  split
  · rw [withOwnLine_eq]
  · rfl

variable {n : Nat} {brk : Bool} (above : brk = true → n = s.tb.horizon + 1)
include above

/-- Whatever becomes of the BREAK line, the series is RECORD and the holder followed stays. -/
theorem intoRecord_keeps : (s.intoRecord n brk).tb.series = .record ∧ (s.intoRecord n brk).vw.followed = s.vw.followed := by
  cases brk with
  | false => exact ⟨rfl, rfl⟩
  | true =>
    rw [above rfl]
    by_cases room : s.tb.horizon < 16777215
    · rw [intoRecord_breaks room]
      exact ⟨rfl, viewedLine_followed _ _ _ _ _⟩
    · rw [intoRecord_ended (Nat.not_lt.mp room), latch_tb, latch_vw]
      exact ⟨rfl, rfl⟩

end

theorem carryFormat_tb (s : State) (c : Option (Bool × Bool)) :
    ∃ region carried, (s.carryFormat c).tb = { s.tb with region := region, carried := carried } := by
  unfold State.carryFormat
  split
  · split
    · exact ⟨_, _, rfl⟩
    · exact ⟨_, _, rfl⟩
  · exact ⟨_, _, rfl⟩

section
variable {s : State} (draft : s.tb.series = .draft) (n : Nat) (brk : Bool) (carry : Option (Bool × Bool))
include draft

theorem switchToRecord_eq : s.switchToRecord n brk carry =
    (((s.intoRecord n brk).setTb
      { (s.intoRecord n brk).tb with carried := (s.intoRecord n brk).tb.region.lines.length }).carryFormat carry).buildTail := by
  rw [State.switchToRecord, draft]
  rfl

/-- The carry bits and the carried marks touch the open region alone. -/
theorem switchToRecord_tb : ∃ region carried, (s.switchToRecord n brk carry).tb =
    { (s.intoRecord n brk).tb with region := region, carried := carried } := by
  obtain ⟨region, carried, tb⟩ := carryFormat_tb
    ((s.intoRecord n brk).setTb { (s.intoRecord n brk).tb with carried := (s.intoRecord n brk).tb.region.lines.length }) carry
  exact ⟨region, carried, by rw [switchToRecord_eq draft, buildTail_tb, tb]; rfl⟩

theorem switchToRecord_vw : (s.switchToRecord n brk carry).vw = (s.intoRecord n brk).vw := by
  rw [switchToRecord_eq draft, buildTail_vw, (frame_carryFormat _ _).vw (by decide), State.setTb_vw]

end

/-! ## The new holder (R154, R156) -/

/-- The holder's state, reported to the Publisher, before the events. -/
def State.holding (s : State) (n : Nat) (brk : Bool) (carry : Option (Bool × Bool)) : State :=
  ((s.switchToRecord n brk carry).setCu
    { (s.switchToRecord n brk carry).cu with prior := none, claimAt := none, recordClosed := false, state := .onRecord }).tellCustody

section
variable {s : State} (n : Nat) (brk : Bool) (carry : Option (Bool × Bool)) (cause : ChangeCause) (station : Nat)

theorem becomeHolder_eq (s : State) : s.becomeHolder n brk carry cause station =
    if brk then ((s.holding n brk carry).latch (.custodyChanged cause station n)).latch (.recordBreak n)
    else (s.holding n brk carry).latch (.custodyChanged cause station n) := rfl

theorem becomeHolder_but_latch {α : Type} (get : State → α) (blind : ∀ (t : State) (e : Event), get (t.latch e) = get t) (s : State) :
    get (s.becomeHolder n brk carry cause station) = get (s.holding n brk carry) := by
  rw [becomeHolder_eq]
  split
  · rw [blind, blind]
  · exact blind _ _

theorem becomeHolder_cu (s : State) : (s.becomeHolder n brk carry cause station).cu =
    { s.cu with state := .onRecord, prior := none, claimAt := none, recordClosed := false } := by
  rw [becomeHolder_but_latch n brk carry cause station State.cu latch_cu, State.holding, tellCustody_cu, State.setCu_cu,
    switchToRecord_cu]

theorem becomeHolder_tb (s : State) : (s.becomeHolder n brk carry cause station).tb = (s.switchToRecord n brk carry).tb := by
  rw [becomeHolder_but_latch n brk carry cause station State.tb latch_tb, State.holding, tellCustody_tb, State.setCu_tb]

theorem becomeHolder_vw (s : State) : (s.becomeHolder n brk carry cause station).vw = (s.switchToRecord n brk carry).vw := by
  rw [becomeHolder_but_latch n brk carry cause station State.vw latch_vw, State.holding, tellCustody_vw, State.setCu_vw]

/-- FOLLOW_CHANGED is told after the switch, by the choice of the holder followed. -/
theorem latches_holding (s : State) : LatchesBut [3, 13, 14] s (s.holding n brk carry) := by
  refine LatchesBut.trans ?_ ((frame_tellCustody _).noLatch (by decide))
  exact (latches_switchToRecord _ _ _ _).trans ((frame_setCu _ _).noLatch (by decide))

theorem latches_becomeHolder_plain (s : State) : LatchesBut [3, 4, 13, 14] s (s.becomeHolder n false carry cause station) :=
  (latches_holding n false carry s).chain (latches_latch _ _) (by decide) (by simp [Event.priority])

theorem latches_becomeHolder_unfollowed (s : State) : LatchesBut [2, 3, 4, 13, 14] s (s.becomeHolder n brk carry cause station) := by
  have told : LatchesBut [2, 3, 4, 13, 14] s ((s.holding n brk carry).latch (.custodyChanged cause station n)) :=
    (latches_holding n brk carry s).chain (latches_latch _ _) (by decide) (by simp [Event.priority])
  exact latches_ite (told.trans ((latches_latch _ _).mono (by simp [Event.priority]))) told

variable (draft : s.tb.series = .draft)
include draft

theorem becomeHolder_plain_next : (s.becomeHolder n false carry cause station).tb.nextRecord = some n := by
  obtain ⟨region, carried, tb⟩ := switchToRecord_tb draft n false carry
  rw [becomeHolder_tb, tb]
  rfl

theorem becomeHolder_breaks_tb (room : s.tb.horizon < 16777215) :
    (s.becomeHolder (s.tb.horizon + 1) true carry cause station).tb.nextRecord = some (s.tb.horizon + 2)
    ∧ (s.becomeHolder (s.tb.horizon + 1) true carry cause station).tb.horizon = s.tb.horizon + 1 := by
  obtain ⟨region, carried, tb⟩ := switchToRecord_tb draft (s.tb.horizon + 1) true carry
  rw [becomeHolder_tb, tb]
  exact intoRecord_breaks_tb room

variable {n brk} (above : brk = true → n = s.tb.horizon + 1)
include above

theorem becomeHolder_series : (s.becomeHolder n brk carry cause station).tb.series = .record := by
  obtain ⟨series, -⟩ := intoRecord_keeps above
  obtain ⟨region, carried, tb⟩ := switchToRecord_tb draft n brk carry
  rw [becomeHolder_tb, tb]
  exact series

theorem becomeHolder_followed : (s.becomeHolder n brk carry cause station).vw.followed = s.vw.followed := by
  obtain ⟨-, followed⟩ := intoRecord_keeps above
  rw [becomeHolder_vw, switchToRecord_vw draft, followed]

end

/-! ## A takeover (R156) -/

/-- A takeover writes a BREAK line above a horizon, unless the record was closed. -/
def State.takeOverBreaks (s : State) : Bool := decide (0 < s.tb.horizon) && !s.cu.recordClosed

theorem takeOverBreaks_iff (s : State) : s.takeOverBreaks = true ↔ 0 < s.tb.horizon ∧ s.cu.recordClosed = false := by
  simp [State.takeOverBreaks]

section
variable (s : State)

theorem takeOver_eq : s.takeOver = (s.becomeHolder (s.tb.horizon + 1) s.takeOverBreaks none .takenOver 0).follow := rfl

theorem takeOver_cu : s.takeOver.cu = { s.cu with state := .onRecord, prior := none, claimAt := none, recordClosed := false } := by
  rw [takeOver_eq, follow_cu, becomeHolder_cu]

theorem latched_takeOver : Latched s s.takeOver 4 (.custodyChanged .takenOver 0 (s.tb.horizon + 1))
    ∧ (0 < s.tb.horizon ∧ s.cu.recordClosed = false → Latched s s.takeOver 2 (.recordBreak (s.tb.horizon + 1))) := by
  obtain ⟨changed, broke⟩ := latched_becomeHolder s (s.tb.horizon + 1) s.takeOverBreaks none .takenOver 0
  rw [takeOver_eq]
  exact ⟨changed.keep (latches_follow _) (by decide) (by decide), fun breaks =>
    (broke ((takeOverBreaks_iff s).mpr breaks)).keep (latches_follow _) (by decide) (by decide)⟩

/-- Without a BREAK line RECORD_BREAK is not told. -/
theorem takeOver_unbroken (plain : ¬ (0 < s.tb.horizon ∧ s.cu.recordClosed = false)) : s.takeOver.lcp.latch 2 = s.lcp.latch 2 := by
  have off : s.takeOverBreaks = false := Bool.eq_false_iff.mpr fun on => plain ((takeOverBreaks_iff s).mp on)
  have stays : LatchesBut [3, 4, 12, 13, 14] s s.takeOver := by
    rw [takeOver_eq, off]
    exact (latches_becomeHolder_plain _ none .takenOver 0 s).chain (latches_follow _) (by decide) (by decide)
  exact stays 2 (by decide) (by decide)

variable {s} (draft : s.tb.series = .draft)
include draft

theorem takeOver_series : s.takeOver.tb.series = .record := by
  rw [takeOver_eq, follow_tb, becomeHolder_series none .takenOver 0 draft fun _ => rfl]

theorem takeOver_next (room : s.tb.horizon < 16777215) : s.takeOver.tb.nextRecord =
    some (if 0 < s.tb.horizon ∧ s.cu.recordClosed = false then s.tb.horizon + 2 else s.tb.horizon + 1) := by
  rw [takeOver_eq, follow_tb]
  by_cases breaks : 0 < s.tb.horizon ∧ s.cu.recordClosed = false
  · obtain ⟨next, -⟩ := becomeHolder_breaks_tb none .takenOver 0 draft room
    rw [if_pos breaks, (takeOverBreaks_iff s).mpr breaks, next]
  · have off : s.takeOverBreaks = false := Bool.eq_false_iff.mpr fun on => breaks ((takeOverBreaks_iff s).mp on)
    rw [if_neg breaks, off, becomeHolder_plain_next _ none .takenOver 0 draft]

end

/-! ## The holder a claimer finds (R156) -/

/-- The slots that are ADMITTED and announce a holder's state. -/
def Roster.holders (r : Roster) : List RosterSlot :=
  r.slots.toList.filterMap fun x => match x with
    | some q => if q.state = .admitted ∧ q.custody.holds = true then some q else none
    | none => none

section
variable {r : Roster}

theorem holder_eq (r : Roster) : r.holder = r.holders.foldl betterSlot none := rfl

theorem mem_holders (r : Roster) (q : RosterSlot) :
    q ∈ r.holders ↔ ∃ i, r.slot i = some q ∧ q.state = .admitted ∧ q.custody.holds = true := by
  have mem : q ∈ r.holders ↔ some q ∈ r.slots.toList ∧ q.state = .admitted ∧ q.custody.holds = true := by
    simp only [Roster.holders, List.mem_filterMap]
    constructor
    · rintro ⟨x, listed, taken⟩
      cases x with
      | none => cases taken
      | some y =>
        obtain ⟨holds, same⟩ := Option.ite_none_right_eq_some.mp taken
        obtain rfl := Option.some.inj same
        exact ⟨listed, holds⟩
    · exact fun ⟨listed, holds⟩ => ⟨some q, listed, if_pos holds⟩
  rw [mem, ← slot_mem, exists_and_right]

theorem holder_none_iff (r : Roster) :
    r.holder = none ↔ ∀ i q, r.slot i = some q → ¬ (q.state = .admitted ∧ q.custody.holds = true) := by
  obtain ⟨empty, -⟩ := foldl_better r.holders none
  rw [holder_eq, empty, List.eq_nil_iff_forall_not_mem]
  simp only [mem_holders, true_and]
  exact ⟨fun noOne i q held both => noOne q ⟨i, held, both⟩, fun noOne q ⟨i, held, both⟩ => noOne i q held both⟩

/-- Of two slots neither of which is better, both announce one station. -/
theorem station_eq_of_equal {a b : RosterSlot} (h : better a.rank a.station b.rank b.station = false)
    (k : better b.rank b.station a.rank a.station = false) : a.station = b.station := by
  simp [better] at h k
  omega

/-- The holder found is one of the holders, and no other is better. -/
theorem holder_some {q : RosterSlot} (found : r.holder = some q) :
    q ∈ r.holders ∧ ∀ x ∈ r.holders, better x.rank x.station q.rank q.station = false := by
  obtain ⟨-, best⟩ := foldl_better r.holders none
  obtain ⟨listed, top⟩ := best q found
  exact ⟨listed.resolve_left (by simp), fun x held => top x (Or.inr held)⟩

theorem holder_station_iff (r : Roster) (n : Nat) : (∃ q, r.holder = some q ∧ q.station = n) ↔
    ∃ i q, r.slot i = some q ∧ q.station = n ∧ q.state = .admitted ∧ q.custody.holds = true
      ∧ ∀ j q', r.slot j = some q' → q'.state = .admitted → q'.custody.holds = true →
        better q'.rank q'.station q.rank q.station = false := by
  constructor
  · rintro ⟨q, found, station⟩
    obtain ⟨listed, top⟩ := holder_some found
    obtain ⟨i, held, admitted, holds⟩ := (mem_holders r q).mp listed
    exact ⟨i, q, held, station, admitted, holds, fun j x held' admitted' holds' =>
      top x ((mem_holders r x).mpr ⟨j, held', admitted', holds'⟩)⟩
  · rintro ⟨i, q, held, rfl, admitted, holds, top⟩
    cases found : r.holder with
    | none => exact absurd ⟨admitted, holds⟩ ((holder_none_iff r).mp found i q held)
    | some x =>
      obtain ⟨listed, best⟩ := holder_some found
      obtain ⟨j, heldX, admittedX, holdsX⟩ := (mem_holders r x).mp listed
      have no : better q.rank q.station x.rank x.station = false := best q ((mem_holders r q).mpr ⟨i, held, admitted, holds⟩)
      exact ⟨x, rfl, station_eq_of_equal (top j x heldX admittedX holdsX) no⟩

end

theorem custodyHolds_iff (c : CustodyState) : c.holds = true ↔ c = .onRecord ∨ c = .releasing := by cases c <;> decide

/-! ## DELIVER_REFUSE and CLAIM_TIMER_EXPIRY -/

theorem exec_deliverRefuse (s : State) : exec .deliverRefuse s = .next s.deliverRefuse := rfl

theorem exec_claimTimerExpiry (s : State) : exec .claimTimerExpiry s = .next s.claimExpiry := rfl

section
variable {s : State}

theorem deliverRefuse_eq {f : Frame} {rest : List Frame} {x : RefuseBody} (queue : s.lnc.queue = f :: rest) (kind : f.kind = .refuse)
    (parsed : RefuseBody.parse f.body = some x) : s.deliverRefuse = ((s.frameTaken rest).refuseAtCu x).offered := by
  rw [State.deliverRefuse, deliver_front queue kind, parsed]
  rfl

theorem refuseAtCu_ends {x : RefuseBody} (writer : s.cfg.writer = true) (calm : s.cu.conflict = false) (claiming : s.cu.state = .claiming)
    (here : x.addressee = s.own) : s.refuseAtCu x = s.endClaim .refused x.station x.reason :=
  if_pos ⟨(inCustody_iff s).mpr ⟨writer, calm⟩, claiming, here⟩

theorem refuseAtCu_ignores {x : RefuseBody} (apart : s.cu.state ≠ .claiming ∨ x.addressee ≠ s.own) : s.refuseAtCu x = s :=
  if_neg fun ⟨_, claiming, here⟩ => apart.elim (· claiming) (· here)

variable {e : Ms} (timer : s.cu.claimAt = some e)
include timer

theorem claimExpiry_answers {q : RosterSlot} (found : s.roster.holder = some q) :
    s.claimExpiry = ((s.reachMs e).endClaim .noAnswer q.station 0).offered := by
  simp only [State.claimExpiry, timer, reachMs_roster, found]
  rfl

theorem claimExpiry_takesOver (found : s.roster.holder = none) : s.claimExpiry = (s.reachMs e).takeOver.offered := by
  simp only [State.claimExpiry, timer, reachMs_roster, found]
  rfl

end

end Sys2Proof.Machine

open Sys2Proof Sys2Proof.Machine

/-- Settles O44: a REFUSE by whether it ends a claim of this node; the expiry by the holder found (`claimExpiry_answers`,
`claimExpiry_takesOver`), which is the best of the ADMITTED holders (`holder_station_iff`). -/
theorem aClaimEndsByRefusalOrTime : Obligations.AClaimEndsByRefusalOrTime := by
  unfold Obligations.AClaimEndsByRefusalOrTime
  refine ⟨?refuse, ?expiry, custodyHolds_iff, holder_none_iff, holder_station_iff⟩
  case refuse =>
    intro s f rest x queue kind parsed
    have taken := frame_setLnc s { s.lnc with queue := rest }
    have refused := frame_refuseAtCu (s.frameTaken rest) x
    have frame : SameBut [.lnc, .cu, .pub, .vw, .latches, .sp] s ((s.frameTaken rest).refuseAtCu x).offered := by
      refine SameBut.chain (xs := .lnc :: cuParts) ?_ (frame_offered _) (by decide) (by decide)
      exact taken.chain refused (by decide) (by decide)
    refine ⟨_, (exec_deliverRefuse s).trans (congrArg Host.Outcome.next (deliverRefuse_eq queue kind parsed)), frame, ?_,
      fun writer calm claiming here => ?ends, fun apart => ?ignored⟩
    · rw [offered_queue, refused.lnc (by decide)]
      rfl
    case ends =>
      rw [refuseAtCu_ends (s := s.frameTaken rest) writer calm claiming here, offered_cu, endClaim_cu]
      exact ⟨rfl, ((latched_endClaim _ _ _ _).after (taken.noLatch (ps := []) (by decide)) (by decide) (by decide)).offered⟩
    case ignored =>
      rw [refuseAtCu_ignores (s := s.frameTaken rest) apart, offered_cu]
      rfl
  case expiry =>
    intro s e timer draft
    have waits {ps : List Nat} : LatchesBut ps s (s.reachMs e) := (frame_reachMs s e).noLatch (by decide)
    have draft' : (s.reachMs e).tb.series = .draft := by rw [reachMs_tb]; exact draft
    have frame : SameBut [.clock, .lnc, .sp, .tb, .cu, .pub, .vw, .latches] s s.claimExpiry := (frame_claimExpiry s).mono (by decide)
    cases found : s.roster.holder with
    | some q =>
      have ends := frame_endClaim (s.reachMs e) .noAnswer q.station 0
      rw [claimExpiry_answers timer found] at frame
      refine ⟨_, (exec_claimTimerExpiry s).trans (congrArg Host.Outcome.next (claimExpiry_answers timer found)), frame, ?_, ?_,
        fun other => (nomatch other)⟩
      · rw [offered_clock, ends.clock (by decide)]
      · rintro _ ⟨⟩
        rw [offered_cu, offered_tb, endClaim_cu, ends.tb (by decide), reachMs_cu, reachMs_tb]
        exact ⟨rfl, rfl, ((latched_endClaim _ _ _ _).after (waits (ps := [])) (by decide) (by decide)).offered⟩
    | none =>
      obtain ⟨changed, broke⟩ := latched_takeOver (s.reachMs e)
      have series := takeOver_series draft'
      have next := takeOver_next draft'
      have unbroken := takeOver_unbroken (s.reachMs e)
      rw [reachMs_tb] at changed
      simp only [reachMs_tb, reachMs_cu, reachMs_lcp] at broke next unbroken
      rw [claimExpiry_takesOver timer found] at frame
      refine ⟨_, (exec_claimTimerExpiry s).trans (congrArg Host.Outcome.next (claimExpiry_takesOver timer found)), frame, ?_,
        fun q other => (nomatch other), fun _ => ?_⟩
      · rw [offered_clock, (frame_takeOver _).clock (by decide)]
      · rw [offered_cu, offered_tb, offered_lcp, takeOver_cu, reachMs_cu]
        exact ⟨rfl, series, (changed.after (waits (ps := [])) (by decide) (by decide)).offered, next,
          fun breaks => ((broke breaks).after (waits (ps := [])) (by decide) (by decide)).offered, unbroken⟩
end

section
/-! SUPPORT. A RELEASE at the Custody Unit and at the Viewer; with them O43. -/

namespace Sys2Proof.Machine

/-! ## The record taken from a RELEASE (R154) -/

section
variable {h n : Nat}

theorem startNumber_last (h : Nat) : startNumber h 0 = (16777216, false) := rfl

theorem startNumber_above (above : h < n) : startNumber h n = (n, false) := by
  rw [startNumber, if_neg (Nat.ne_of_gt (Nat.zero_lt_of_lt above)), if_pos above]

theorem startNumber_breaks (named : n ≠ 0) (below : n ≤ h) : startNumber h n = (h + 1, true) := by
  rw [startNumber, if_neg named, if_neg (Nat.not_lt.mpr below)]

theorem startNumber_break (h n : Nat) (breaks : (startNumber h n).2 = true) : (startNumber h n).1 = h + 1 := by
  unfold startNumber at breaks ⊢
  split
  · next last => rw [if_pos last] at breaks; cases breaks
  · next named =>
    rw [if_neg named] at breaks
    split
    · next above => rw [if_pos above] at breaks; cases breaks
    · rfl

end

section
variable {s : State} {r : ReleaseBody}

theorem takeRecord_at {n : Nat} {brk : Bool} (start : startNumber s.tb.horizon r.next = (n, brk)) :
    s.takeRecord r = s.becomeHolder n brk (some (r.cap, r.attach)) .taken r.station := by
  rw [State.takeRecord, start]

theorem takeRecord_cu (s : State) (r : ReleaseBody) : (s.takeRecord r).cu =
    { s.cu with state := .onRecord, prior := none, claimAt := none, recordClosed := false } := becomeHolder_cu _ _ _ _ _ s

/-- What tells the new holder: the number it starts at, and its BREAK line where one is due. -/
theorem latched_takeRecord {n : Nat} {brk : Bool} (start : startNumber s.tb.horizon r.next = (n, brk)) :
    Latched s (s.takeRecord r) 4 (.custodyChanged .taken r.station n)
    ∧ (brk = true → Latched s (s.takeRecord r) 2 (.recordBreak n)) := by
  rw [takeRecord_at start]
  exact latched_becomeHolder s n brk _ .taken r.station

theorem latches_takeRecord (s : State) (r : ReleaseBody) : LatchesBut [2, 3, 4, 13, 14] s (s.takeRecord r) :=
  latches_becomeHolder_unfollowed _ _ _ _ _ s

variable (draft : s.tb.series = .draft)
include draft

theorem takeRecord_series : (s.takeRecord r).tb.series = .record :=
  becomeHolder_series _ _ _ draft (startNumber_break s.tb.horizon r.next)

theorem takeRecord_followed : (s.takeRecord r).vw.followed = s.vw.followed :=
  becomeHolder_followed _ _ _ draft (startNumber_break s.tb.horizon r.next)

theorem takeRecord_plain_next {n : Nat} (start : startNumber s.tb.horizon r.next = (n, false)) :
    (s.takeRecord r).tb.nextRecord = some n := by
  rw [takeRecord_at start, becomeHolder_plain_next n _ .taken r.station draft]

theorem takeRecord_breaks_tb (start : startNumber s.tb.horizon r.next = (s.tb.horizon + 1, true)) (room : s.tb.horizon < 16777215) :
    (s.takeRecord r).tb.nextRecord = some (s.tb.horizon + 2) ∧ (s.takeRecord r).tb.horizon = s.tb.horizon + 1 := by
  rw [takeRecord_at start]
  exact becomeHolder_breaks_tb _ .taken r.station draft room

end

/-! ## A RELEASE at the Custody Unit (R155, R162, R163) -/

section
variable {s : State} {r : ReleaseBody}

theorem closedByRelease_cu (s : State) (r : ReleaseBody) : (s.closedByRelease r).cu =
    { s.cu with recordClosed := if r.target ≠ 0 then false else if s.cu.state.holds = true then s.cu.recordClosed else true } := by
  rw [closedByRelease_eq, State.setCu_cu]

theorem closedByRelease_named (named : r.target ≠ 0) : (s.closedByRelease r).cu = { s.cu with recordClosed := false } := by
  rw [closedByRelease_cu, if_pos named]

theorem closedByRelease_inCustody (s : State) (r : ReleaseBody) : (s.closedByRelease r).inCustody = s.inCustody := by
  rw [State.inCustody, (frame_closedByRelease s r).cfg (by decide), closedByRelease_cu]
  rfl

theorem releaseAtCu_eq (s : State) (r : ReleaseBody) : s.releaseAtCu r =
    if s.inCustody = true then
      if r.target = s.own then if s.cu.state.holds = true then s.closedByRelease r else (s.closedByRelease r).takeRecord r
      else if s.cu.state = .claiming ∧ r.target ≠ 0 then (s.closedByRelease r).endClaim .passed r.target 0
      else s.closedByRelease r
    else s.closedByRelease r := by
  have own := (frame_closedByRelease s r).own (by decide)
  have state : (s.closedByRelease r).cu.state = s.cu.state := by rw [closedByRelease_cu]
  rw [State.releaseAtCu]
  simp only [closedByRelease_inCustody, own, state, Bool.not_eq_true']
  cases s.inCustody <;> rfl

/-- Where nothing is taken, the record-closed flag alone follows the RELEASE. -/
theorem releaseAtCu_ignores (ignored : s.cfg.writer = false ∨ s.cu.conflict = true ∨ s.cu.state.holds = true) :
    s.releaseAtCu r = s.closedByRelease r := by
  rw [releaseAtCu_eq]
  by_cases acts : s.inCustody = true
  · obtain ⟨writer, calm⟩ := (inCustody_iff s).mp acts
    have holds : s.cu.state.holds = true := by simpa [writer, calm] using ignored
    have apart : s.cu.state ≠ .claiming := fun claiming => by rw [claiming] at holds; cases holds
    have passesNone : ¬ (s.cu.state = .claiming ∧ r.target ≠ 0) := fun both => apart both.1
    rw [if_pos acts, if_pos holds, if_neg passesNone, ite_self]
  · exact if_neg acts

variable (writer : s.cfg.writer = true) (calm : s.cu.conflict = false)
include writer calm

theorem releaseAtCu_takes (free : s.cu.state.holds = false) (named : r.target = s.own) :
    s.releaseAtCu r = (s.closedByRelease r).takeRecord r := by
  rw [releaseAtCu_eq, if_pos ((inCustody_iff s).mpr ⟨writer, calm⟩), if_pos named, if_neg (by simp [free])]

variable (other : r.target ≠ s.own)
include other

theorem releaseAtCu_passes (claiming : s.cu.state = .claiming) (named : r.target ≠ 0) :
    s.releaseAtCu r = (s.closedByRelease r).endClaim .passed r.target 0 := by
  rw [releaseAtCu_eq, if_pos ((inCustody_iff s).mpr ⟨writer, calm⟩), if_neg other, if_pos ⟨claiming, named⟩]

theorem releaseAtCu_stays (apart : r.target = 0 ∨ s.cu.state ≠ .claiming) : s.releaseAtCu r = s.closedByRelease r := by
  rw [releaseAtCu_eq, if_pos ((inCustody_iff s).mpr ⟨writer, calm⟩), if_neg other,
    if_neg fun ⟨claiming, named⟩ => apart.elim named (· claiming)]

end

/-! ## A RELEASE at the Viewer (R169 to R171) -/

/-- The marks a RELEASE leaves: its station released, the station it names a holder, where it is ADMITTED. -/
def State.releaseMarked (s : State) (r : ReleaseBody) : State :=
  if r.target ≠ 0 ∧ s.roster.admits r.target = true then (s.markStation r.station .released).markStation r.target .named
  else s.markStation r.station .released

/-- The reach set at the last line of a RELEASE. -/
def State.releaseReached (s : State) (r : ReleaseBody) : State :=
  if 0 < r.last then (s.releaseMarked r).setReach r.last r.station else s.releaseMarked r

section
variable {s : State}

theorem releaseAtViewer_eq (s : State) (r : ReleaseBody) :
    s.releaseAtViewer r = if s.viewing = true then (s.releaseReached r).follow else s := by
  have roster : (s.markStation r.station .released).roster = s.roster := (frame_markStation s _ _).roster (by decide)
  unfold State.releaseAtViewer State.releaseReached State.releaseMarked
  simp only [roster]

theorem frame_releaseReached (s : State) (r : ReleaseBody) : SameBut [.vw] s (s.releaseReached r) := by
  have marked : SameBut [.vw] s (s.releaseMarked r) :=
    frame_ite ((frame_markStation _ _ _).trans (frame_markStation _ _ _)) (frame_markStation _ _ _)
  exact frame_ite (marked.trans (frame_setReach _ _ _)) marked

theorem markStation_followed (s : State) (n : Nat) (m : SlotMark) : (s.markStation n m).vw.followed = s.vw.followed := by
  unfold State.markStation
  split <;> rfl

theorem releaseReached_followed (s : State) (r : ReleaseBody) : (s.releaseReached r).vw.followed = s.vw.followed := by
  have marked : (s.releaseMarked r).vw.followed = s.vw.followed := by
    unfold State.releaseMarked
    split
    · rw [markStation_followed, markStation_followed]
    · exact markStation_followed _ _ _
  unfold State.releaseReached
  split
  · rw [setReach_followed, marked]
  · exact marked

/-- A viewer that has become the holder follows itself, its reach being its own committed-through. -/
theorem follow_self (online : s.online = true) (viewer : s.cfg.viewer = true) (writer : s.cfg.writer = true)
    (holds : s.cu.state.holds = true) (other : s.vw.followed ≠ some .self) :
    s.follow.vw.followed = some .self ∧ s.follow.vw.reach = some (s.tb.committedThrough, s.own)
    ∧ Latched s s.follow 12 (.followChanged s.own) := by
  have choice : s.followChoice = some .self := by simp [State.followChoice, writer, holds]
  have viewing : s.viewing = true := by
    rw [State.viewing, viewer]
    exact (Bool.and_true _).trans online
  have followed : s.follow.vw.followed = some .self := (follow_followed s viewing).trans choice
  obtain ⟨-, changed, -⟩ := follow_refollowed s
  obtain ⟨told, reach⟩ := changed (followed ▸ other.symm)
  rw [followed] at told
  rw [follow_tb] at reach
  have own : s.follow.followStation (some .self) = s.own := follow_own s
  exact ⟨followed, reach followed, own ▸ told⟩

theorem releaseAtViewer_self {r : ReleaseBody} (online : s.online = true) (viewer : s.cfg.viewer = true) (writer : s.cfg.writer = true)
    (holds : s.cu.state.holds = true) (other : s.vw.followed ≠ some .self) :
    (s.releaseAtViewer r).vw.followed = some .self ∧ (s.releaseAtViewer r).vw.reach = some (s.tb.committedThrough, s.own)
    ∧ Latched s (s.releaseAtViewer r) 12 (.followChanged s.own) := by
  have frame := frame_releaseReached s r
  have viewing : s.viewing = true := by
    rw [State.viewing, viewer]
    exact (Bool.and_true _).trans online
  have cfg := frame.cfg (by decide)
  obtain ⟨followed, reach, told⟩ := follow_self (s := s.releaseReached r) ((frame.online (by decide)).trans online)
    (by rw [cfg, viewer]) (by rw [cfg, writer]) (by rw [frame.cu (by decide), holds]) (by rwa [releaseReached_followed])
  rw [frame.own (by decide)] at reach told
  rw [frame.tb (by decide)] at reach
  rw [releaseAtViewer_eq, if_pos viewing]
  exact ⟨followed, reach, told.after (frame.noLatch (ps := []) (by decide)) (by decide) (by decide)⟩

end

/-! ## DELIVER_RELEASE -/

theorem exec_deliverRelease (s : State) : exec .deliverRelease s = .next s.deliverRelease := rfl

/-- The state in which a RELEASE has been taken by the Custody Unit, and then by the Viewer. -/
def State.releaseTaken (s : State) (rest : List Frame) (n : Nat) (r : ReleaseBody) : State :=
  ((s.heard rest n).releaseAtCu r).releaseAtViewer r

section
variable {s : State} {rest : List Frame} {n : Nat} {r : ReleaseBody}

theorem deliverRelease_eq {f : Frame} (queue : s.lnc.queue = f :: rest) (kind : f.kind = .release)
    (parsed : ReleaseBody.parse f.body = some r) : s.deliverRelease = (s.releaseTaken rest f.station r).offered := by
  rw [State.deliverRelease, deliver_front queue kind, parsed]
  rfl

theorem frame_releaseTaken (s : State) (rest : List Frame) (n : Nat) (r : ReleaseBody) :
    SameBut (.roster :: .lnc :: recordParts) s (s.releaseTaken rest n r) := by
  refine SameBut.chain (xs := .roster :: .lnc :: recordParts) ?_ (frame_releaseAtViewer _ r) (by decide) (by decide)
  exact (frame_heard s rest n).chain (frame_releaseAtCu _ r) (by decide) (by decide)

theorem releaseTaken_lnc (s : State) (rest : List Frame) (n : Nat) (r : ReleaseBody) :
    (s.releaseTaken rest n r).lnc = { s.lnc with queue := rest } := by
  rw [State.releaseTaken, (frame_releaseAtViewer _ _).lnc (by decide), (frame_releaseAtCu _ _).lnc (by decide), heard_lnc]

/-- What the Custody Unit does with a RELEASE stands in the end, but for the Viewer and FOLLOW_CHANGED. -/
theorem releaseTaken_after {v : State} (atCu : (s.heard rest n).releaseAtCu r = v) :
    (s.releaseTaken rest n r).cu = v.cu ∧ (s.releaseTaken rest n r).tb = v.tb ∧ LatchesBut [12] v (s.releaseTaken rest n r) := by
  have viewed := frame_releaseAtViewer v r
  rw [State.releaseTaken, atCu]
  exact ⟨viewed.cu (by decide), viewed.tb (by decide), latches_releaseAtViewer v r⟩

/-- The state at which the Custody Unit has set the record-closed flag. -/
theorem closed_heard (s : State) (rest : List Frame) (n : Nat) (r : ReleaseBody) :
    SameBut [.lnc, .roster, .cu] s ((s.heard rest n).closedByRelease r) :=
  (frame_heard s rest n).chain (frame_closedByRelease _ r) (by decide) (by decide)

end

end Sys2Proof.Machine

open Sys2Proof Sys2Proof.Machine

/-- Settles O43: a writer that is no holder takes the record named to it (`releaseAtCu_takes`), and where it views follows itself
(`releaseAtViewer_self`); a claim passed to another ends (`releaseAtCu_passes`); a holder, a viewer-only node and a node under CONFLICT
take nothing (`releaseAtCu_ignores`). -/
theorem aReleaseHandsTheRecordOver : Obligations.AReleaseHandsTheRecordOver := by
  unfold Obligations.AReleaseHandsTheRecordOver
  refine ⟨?writer, ?ignored⟩
  case writer =>
    intro s f rest r queue kind parsed writer calm free station draft
    have heardCu := heard_cu (rest := rest) s f.station
    have heardOwn := heard_own (rest := rest) s f.station
    have writer' : (s.heard rest f.station).cfg.writer = true := by rwa [heard_cfg]
    have calm' : (s.heard rest f.station).cu.conflict = false := by rwa [heardCu]
    have frame : SameBut [.lnc, .roster, .tb, .cu, .pub, .vw, .latches, .sp] s (s.releaseTaken rest f.station r).offered :=
      (frame_releaseTaken s rest f.station r).chain (frame_offered _) (by decide) (by decide)
    refine ⟨_, (exec_deliverRelease s).trans (congrArg Host.Outcome.next (deliverRelease_eq queue kind parsed)), frame, ?_,
      fun named => ?named, fun other => ?other⟩
    · rw [offered_queue, releaseTaken_lnc]
    case named =>
      have closed := closed_heard s rest f.station r
      have tb : ((s.heard rest f.station).closedByRelease r).tb = s.tb := closed.tb (by decide)
      have vw : ((s.heard rest f.station).closedByRelease r).vw = s.vw := closed.vw (by decide)
      have draft' : ((s.heard rest f.station).closedByRelease r).tb.series = .draft := by rwa [tb]
      have takes := releaseAtCu_takes (r := r) writer' calm' (by rwa [heardCu]) (by rwa [heardOwn])
      obtain ⟨cu, tbEnd, after⟩ := releaseTaken_after takes
      have before {ps : List Nat} : LatchesBut ps s ((s.heard rest f.station).closedByRelease r) := closed.noLatch (by decide)
      have told {m : Nat} {brk : Bool} (start : startNumber s.tb.horizon r.next = (m, brk)) :
          Latched s (s.releaseTaken rest f.station r).offered 4 (.custodyChanged .taken r.station m)
          ∧ (brk = true → Latched s (s.releaseTaken rest f.station r).offered 2 (.recordBreak m)) := by
        obtain ⟨taken, broke⟩ :=
          latched_takeRecord (s := (s.heard rest f.station).closedByRelease r) (r := r) (n := m) (brk := brk) (by rwa [tb])
        exact ⟨((taken.after (before (ps := [])) (by decide) (by decide)).keep after (by decide) (by decide)).offered,
          fun breaks => (((broke breaks).after (before (ps := [])) (by decide) (by decide)).keep after (by decide) (by decide)).offered⟩
      have plain {m : Nat} (start : startNumber s.tb.horizon r.next = (m, false)) :
          (s.releaseTaken rest f.station r).offered.tb.nextRecord = some m := by
        rw [offered_tb, tbEnd]
        exact takeRecord_plain_next draft' (by rwa [tb])
      refine ⟨?_, ?_, fun last => ?_, fun above => ?_, fun numbered below room => ?_, fun online viewer unlike => ?_⟩
      · rw [offered_cu, cu, takeRecord_cu, closedByRelease_cu, heardCu]
      · rw [offered_tb, tbEnd, takeRecord_series draft']
      · have start : startNumber s.tb.horizon r.next = (16777216, false) := by rw [last, startNumber_last]
        exact ⟨plain start, (told start).1⟩
      · exact ⟨plain (startNumber_above above), (told (startNumber_above above)).1⟩
      · have start := startNumber_breaks numbered below
        obtain ⟨taken, broke⟩ := told start
        obtain ⟨next, horizon⟩ := takeRecord_breaks_tb (r := r) draft' (by rwa [tb]) (by rwa [tb])
        rw [tb] at next horizon
        rw [offered_tb, tbEnd]
        exact ⟨next, horizon, broke rfl, taken⟩
      · have taken := frame_takeRecord ((s.heard rest f.station).closedByRelease r) r
        have cfg : (((s.heard rest f.station).closedByRelease r).takeRecord r).cfg = s.cfg :=
          (taken.cfg (by decide)).trans (closed.cfg (by decide))
        have own : (((s.heard rest f.station).closedByRelease r).takeRecord r).own = s.own :=
          (taken.own (by decide)).trans (closed.own (by decide))
        obtain ⟨followed, reach, follows⟩ := releaseAtViewer_self (r := r)
          (((taken.online (by decide)).trans (closed.online (by decide))).trans online) (by rwa [cfg]) (by rwa [cfg])
          (by rw [takeRecord_cu]; rfl) (by rwa [takeRecord_followed draft', vw])
        rw [own] at reach follows
        rw [offered_vw, offered_tb, tbEnd, State.releaseTaken, takes]
        have quiet := before.trans (latches_takeRecord _ r)
        exact ⟨followed, reach, (follows.after quiet (by decide) (by decide)).offered⟩
    case other =>
      have other' : r.target ≠ (s.heard rest f.station).own := by rwa [heardOwn]
      have closed := closed_heard s rest f.station r
      have tb := closed.tb (by decide)
      have stays (apart : r.target = 0 ∨ s.cu.state ≠ .claiming) := releaseTaken_after
        (releaseAtCu_stays writer' calm' other' (by rwa [heardCu]))
      have closes (apart : r.target = 0 ∨ s.cu.state ≠ .claiming) : (s.releaseTaken rest f.station r).cu =
          { s.cu with recordClosed := if r.target ≠ 0 then false else if s.cu.state.holds = true then s.cu.recordClosed else true } := by
        obtain ⟨cu, -⟩ := stays apart
        rw [cu, closedByRelease_cu, heardCu]
      rw [offered_tb, offered_cu]
      refine ⟨?_, fun none => ?_, fun some apart => ?_, fun some claiming => ?_⟩
      · by_cases apart : r.target = 0 ∨ s.cu.state ≠ .claiming
        · obtain ⟨-, same, -⟩ := stays apart
          rw [same, tb]
        · obtain ⟨named, claiming⟩ := not_or.mp apart
          obtain ⟨-, same, -⟩ := releaseTaken_after
            (releaseAtCu_passes writer' calm' other' (by rw [heardCu]; exact not_not.mp claiming) named)
          rw [same, (frame_endClaim _ _ _ _).tb (by decide), tb]
      · rw [closes (Or.inl none), if_neg (not_not.mpr none), if_neg (by simp [free])]
      · rw [closes (Or.inr apart), if_pos some]
      · obtain ⟨cu, -, after⟩ := releaseTaken_after (releaseAtCu_passes writer' calm' other' (by rwa [heardCu]) some)
        have told := (latched_endClaim ((s.heard rest f.station).closedByRelease r) .passed r.target 0).after
          (closed.noLatch (ps := []) (by decide)) (by decide) (by decide)
        rw [cu, endClaim_cu, closedByRelease_named some, heardCu]
        exact ⟨rfl, (told.keep after (by decide) (by decide)).offered⟩
  case ignored =>
    intro s f rest r queue kind parsed ignored
    have ignores : (s.heard rest f.station).releaseAtCu r = (s.heard rest f.station).closedByRelease r :=
      releaseAtCu_ignores (by rwa [heard_cfg, heard_cu])
    obtain ⟨cu, -, after⟩ := releaseTaken_after ignores
    have closed := closed_heard s rest f.station r
    have frame : SameBut [.lnc, .roster, .cu, .vw, .latches] s (s.releaseTaken rest f.station r) := by
      rw [State.releaseTaken, ignores]
      exact closed.chain (frame_releaseAtViewer _ r) (by decide) (by decide)
    refine ⟨_, (exec_deliverRelease s).trans (congrArg Host.Outcome.next (deliverRelease_eq queue kind parsed)), frame,
      releaseTaken_lnc s rest f.station r, ?_, fun p low unlike => ?_⟩
    · rw [cu, closedByRelease_cu, heard_cu]
    · have quiet : LatchesBut [12] s (s.releaseTaken rest f.station r) := (closed.noLatch (by decide)).trans after
      exact quiet p low (by simpa using unlike)
end

section
/-! SUPPORT. A STATION of another station: the slot it finds, enters or replaces, and what the Custody Unit does with it; with them O39. -/

namespace Sys2Proof.Machine

/-! ## The slot after a STATION (R144, R145) -/

section
variable (q : RosterSlot) (b : StationBody) (own : Byte × Byte) (now lapse : Ms)

/-- A judgement of the signatures touches the state, the older signature, the free timer and the lapsed-at time alone. -/
theorem judged_fields : q.judged own =
    { q with state := (q.judged own).state, older := (q.judged own).older, freeAt := (q.judged own).freeAt,
             lapsedAt := (q.judged own).lapsedAt } := by
  unfold RosterSlot.judged
  split
  · split <;> rfl
  · rfl
  · split <;> rfl

theorem taken_station : (q.taken b own now lapse).station = q.station := by
  rw [RosterSlot.taken, judged_fields]
  rfl

theorem taken_custody : (q.taken b own now lapse).custody = b.custody := by
  rw [RosterSlot.taken, judged_fields]
  rfl

theorem taken_rank : (q.taken b own now lapse).rank = b.rank := by
  rw [RosterSlot.taken, judged_fields]
  rfl

theorem taken_fields : q.taken b own now lapse =
    { q with newer := some b.sig, older := (q.taken b own now lapse).older, roles := b.roles, custody := b.custody, rank := b.rank,
             flags := b.flags, horizon := b.horizon, share := b.share, refreshedAt := now, lapseAt := some lapse,
             state := (q.taken b own now lapse).state, freeAt := (q.taken b own now lapse).freeAt,
             lapsedAt := (q.taken b own now lapse).lapsedAt } := judged_fields (q.announced b now lapse) own

variable {q}

theorem taken_lapsed (lapsed : q.state = .lapsed) : q.taken b own now lapse =
    { q.announced b now lapse with state := .heard, older := none, freeAt := none, lapsedAt := none } := by
  have state : (q.announced b now lapse).state = .lapsed := lapsed
  rw [RosterSlot.taken, RosterSlot.judged, state]

/-- Two equal signatures judge a HEARD slot by the node's own, and leave a judged one; a changed signature starts anew. -/
theorem taken_heard (here : q.state ≠ .lapsed) : q.taken b own now lapse =
    { q.announced b now lapse with
      state := if q.newer = some b.sig then
                 (if q.state = .heard then (if b.sig = own then .admitted else .excluded) else q.state)
               else .heard } := by
  cases state : q.state with
  | lapsed => exact absurd state here
  | heard | admitted | excluded =>
    by_cases same : q.newer = some b.sig
    · simp [RosterSlot.taken, RosterSlot.judged, RosterSlot.announced, state, same]
    · simp [RosterSlot.taken, RosterSlot.judged, RosterSlot.announced, state, same, Ne.symm same]

theorem taken_state : (q.taken b own now lapse).state =
    if q.state = .lapsed then .heard
    else if q.newer = some b.sig then
      (if q.state = .heard then (if b.sig = own then .admitted else .excluded) else q.state)
    else .heard := by
  by_cases lapsed : q.state = .lapsed
  · rw [taken_lapsed b own now lapse lapsed, if_pos lapsed]
  · rw [taken_heard b own now lapse lapsed, if_neg lapsed]

/-- A slot entered for a station holds what its first STATION announces, and is HEARD. -/
theorem entered_taken (n : Nat) : (RosterSlot.entered n now).taken b own now lapse =
    { station := n, state := .heard, newer := some b.sig, older := none, roles := b.roles, custody := b.custody, rank := b.rank,
      flags := b.flags, horizon := b.horizon, share := b.share, lapseAt := some lapse, freeAt := none, lapsedAt := none,
      refreshedAt := now, lastDefine := none } := taken_heard b own now lapse SlotState.noConfusion

end

/-! ## Slots found (R143) -/

theorem station_of_indexOf {r : Roster} {n i : Nat} {q : RosterSlot} (index : r.indexOf n = some i) (held : r.slot i = some q) :
    q.station = n := by
  obtain ⟨inside, found, -⟩ := List.findIdx?_eq_some_iff_getElem.mp index
  have here : r.slots.toList[i] = some q := by
    have listed := slots_of_slot held
    rwa [List.getElem?_eq_getElem inside, Option.some.injEq] at listed
  rw [here] at found
  exact of_decide_eq_true found

theorem freeSlot_lt {r : Roster} {i : Nat} (free : r.freeSlot = some i) : i < 16 := by
  obtain ⟨inside, -⟩ := List.findIdx?_eq_some_iff_getElem.mp free
  simpa using inside

/-! ## Claimers that leave (R158) -/

section
variable {s : State} {n : Nat}

theorem dropClaim_stays (apart : s.cu.handOver ≠ .gathering ∨ ∀ x ∈ s.cu.claims, x.station ≠ n) : s.dropClaim n = s := by
  refine if_neg fun ⟨gathering, listed⟩ => ?_
  obtain ⟨x, member, station⟩ := List.any_eq_true.mp listed
  exact apart.elim (· gathering) fun unlisted => unlisted x member (of_decide_eq_true station)

section
variable (gathering : s.cu.handOver = .gathering) (listed : ∃ x ∈ s.cu.claims, x.station = n)
include gathering listed

theorem dropClaim_leaves (more : s.cu.claims.filter (fun x => decide (x.station ≠ n)) ≠ []) :
    s.dropClaim n = s.setCu { s.cu with claims := s.cu.claims.filter fun x => decide (x.station ≠ n) } := by
  rw [State.dropClaim, if_pos ⟨gathering, by simpa using listed⟩]
  exact if_neg (by simpa using more)

theorem dropClaim_ends (last : s.cu.claims.filter (fun x => decide (x.station ≠ n)) = []) : s.dropClaim n =
    (s.setCu { s.cu with claims := [], settleAt := none, handOver := .none }).setCustody .onRecord := by
  rw [State.dropClaim, if_pos ⟨gathering, by simpa using listed⟩]
  exact if_pos (by rw [last]; rfl)

end

/-- Whether or not a claimer leaves, a change of the claims, the settle timer, the hand-over and, at a node that is gathering, of the
state is all that comes of it. -/
theorem dropClaim_cases (s : State) (n : Nat) :
    s.dropClaim n = s ∨ (∃ left, s.dropClaim n = s.setCu { s.cu with claims := left })
    ∨ (s.cu.handOver = .gathering
      ∧ s.dropClaim n = (s.setCu { s.cu with claims := [], settleAt := none, handOver := .none }).setCustody .onRecord) := by
  by_cases stays : s.cu.handOver ≠ .gathering ∨ ∀ x ∈ s.cu.claims, x.station ≠ n
  · exact Or.inl (dropClaim_stays stays)
  · simp only [not_or, not_not, not_forall, exists_prop] at stays
    obtain ⟨gathering, listed⟩ := stays
    by_cases last : s.cu.claims.filter (fun x => decide (x.station ≠ n)) = []
    · exact Or.inr (Or.inr ⟨gathering, dropClaim_ends gathering listed last⟩)
    · exact Or.inr (Or.inl ⟨_, dropClaim_leaves gathering listed last⟩)

theorem dropClaim_holds (gatherer : s.cu.handOver = .gathering → s.cu.state.holds = true) (n : Nat) :
    (s.dropClaim n).cu.state.holds = s.cu.state.holds := by
  obtain stays | ⟨left, leaves⟩ | ⟨gathering, ends⟩ := dropClaim_cases s n
  · rw [stays]
  · rw [leaves]
    rfl
  · rw [ends, setCustody_cu, gatherer gathering]
    rfl

theorem dropClaim_views (s : State) (n : Nat) : SameViews s.vw (s.dropClaim n).vw := by
  obtain stays | ⟨left, leaves⟩ | ⟨-, ends⟩ := dropClaim_cases s n
  · rw [stays]
    exact SameViews.refl _
  · rw [leaves]
    exact SameViews.refl _
  · rw [ends]
    exact setCustody_views (s.setCu { s.cu with claims := [], settleAt := none, handOver := .none }) .onRecord

end

/-! ## A commit-all leaves the series in force (R94) -/

section
variable (s : State)

theorem commitText_series (carried : Bool) (text : List Byte) (strokes : Nat) :
    (s.commitText carried text strokes).tb.series = s.tb.series := by
  cases series : s.tb.series with
  | draft =>
    obtain ⟨tb, -⟩ := commitText_draft carried text strokes series
    rw [tb]
    exact series
  | record =>
    by_cases above : s.tb.horizon < s.tb.nextRecord.getD 1
    · by_cases low : s.tb.nextRecord.getD 1 ≤ 16777215
      · obtain ⟨tb, -⟩ := commitText_above carried text strokes series rfl above low
        rw [tb]
        exact series
      · obtain ⟨tb, -⟩ := commitText_past carried text strokes series rfl above (Nat.not_le.mp low)
        rw [tb]
        exact series
    · have below := Nat.not_lt.mp above
      obtain room | last | ended : s.tb.horizon + 2 ≤ 16777215 ∨ s.tb.horizon = 16777214 ∨ 16777215 ≤ s.tb.horizon := by omega
      · obtain ⟨tb, -⟩ := commitText_jumps carried text strokes series rfl below room
        rw [tb]
        exact series
      · obtain ⟨tb, -⟩ := commitText_lastBreak carried text strokes series rfl below last
        rw [tb]
        exact series
      · obtain ⟨tb, -⟩ := commitText_ended carried text strokes series rfl below ended
        rw [tb]
        exact series

theorem commitOldest_series : s.commitOldest.tb.series = s.tb.series := by
  rw [commitOldest_tb]
  exact commitText_series s.releaseFirst _ _ _

theorem commitWhile_series (p : Region → Bool) (fuel : Nat) (s : State) : (State.commitWhile p fuel s).tb.series = s.tb.series := by
  induction fuel generalizing s with
  | zero => rfl
  | succ fuel ih =>
    unfold State.commitWhile
    split
    · rw [ih, commitOldest_series]
    · rfl

theorem commitAllLines_series : s.commitAllLines.tb.series = s.tb.series := by
  rw [commitAllLines_eq, clearRegion_tb]
  exact commitWhile_series _ _ s

end

/-! ## A holder yields (R164) -/

section
variable (s : State) (n : Nat)

/-- The state out of RECORD, the claims and the hand-over gone. -/
def State.yielding (s : State) : State :=
  (s.commitAllLines.switchToDraft).setCu { s.cu with claims := [], settleAt := none, handOver := .none }

theorem yieldTo_eq : s.yieldTo n = (s.yielding.setCustody .shadow).latch (.custodyChanged .yielded n 0) := by
  have cu : (s.commitAllLines.switchToDraft).cu = s.cu := by rw [switchToDraft_cu, commitAllLines_cu]
  rw [State.yielding, ← cu]
  rfl

theorem yieldTo_cu : (s.yieldTo n).cu = { s.cu with state := .shadow, handOver := .none, claims := [], settleAt := none } := by
  rw [yieldTo_eq, latch_cu, setCustody_cu]
  rfl

theorem yieldTo_tb : (s.yieldTo n).tb = s.commitAllLines.switchToDraft.tb := by
  rw [yieldTo_eq, latch_tb, setCustody_tb]
  rfl

/-- A RECORD node that yields writes DRAFT, its open lines committed. -/
theorem yieldTo_draft (record : s.tb.series = .record) :
    (s.yieldTo n).tb.series = .draft ∧ (s.yieldTo n).tb.nextRecord = none ∧ ∃ f, (s.yieldTo n).tb.region = Region.empty f := by
  rw [yieldTo_tb, switchToDraft_tb, if_pos ((commitAllLines_series s).trans record), commitAllLines_eq, clearRegion_tb]
  exact ⟨rfl, rfl, _, rfl⟩

theorem yieldTo_station : (s.yieldTo n).pub.stationWaiting = some 0 := by
  rw [yieldTo_eq, latch_pub]
  exact setCustody_station _ _

theorem latched_yieldTo : Latched s (s.yieldTo n) 4 (.custodyChanged .yielded n 0) := by
  have left : LatchesBut tbEvents s s.yielding := (latches_leaveRecord s).trans ((frame_setCu _ _).noLatch (by decide))
  rw [yieldTo_eq]
  exact (latched_latch _ _).after (left.chain (latches_setCustody _ _) (rs := switchEvents) (by decide) (by decide))
    (Nat.le_of_ble_eq_true rfl) (by decide : 4 ∉ switchEvents)

end

/-! ## A STATION at the Custody Unit (R147) -/

/-- The record-closed flag after a STATION: an ADMITTED station ON_RECORD clears it (R163). -/
def State.reopened (s : State) (q : RosterSlot) : State :=
  if q.state = .admitted ∧ q.custody = .onRecord then s.setCu { s.cu with recordClosed := false } else s

/-- A station that no longer claims leaves the claim list (R158). -/
def State.claimerJudged (s : State) (q : RosterSlot) : State :=
  if q.custody ≠ .claiming ∨ q.state ≠ .admitted then (s.reopened q).dropClaim q.station else s.reopened q

/-- An ADMITTED holder outranks this one (R164). -/
def State.outranked (s : State) (q : RosterSlot) : Bool :=
  decide (q.state = .admitted) && q.custody.holds && s.cu.state.holds && better q.rank q.station s.cfg.rank s.own

section
variable {s : State} {q : RosterSlot}

theorem reopened_cu (s : State) (q : RosterSlot) : (s.reopened q).cu =
    { s.cu with recordClosed := if q.state = .admitted ∧ q.custody = .onRecord then false else s.cu.recordClosed } := by
  unfold State.reopened
  split <;> rfl

theorem frame_reopened (s : State) (q : RosterSlot) : SameBut [.cu] s (s.reopened q) := frame_ite (frame_setCu _ _) (SameBut.refl _ _)

theorem frame_claimerJudged (s : State) (q : RosterSlot) : SameBut cuParts s (s.claimerJudged q) :=
  frame_ite ((frame_reopened s q).chain (frame_dropClaim _ _) (by decide) (by decide)) ((frame_reopened s q).mono (by decide))

theorem latches_claimerJudged (s : State) (q : RosterSlot) : LatchesBut [12] s (s.claimerJudged q) := by
  have opened : LatchesBut [12] s (s.reopened q) := (frame_reopened s q).noLatch (by decide)
  exact latches_ite (opened.trans (latches_dropClaim _ _)) opened

theorem stationAtCu_eq (s : State) (q : RosterSlot) : s.stationAtCu q =
    if (s.claimerJudged q).outranked q = true then (s.claimerJudged q).yieldTo q.station else s.claimerJudged q := by
  have same : (s.claimerJudged q).outranked q = true ↔ q.state = .admitted ∧ q.custody.holds = true
      ∧ (s.claimerJudged q).cu.state.holds = true
      ∧ better q.rank q.station (s.claimerJudged q).cfg.rank (s.claimerJudged q).own = true := by
    simp [State.outranked, and_assoc]
  simp only [same]
  rfl

theorem claimerJudged_stays (apart : s.cu.handOver ≠ .gathering ∨ (∀ x ∈ s.cu.claims, x.station ≠ q.station)
    ∨ (q.custody = .claiming ∧ q.state = .admitted)) : s.claimerJudged q = s.reopened q := by
  unfold State.claimerJudged
  split
  · next left =>
    refine dropClaim_stays ?_
    rw [reopened_cu]
    obtain other | unlisted | ⟨claims, admitted⟩ := apart
    · exact Or.inl other
    · exact Or.inr unlisted
    · exact absurd admitted (left.resolve_left (not_not.mpr claims))
  · rfl

theorem claimerJudged_leaves (left : q.custody ≠ .claiming ∨ q.state ≠ .admitted) :
    s.claimerJudged q = (s.reopened q).dropClaim q.station := if_pos left

variable (gatherer : s.cu.handOver = .gathering → s.cu.state.holds = true)
include gatherer

theorem claimerJudged_outranked : (s.claimerJudged q).outranked q = s.outranked q := by
  have frame := frame_claimerJudged s q
  have opened : (s.reopened q).cu.state = s.cu.state := by rw [reopened_cu]
  have holds : (s.claimerJudged q).cu.state.holds = s.cu.state.holds := by
    unfold State.claimerJudged
    split
    · rw [dropClaim_holds (by rw [reopened_cu]; exact gatherer), opened]
    · rw [opened]
  rw [State.outranked, holds, frame.cfg (by decide), frame.own (by decide)]
  rfl

/-- A yield leaves nothing of what the claim list came to. -/
theorem stationAtCu_yields (yields : s.outranked q = true) : s.stationAtCu q = (s.claimerJudged q).yieldTo q.station := by
  rw [stationAtCu_eq, claimerJudged_outranked gatherer, if_pos yields]

theorem stationAtCu_keeps (keeps : s.outranked q = false) : s.stationAtCu q = s.claimerJudged q := by
  rw [stationAtCu_eq, claimerJudged_outranked gatherer, if_neg (by simp [keeps])]

end

/-- Whatever a claimer's leaving changes at the Custody Unit, a yield sets anew. -/
theorem claimerJudged_yieldTo_cu (s : State) (q : RosterSlot) : ((s.claimerJudged q).yieldTo q.station).cu =
    { s.cu with state := .shadow, handOver := .none, claims := [], settleAt := none,
                recordClosed := if q.state = .admitted ∧ q.custody = .onRecord then false else s.cu.recordClosed } := by
  rw [yieldTo_cu, State.claimerJudged]
  split
  · obtain stays | ⟨left, leaves⟩ | ⟨-, ends⟩ := dropClaim_cases (s.reopened q) q.station
    · rw [stays, reopened_cu]
    · rw [leaves, State.setCu_cu, reopened_cu]
    · rw [ends, setCustody_cu, State.setCu_cu, reopened_cu]
  · rw [reopened_cu]

/-- A station that is not ADMITTED makes no holder yield. -/
theorem stationAtCu_unadmitted {s : State} {q : RosterSlot} (other : q.state ≠ .admitted) : s.stationAtCu q = s.dropClaim q.station := by
  have opened : s.reopened q = s := if_neg fun both => other both.1
  have judged : s.claimerJudged q = s.dropClaim q.station := by rw [claimerJudged_leaves (Or.inr other), opened]
  rw [stationAtCu_eq, judged, if_neg (by simp [State.outranked, other])]

/-! ## A STATION taken into a slot (R144, R145, R147) -/

/-- The slot that held `q` after a STATION of body `b`. -/
def State.slotAfter (s : State) (q : RosterSlot) (b : StationBody) : RosterSlot :=
  q.taken b s.pub.signature s.clock.ms (s.after (1000 * s.cfg.lapseTime))

theorem slotAfter_station (s : State) (q : RosterSlot) (b : StationBody) : (s.slotAfter q b).station = q.station := taken_station _ _ _ _ _

theorem slotAfter_custody (s : State) (q : RosterSlot) (b : StationBody) : (s.slotAfter q b).custody = b.custody := taken_custody _ _ _ _ _

theorem slotAfter_rank (s : State) (q : RosterSlot) (b : StationBody) : (s.slotAfter q b).rank = b.rank := taken_rank _ _ _ _ _

/-- The state with slot `i`, which held `q`, taken for a STATION, and its mark gone. -/
def State.slotMoved (s : State) (i : Nat) (q : RosterSlot) (b : StationBody) : State :=
  (s.setSlot i (some (s.slotAfter q b))).setVw (s.vw.setMark i .none)

/-- The state once an admission or exclusion has been told. -/
def State.slotTaken (s : State) (i : Nat) (q : RosterSlot) (b : StationBody) : State :=
  (s.slotMoved i q b).rosterEvent q (s.slotAfter q b)

/-- The state at which the share of the roster's change has been recomputed, and the Custody Unit is told. -/
def State.slotShared (s : State) (i : Nat) (q : RosterSlot) (b : StationBody) (replaced : Bool) : State :=
  (s.slotTaken i q b).reshareIf (replaced || changesShare q (s.slotAfter q b))

section
variable {s : State} {i : Nat} {q : RosterSlot} {b : StationBody} {replaced : Bool}

theorem takeStation_eq (s : State) (i : Nat) (q : RosterSlot) (b : StationBody) (replaced : Bool) :
    s.takeStation i q b replaced = ((s.slotShared i q b replaced).stationAtCu (s.slotAfter q b)).follow := rfl

theorem rosterEvent_told {s : State} {old new : RosterSlot} {change : RosterChange} (differ : old.state ≠ new.state)
    (told : (new.state = .admitted ∧ change = .admitted) ∨ (new.state = .excluded ∧ change = .excluded)) :
    Latched s (s.rosterEvent old new) 15 (.rosterChanged new.station change) := by
  obtain ⟨state, rfl⟩ | ⟨state, rfl⟩ := told
  · rw [State.rosterEvent, if_neg differ, state]
    exact latched_latch _ _
  · rw [State.rosterEvent, if_neg differ, state]
    exact latched_latch _ _

theorem rosterEvent_same {s : State} {old new : RosterSlot} (same : old.state = new.state) : s.rosterEvent old new = s := if_pos same

theorem frame_slotMoved (s : State) (i : Nat) (q : RosterSlot) (b : StationBody) : SameBut [.roster, .vw] s (s.slotMoved i q b) :=
  (frame_setSlot _ _ _).chain (frame_setVw _ _) (by decide) (by decide)

theorem frame_slotTaken (s : State) (i : Nat) (q : RosterSlot) (b : StationBody) :
    SameBut [.roster, .vw, .latches] s (s.slotTaken i q b) :=
  (frame_slotMoved s i q b).chain (frame_rosterEvent _ _ _) (by decide) (by decide)

theorem frame_slotShared (s : State) (i : Nat) (q : RosterSlot) (b : StationBody) (replaced : Bool) :
    SameBut [.roster, .vw, .latches, .pub] s (s.slotShared i q b replaced) :=
  (frame_slotTaken s i q b).chain (frame_reshareIf _ _) (by decide) (by decide)

theorem slotShared_roster (s : State) (i : Nat) (q : RosterSlot) (b : StationBody) (replaced : Bool) :
    (s.slotShared i q b replaced).roster = s.roster.setSlot i (some (s.slotAfter q b)) := by
  rw [State.slotShared, reshareIf_roster, State.slotTaken, (frame_rosterEvent _ _ _).roster (by decide)]
  rfl

theorem slotShared_vw (s : State) (i : Nat) (q : RosterSlot) (b : StationBody) (replaced : Bool) :
    (s.slotShared i q b replaced).vw = s.vw.setMark i .none := by
  rw [State.slotShared, reshareIf_vw, State.slotTaken, (frame_rosterEvent _ _ _).vw (by decide)]
  rfl

theorem latches_slotShared (s : State) (i : Nat) (q : RosterSlot) (b : StationBody) (replaced : Bool) :
    LatchesBut [15] s (s.slotShared i q b replaced) := by
  have moved := frame_slotMoved s i q b
  exact ((moved.noLatch (by decide)).trans (latches_rosterEvent _ _ _)).trans ((frame_reshareIf _ _).noLatch (by decide))

/-- After the share, the Custody Unit and the choice of the followed holder touch other latches than ROSTER_CHANGED. -/
theorem latches_takeStation (s : State) (i : Nat) (q : RosterSlot) (b : StationBody) (replaced : Bool) :
    LatchesBut (4 :: switchEvents) (s.slotShared i q b replaced) (s.takeStation i q b replaced) :=
  (latches_stationAtCu _ _).trans ((latches_follow _).mono (by decide))

theorem takeStation_told {change : RosterChange} (differ : q.state ≠ (s.slotAfter q b).state)
    (told : ((s.slotAfter q b).state = .admitted ∧ change = .admitted)
      ∨ ((s.slotAfter q b).state = .excluded ∧ change = .excluded)) :
    Latched s (s.takeStation i q b replaced) 15 (.rosterChanged q.station change) := by
  have moved := frame_slotMoved s i q b
  have event := rosterEvent_told (s := s.slotMoved i q b) differ told
  rw [slotAfter_station] at event
  have shared : Latched s (s.slotShared i q b replaced) 15 (.rosterChanged q.station change) :=
    (event.after (moved.noLatch (ps := []) (by decide)) (by decide) (by decide)).keep
      ((frame_reshareIf _ _).noLatch (ps := []) (by decide)) (by decide) (by decide)
  exact shared.keep (latches_takeStation s i q b replaced) (by decide) (by decide)

/-- A slot that stays HEARD tells nothing. -/
theorem takeStation_quiet (same : q.state = (s.slotAfter q b).state) :
    (s.takeStation i q b replaced).lcp.latch 15 = s.lcp.latch 15 := by
  have moved := frame_slotMoved s i q b
  have shared : LatchesBut [] s (s.slotShared i q b replaced) := by
    rw [State.slotShared, State.slotTaken, rosterEvent_same same]
    exact (moved.noLatch (by decide)).trans ((frame_reshareIf _ _).noLatch (by decide))
  exact (latches_takeStation s i q b replaced 15 (by decide) (by decide)).trans (shared 15 (by decide) (by decide))

theorem takeStation_roster (s : State) (i : Nat) (q : RosterSlot) (b : StationBody) (replaced : Bool) :
    (s.takeStation i q b replaced).roster = s.roster.setSlot i (some (s.slotAfter q b)) := by
  rw [takeStation_eq, follow_roster, (frame_stationAtCu _ _).roster (by decide), slotShared_roster]

theorem takeStation_lnc (s : State) (i : Nat) (q : RosterSlot) (b : StationBody) (replaced : Bool) :
    (s.takeStation i q b replaced).lnc = s.lnc := (frame_takeStation s i q b replaced).lnc (by decide)

theorem takeStation_slot (inside : i < 16) : (s.takeStation i q b replaced).roster.slot i = some (s.slotAfter q b) := by
  rw [takeStation_roster, roster_setSlot, if_pos ⟨rfl, inside⟩]

theorem takeStation_slots {j : Nat} (other : j ≠ i) : (s.takeStation i q b replaced).roster.slot j = s.roster.slot j := by
  rw [takeStation_roster, roster_setSlot, if_neg fun same => other same.1.symm]

/-- A STATION that leaves its slot short of ADMITTED leaves the tail images. -/
theorem takeStation_tails (other : (s.slotAfter q b).state ≠ .admitted) : (s.takeStation i q b replaced).vw.tails = s.vw.tails := by
  obtain ⟨-, followed, -⟩ := follow_views ((s.slotShared i q b replaced).stationAtCu (s.slotAfter q b))
  obtain ⟨-, dropped, -⟩ := dropClaim_views (s.slotShared i q b replaced) (s.slotAfter q b).station
  rw [takeStation_eq, followed, stationAtCu_unadmitted other, dropped, slotShared_vw]
  rfl

end

/-! ## The Custody Unit after a STATION of a slot held (R158, R163, R164) -/

section
variable {s : State} {i : Nat} {q : RosterSlot} {b : StationBody} {replaced : Bool}

/-- A STATION of body `b` in the slot of `q` makes this node yield (R164). -/
def State.givesWay (s : State) (q : RosterSlot) (b : StationBody) : Bool :=
  decide ((s.slotAfter q b).state = .admitted) && b.custody.holds && s.cu.state.holds && better b.rank q.station s.cfg.rank s.own

/-- The record-closed flag after a STATION of body `b` in the slot of `q` (R163). -/
def State.closedAfter (s : State) (q : RosterSlot) (b : StationBody) : Bool :=
  if (s.slotAfter q b).state = .admitted ∧ b.custody = .onRecord then false else s.cu.recordClosed

/-- A gathering node holds the record. -/
theorem Coherent.gatherer (h : Coherent s) (gathering : s.cu.handOver = .gathering) : s.cu.state.holds = true := by
  obtain ⟨-, handing, -⟩ := h
  rw [handing.mp (by rw [gathering]; decide)]
  rfl

theorem slotShared_cu (s : State) (i : Nat) (q : RosterSlot) (b : StationBody) (replaced : Bool) :
    (s.slotShared i q b replaced).cu = s.cu := (frame_slotShared s i q b replaced).cu (by decide)

theorem reopened_slotShared_cu (s : State) (i : Nat) (q : RosterSlot) (b : StationBody) (replaced : Bool) :
    ((s.slotShared i q b replaced).reopened (s.slotAfter q b)).cu =
    { s.cu with recordClosed := s.closedAfter q b } := by
  rw [reopened_cu, slotShared_cu, slotAfter_custody]
  rfl

/-- The ADMITTED holder of a slot outranks this one, as its STATION tells. -/
theorem slotShared_outranked (s : State) (i : Nat) (q : RosterSlot) (b : StationBody) (replaced : Bool) :
    (s.slotShared i q b replaced).outranked (s.slotAfter q b) =
      s.givesWay q b := by
  have frame := frame_slotShared s i q b replaced
  rw [State.outranked, frame.cu (by decide), frame.cfg (by decide), frame.own (by decide), slotAfter_custody, slotAfter_rank,
    slotAfter_station]
  rfl

section
variable (coherent : Coherent s) (yields : s.givesWay q b = true)
include coherent yields

theorem takeStation_yields : s.takeStation i q b replaced =
    (((s.slotShared i q b replaced).claimerJudged (s.slotAfter q b)).yieldTo q.station).follow := by
  have gatherer : (s.slotShared i q b replaced).cu.handOver = .gathering → (s.slotShared i q b replaced).cu.state.holds = true := by
    rw [slotShared_cu]
    exact coherent.gatherer
  rw [takeStation_eq, stationAtCu_yields gatherer ((slotShared_outranked s i q b replaced).trans yields), slotAfter_station]

theorem takeStation_yields_cu : (s.takeStation i q b replaced).cu =
    { s.cu with state := .shadow, handOver := .none, claims := [], settleAt := none,
                recordClosed := s.closedAfter q b } := by
  have judged := claimerJudged_yieldTo_cu (s.slotShared i q b replaced) (s.slotAfter q b)
  rw [slotAfter_station, slotAfter_custody, slotShared_cu] at judged
  rw [takeStation_yields coherent yields, follow_cu, judged]
  rfl

theorem takeStation_yields_tb : (s.takeStation i q b replaced).tb.series = .draft ∧ (s.takeStation i q b replaced).tb.nextRecord = none
    ∧ ∃ f, (s.takeStation i q b replaced).tb.region = Region.empty f := by
  have holds : s.cu.state.holds = true := by
    simp only [State.givesWay, Bool.and_eq_true] at yields
    obtain ⟨⟨-, holds⟩, -⟩ := yields
    exact holds
  have record : s.tb.series = .record := by
    obtain ⟨writes, -⟩ := coherent
    exact writes.mpr holds
  have frame := frame_claimerJudged (s.slotShared i q b replaced) (s.slotAfter q b)
  have tb : ((s.slotShared i q b replaced).claimerJudged (s.slotAfter q b)).tb = s.tb :=
    (frame.tb (by decide)).trans ((frame_slotShared s i q b replaced).tb (by decide))
  have written := yieldTo_draft ((s.slotShared i q b replaced).claimerJudged (s.slotAfter q b)) q.station
    (by rw [tb]; exact record)
  rw [takeStation_yields coherent yields, follow_tb]
  exact written

theorem takeStation_yields_station : (s.takeStation i q b replaced).pub.stationWaiting = some 0 := by
  rw [takeStation_yields coherent yields, follow_pub, yieldTo_station]

theorem takeStation_yields_told : Latched s (s.takeStation i q b replaced) 4 (.custodyChanged .yielded q.station 0) := by
  have before : LatchesBut [12, 15] s ((s.slotShared i q b replaced).claimerJudged (s.slotAfter q b)) :=
    (latches_slotShared s i q b replaced).chain (latches_claimerJudged _ _) (by decide) (by decide)
  rw [takeStation_yields coherent yields]
  exact ((latched_yieldTo _ _).after before (by decide) (by decide)).keep (latches_follow _) (by decide) (by decide)

end

section
variable (coherent : Coherent s) (keeps : s.givesWay q b = false)
include coherent keeps

theorem takeStation_keeps : s.takeStation i q b replaced =
    ((s.slotShared i q b replaced).claimerJudged (s.slotAfter q b)).follow := by
  have gatherer : (s.slotShared i q b replaced).cu.handOver = .gathering → (s.slotShared i q b replaced).cu.state.holds = true := by
    rw [slotShared_cu]
    exact coherent.gatherer
  rw [takeStation_eq, stationAtCu_keeps gatherer ((slotShared_outranked s i q b replaced).trans keeps)]

theorem takeStation_keeps_tb : (s.takeStation i q b replaced).tb = s.tb := by
  rw [takeStation_keeps coherent keeps, follow_tb, (frame_claimerJudged _ _).tb (by decide),
    (frame_slotShared s i q b replaced).tb (by decide)]

theorem takeStation_stays_cu (apart : s.cu.handOver ≠ .gathering ∨ (∀ x ∈ s.cu.claims, x.station ≠ q.station)
      ∨ (b.custody = .claiming ∧ (s.slotAfter q b).state = .admitted)) : (s.takeStation i q b replaced).cu =
    { s.cu with recordClosed := s.closedAfter q b } := by
  rw [takeStation_keeps coherent keeps, follow_cu, claimerJudged_stays (by rwa [slotShared_cu, slotAfter_station, slotAfter_custody]),
    reopened_slotShared_cu]

variable (gathering : s.cu.handOver = .gathering) (listed : ∃ x ∈ s.cu.claims, x.station = q.station)
  (left : b.custody ≠ .claiming ∨ (s.slotAfter q b).state ≠ .admitted)
include gathering listed left

theorem takeStation_leaves_cu (more : s.cu.claims.filter (fun x => decide (x.station ≠ q.station)) ≠ []) :
    (s.takeStation i q b replaced).cu =
      { s.cu with
        claims := s.cu.claims.filter fun x => decide (x.station ≠ q.station),
        recordClosed := s.closedAfter q b } := by
  have opened := reopened_slotShared_cu s i q b replaced
  have leaves := dropClaim_leaves (s := (s.slotShared i q b replaced).reopened (s.slotAfter q b)) (n := q.station)
    (by rwa [opened]) (by rwa [opened]) (by rwa [opened])
  rw [takeStation_keeps coherent keeps, follow_cu, claimerJudged_leaves (by rwa [slotAfter_custody]), slotAfter_station, leaves,
    State.setCu_cu, opened]

theorem takeStation_ends (last : s.cu.claims.filter (fun x => decide (x.station ≠ q.station)) = []) :
    (s.takeStation i q b replaced).cu =
      { s.cu with
        claims := [], settleAt := none, handOver := .none, state := .onRecord,
        recordClosed := s.closedAfter q b }
    ∧ (s.takeStation i q b replaced).pub.stationWaiting = some 0 := by
  have opened := reopened_slotShared_cu s i q b replaced
  have ends := dropClaim_ends (s := (s.slotShared i q b replaced).reopened (s.slotAfter q b)) (n := q.station)
    (by rwa [opened]) (by rwa [opened]) (by rwa [opened])
  rw [takeStation_keeps coherent keeps, follow_cu, follow_pub, claimerJudged_leaves (by rwa [slotAfter_custody]), slotAfter_station, ends,
    setCustody_cu, setCustody_station, State.setCu_cu, opened]
  exact ⟨rfl, rfl⟩

end

end

/-! ## DELIVER_STATION of another station (R143) -/

section
variable {s : State} {b : StationBody} {i : Nat} {q : RosterSlot}

theorem deliverStation_other {f : Frame} {rest : List Frame} (queue : s.lnc.queue = f :: rest) (kind : f.kind = .station)
    (parsed : StationBody.parse f.body = some b) (other : b.station ≠ s.own) (low : 1 ≤ b.station) (high : b.station ≤ 30) :
    s.deliverStation = ((s.frameTaken rest).stationOfOther b).offered := by
  have inRange : ¬ (b.station = 0 ∨ 30 < b.station) := by omega
  have other' : b.station ≠ (s.frameTaken rest).own := other
  rw [State.deliverStation, deliver_front queue kind]
  simp only [State.stationAtRoster, parsed, if_neg other', if_neg inRange]
  rfl

theorem stationOfOther_held (index : s.roster.indexOf b.station = some i) (held : s.roster.slot i = some q) :
    s.stationOfOther b = s.takeStation i q b false := by
  simp only [State.stationOfOther, index, held]

variable (unknown : s.roster.indexOf b.station = none)
include unknown

theorem stationOfOther_enters (free : s.roster.freeSlot = some i) :
    s.stationOfOther b = s.takeStation i (RosterSlot.entered b.station s.clock.ms) b false := by
  simp only [State.stationOfOther, unknown, free]

variable (full : s.roster.freeSlot = none)
include full

theorem stationOfOther_replaces (oldest : s.roster.oldestLapsed s.clock.ms = some i) (held : s.roster.slot i = some q) :
    s.stationOfOther b = (s.removeSlot i q).takeStation i (RosterSlot.entered b.station s.clock.ms) b true := by
  simp only [State.stationOfOther, unknown, full, oldest, held]

theorem stationOfOther_refuses (none : s.roster.oldestLapsed s.clock.ms = none) :
    s.stationOfOther b = s.setRoster { s.roster with refused := satSucc s.roster.refused } := by
  simp only [State.stationOfOther, unknown, full, none]

end

theorem slotAfter_entered (s : State) (b : StationBody) : s.slotAfter (RosterSlot.entered b.station s.clock.ms) b =
    { station := b.station, state := .heard, newer := some b.sig, older := none, roles := b.roles, custody := b.custody, rank := b.rank,
      flags := b.flags, horizon := b.horizon, share := b.share,
      lapseAt := some (s.clock.ms + BitVec.ofNat 32 (1000 * s.cfg.lapseTime)), freeAt := none, lapsedAt := none,
      refreshedAt := s.clock.ms, lastDefine := none } := entered_taken b s.pub.signature s.clock.ms _ b.station

theorem removeSlot_slots {s : State} {i j : Nat} {q : RosterSlot} (other : j ≠ i) : (s.removeSlot i q).roster.slot j = s.roster.slot j := by
  rw [State.removeSlot, latch_roster]
  exact slot_setSlot_other none other

theorem latched_removeSlot (s : State) (i : Nat) (q : RosterSlot) : Latched s (s.removeSlot i q) 15 (.rosterChanged q.station .removed) := by
  have moved : SameBut [.roster, .vw] s
      ((s.setSlot i none).setVw (((s.setSlot i none).vw.setMark i .none).setTail i none)) :=
    (frame_setSlot _ _ _).chain (frame_setVw _ _) (by decide) (by decide)
  exact (latched_latch _ _).after (moved.noLatch (ps := []) (by decide)) (Nat.le_of_ble_eq_true rfl) List.not_mem_nil

end Sys2Proof.Machine

open Sys2Proof Sys2Proof.Machine

/-- Settles O39: by the slot a station finds (`stationOfOther_held` … `stationOfOther_refuses`); of a slot held, by its signatures
(`taken_state`), and by whether this node yields (`takeStation_yields`) or keeps the record (`takeStation_keeps`). -/
theorem aStationIsTakenIntoItsSlot : Obligations.AStationIsTakenIntoItsSlot := by
  unfold Obligations.AStationIsTakenIntoItsSlot
  intro s f rest b queue kind parsed other low high
  have taken := frame_setLnc s { s.lnc with queue := rest }
  have before {ps : List Nat} : LatchesBut ps s (s.frameTaken rest) := taken.noLatch (by decide)
  have delivered := (exec_deliverStation s).trans (congrArg Host.Outcome.next (deliverStation_other queue kind parsed other low high))
  have framed : SameBut [.lnc, .roster, .tb, .cu, .pub, .vw, .latches, .sp] s ((s.frameTaken rest).stationOfOther b).offered := by
    refine SameBut.chain (xs := .lnc :: rosterParts) ?_ (frame_offered _) (by decide) (by decide)
    exact taken.chain (frame_stationOfOther _ b) (by decide) (by decide)
  refine ⟨fun i q index held => ?held, fun i index free => ?enters, fun i q index full oldest held => ?replaces,
    fun index full none => ?refuses⟩
  case refuses =>
    rw [stationOfOther_refuses (s := s.frameTaken rest) index full none] at delivered
    exact ⟨_, delivered, taken.chain (frame_setRoster _ _) (by decide) (by decide), rfl, rfl⟩
  case enters =>
    rw [stationOfOther_enters (s := s.frameTaken rest) index free] at delivered framed
    refine ⟨_, delivered, framed, ?_, fun j unlike => ?_, ?_⟩
    · rw [offered_queue, takeStation_lnc]
      rfl
    · rw [offered_roster, takeStation_slots unlike]
      rfl
    · rw [offered_roster, takeStation_slot (freeSlot_lt free)]
      exact congrArg some (slotAfter_entered (s.frameTaken rest) b)
  case replaces =>
    have removed := frame_removeSlot (s.frameTaken rest) i q
    have entered := slotAfter_entered ((s.frameTaken rest).removeSlot i q) b
    have clock : ((s.frameTaken rest).removeSlot i q).clock = s.clock := removed.clock (by decide)
    rw [stationOfOther_replaces (s := s.frameTaken rest) index full oldest held] at delivered framed
    rw [clock] at entered
    refine ⟨_, delivered, framed, ?_, fun j unlike => ?_, ?_, ?_, ?_⟩
    · rw [offered_queue, takeStation_lnc, removed.lnc (by decide)]
      rfl
    · rw [offered_roster, takeStation_slots unlike, removeSlot_slots unlike]
      rfl
    · rw [offered_roster, takeStation_slot (slot_lt _ _ _ held)]
      exact ⟨_, congrArg some entered, rfl, rfl, rfl, rfl⟩
    · have tails := takeStation_tails (s := (s.frameTaken rest).removeSlot i q) (i := i) (replaced := true)
        (q := RosterSlot.entered b.station s.clock.ms) (b := b) (by rw [entered]; exact SlotState.noConfusion)
      rw [offered_vw, Viewer.tail]
      refine Eq.trans ?_ (removeSlot_tail (s.frameTaken rest) i q)
      exact congrArg (fun v : Vector (Option TailImage) 16 => (v[i]?).getD Option.none) tails
    · have quiet := takeStation_quiet (s := (s.frameTaken rest).removeSlot i q) (i := i) (replaced := true)
        (q := RosterSlot.entered b.station s.clock.ms) (b := b) (by rw [entered]; rfl)
      have told := (latched_removeSlot (s.frameTaken rest) i q).after (before (ps := [])) (by decide) (by decide)
      exact Latched.offered (quiet.trans told)
  case held =>
    have station : q.station = b.station := station_of_indexOf index held
    have after : (s.frameTaken rest).slotAfter q b =
        q.taken b s.pub.signature s.clock.ms (s.clock.ms + BitVec.ofNat 32 (1000 * s.cfg.lapseTime)) := rfl
    rw [stationOfOther_held (s := s.frameTaken rest) index held] at delivered framed
    refine ⟨_, (s.frameTaken rest).slotAfter q b, delivered, framed, ?_, ?_, fun j unlike => ?_, ?_, taken_fields q b _ _ _,
      taken_state b _ _ _, fun lapsed => ?_, fun here => ?_, fun now earlier => ?_, fun now earlier => ?_,
      fun coherent closed better' closedIs betterIs => ?custody⟩
    · rw [offered_queue, takeStation_lnc]
      rfl
    · rw [offered_roster, takeStation_slot (slot_lt _ _ _ held)]
    · rw [offered_roster, takeStation_slots unlike]
      rfl
    · rw [offered_roster, takeStation_roster]
      rfl
    · rw [after, taken_lapsed b _ _ _ lapsed]
      exact ⟨rfl, rfl, rfl⟩
    · rw [after, taken_heard b _ _ _ here]
      exact ⟨rfl, rfl, rfl⟩
    · have told := takeStation_told (s := s.frameTaken rest) (i := i) (q := q) (b := b) (replaced := false)
        (fun same => earlier (same.trans now)) (Or.inl ⟨now, rfl⟩)
      exact (told.after (before (ps := [])) (by decide) (by decide)).offered
    · have told := takeStation_told (s := s.frameTaken rest) (i := i) (q := q) (b := b) (replaced := false)
        (fun same => earlier (same.trans now)) (Or.inr ⟨now, rfl⟩)
      exact (told.after (before (ps := [])) (by decide) (by decide)).offered
    case custody =>
      have coherent' : Coherent (s.frameTaken rest) := coherent
      have cu : s.cu = (s.frameTaken rest).cu := rfl
      rw [← station] at betterIs ⊢
      replace closedIs : closed = (s.frameTaken rest).closedAfter q b := closedIs
      replace betterIs : better' = (s.frameTaken rest).givesWay q b := betterIs
      subst closedIs betterIs
      rw [offered_cu, offered_tb, offered_stationWaiting, cu]
      refine ⟨fun yields => ?yields, fun keeps => ?keeps⟩
      case yields =>
        obtain ⟨series, next, region⟩ := takeStation_yields_tb (i := i) (replaced := false) coherent' yields
        have told := takeStation_yields_told (i := i) (replaced := false) coherent' yields
        exact ⟨takeStation_yields_cu coherent' yields, series, next, region, takeStation_yields_station coherent' yields,
          (told.after (before (ps := [])) (by decide) (by decide)).offered⟩
      case keeps =>
        refine ⟨takeStation_keeps_tb coherent' keeps, takeStation_stays_cu coherent' keeps, ?_⟩
        rintro gathering listed left _ rfl
        refine ⟨takeStation_leaves_cu coherent' keeps gathering listed left, fun last => ?_⟩
        obtain ⟨cu, waiting⟩ := takeStation_ends (i := i) (replaced := false) coherent' keeps gathering listed left last
        exact ⟨waiting, cu⟩
end

section
/-! SUPPORT. TAIL, LINE and RELEASE frames at the Viewer: the gaps a reach opens, the lines kept, the choice of the holder followed; with
them O46. -/

namespace Sys2Proof.Machine

/-! ## Slots of the record store (R167) -/

section
variable {v : Viewer} {n m : Nat} (x : StoreState)

theorem takes_put_other (apart : m % 512 ≠ n % 512) : (v.put n x).takes m = v.takes m := by
  have unlike : ¬ storeIndex n = storeIndex m := fun same => apart same.symm
  simp only [Viewer.takes, Viewer.slotFor, Viewer.put, find_put, if_neg unlike]

theorem slotFor_congr (same : m % 512 = n % 512) : v.slotFor m = v.slotFor n := by
  unfold Viewer.slotFor storeIndex
  rw [same]

/-- A slot that is not tagged `m` is not the one of `m`. -/
theorem stateOf_of_slot {y : StoreSlot} (slot : v.slotFor m = some y) (unlike : y.tag ≠ m) : v.stateOf m = none := by
  simp only [Viewer.stateOf, slot, if_neg unlike]

theorem slotFor_put_same (same : m % 512 = n % 512) : (v.put n x).slotFor m = some { index := storeIndex n, tag := n, state := x } := by
  have alike : storeIndex n = storeIndex m := same.symm
  simp only [Viewer.slotFor, Viewer.put, find_put, if_pos alike]

/-- Whatever is put, a line that is in no slot stays so. -/
theorem stateOf_put_absent (apart : m ≠ n) (absent : v.stateOf m = none) : (v.put n x).stateOf m = none := by
  by_cases same : m % 512 = n % 512
  · exact stateOf_of_slot (slotFor_put_same x same) apart.symm
  · rw [stateOf_put_other v n m x same, absent]

/-- A line above `n` is not in a slot that `n` may take. -/
theorem stateOf_of_takes (free : v.takes n = true) (above : n < m) (same : m % 512 = n % 512) : v.stateOf m = none := by
  cases found : v.slotFor n with
  | none => rw [Viewer.stateOf, slotFor_congr same, found]
  | some y =>
    have lower : y.tag < n := by simpa [Viewer.takes, found] using free
    exact stateOf_of_slot ((slotFor_congr same).trans found) (by omega)

/-- Where the slot of `n` is tagged `n`, no other line is in it. -/
theorem stateOf_of_tagged {y : StoreState} (tagged : v.stateOf n = some y) (apart : m ≠ n) (same : m % 512 = n % 512) :
    v.stateOf m = none := by
  cases found : v.slotFor n with
  | none => rw [Viewer.stateOf, slotFor_congr same, found]
  | some z =>
    have own : z.tag = n := by
      by_contra unlike
      rw [stateOf_of_slot found unlike] at tagged
      cases tagged
    exact stateOf_of_slot ((slotFor_congr same).trans found) (by omega)

/-- A line put where it may be taken leaves every line above it. -/
theorem stateOf_put_above (free : v.takes n = true) (above : n < m) : (v.put n x).stateOf m = v.stateOf m := by
  by_cases same : m % 512 = n % 512
  · have absent := stateOf_of_takes free above same
    rw [absent, stateOf_put_absent x (Nat.ne_of_gt above) absent]
  · exact stateOf_put_other v n m x same

/-- A line put into the slot that is its own already leaves every other line. -/
theorem stateOf_put_tagged {y : StoreState} (tagged : v.stateOf n = some y) (apart : m ≠ n) :
    (v.put n x).stateOf m = v.stateOf m := by
  by_cases same : m % 512 = n % 512
  · have absent := stateOf_of_tagged tagged apart same
    rw [absent, stateOf_put_absent x apart absent]
  · exact stateOf_put_other v n m x same

end

/-! ## The gaps a reach opens (R172) -/

/-- What opening a gap at `m` makes of the line: one whose slot is empty or tagged lower waits 300 ms for the station. -/
def State.gapAt (s : State) (station m : Nat) : Option StoreState :=
  if s.vw.stateOf m = none ∧ s.vw.takes m = true then some (.waiting 0 (s.clock.ms + 300) station) else s.vw.stateOf m

section
variable {s : State} {station n m : Nat}

theorem openGap_vw (s : State) (station n : Nat) : (s.openGap station n).vw =
    if s.vw.stateOf n = none ∧ s.vw.takes n = true then s.vw.put n (.waiting 0 (s.clock.ms + 300) station) else s.vw := by
  unfold State.openGap
  by_cases free : s.vw.stateOf n = none ∧ s.vw.takes n = true
  · rw [if_pos free, if_pos (by simp [free])]
    rfl
  · rw [if_neg free, if_neg (by simpa using free)]

theorem openGap_at (s : State) (station n : Nat) : (s.openGap station n).vw.stateOf n = s.gapAt station n := by
  rw [openGap_vw, State.gapAt]
  split
  · exact stateOf_put _ _ _
  · rfl

theorem openGap_above (above : n < m) : (s.openGap station n).vw.stateOf m = s.vw.stateOf m := by
  rw [openGap_vw]
  split
  next free => exact stateOf_put_above _ free.2 above
  next => rfl

theorem openGap_apart (apart : m % 512 ≠ n % 512) :
    (s.openGap station n).vw.stateOf m = s.vw.stateOf m ∧ (s.openGap station n).vw.takes m = s.vw.takes m := by
  rw [openGap_vw]
  split
  · exact ⟨stateOf_put_other _ _ _ _ apart, takes_put_other _ apart⟩
  · exact ⟨rfl, rfl⟩

/-- The gaps opened from `a` on, `k` of them. -/
def State.openGaps (s : State) (station a k : Nat) : State := (List.range' a k).foldl (fun t n => t.openGap station n) s

theorem openGaps_succ (s : State) (station a k : Nat) :
    s.openGaps station a (k + 1) = (s.openGaps station a k).openGap station (a + k) := by
  rw [State.openGaps, List.range'_1_concat, List.foldl_append]
  rfl

theorem frame_openGaps (s : State) (station a k : Nat) : SameBut [.vw] s (s.openGaps station a k) :=
  SameBut.foldl _ (fun s n => frame_openGap s station n) _ _

/-- Up to 512 numbers have a slot each, so that one gap opened leaves the others as they were. -/
theorem openGaps_stateOf (s : State) (station a k : Nat) (few : k ≤ 512) (m : Nat) (low : a ≤ m) :
    (m < a + k → (s.openGaps station a k).vw.stateOf m = s.gapAt station m)
    ∧ (a + k ≤ m → (s.openGaps station a k).vw.stateOf m = s.vw.stateOf m
        ∧ (m < a + 512 → (s.openGaps station a k).vw.takes m = s.vw.takes m)) := by
  induction k with
  | zero => exact ⟨fun inside => absurd inside (by omega), fun _ => ⟨rfl, fun _ => rfl⟩⟩
  | succ k ih =>
    obtain ⟨opened, rest⟩ := ih (by omega)
    rw [openGaps_succ]
    refine ⟨fun inside => ?_, fun outside => ⟨?_, fun near => ?_⟩⟩
    · by_cases last : m = a + k
      · obtain ⟨state, takes⟩ := rest (by omega)
        have clock := (frame_openGaps s station a k).clock (by decide)
        rw [← last, openGap_at, State.gapAt, state, takes (by omega), clock, State.gapAt]
      · obtain ⟨kept, -⟩ := openGap_apart (s := s.openGaps station a k) (station := station) (n := a + k) (m := m) (by omega)
        rw [kept, opened (by omega)]
    · rw [openGap_above (by omega)]
      exact (rest (by omega)).1
    · obtain ⟨-, kept⟩ := openGap_apart (s := s.openGaps station a k) (station := station) (n := a + k) (m := m) (by omega)
      rw [kept]
      exact (rest (by omega)).2 near

theorem openGap_reach (s : State) (station n : Nat) :
    (s.openGap station n).vw.reach = s.vw.reach ∧ (s.openGap station n).vw.base = s.vw.base := by
  rw [openGap_vw]
  split <;> exact ⟨rfl, rfl⟩

theorem openGaps_reach (s : State) (station a k : Nat) :
    (s.openGaps station a k).vw.reach = s.vw.reach ∧ (s.openGaps station a k).vw.base = s.vw.base := by
  induction k with
  | zero => exact ⟨rfl, rfl⟩
  | succ k ih =>
    obtain ⟨reach, base⟩ := openGap_reach (s.openGaps station a k) station (a + k)
    rw [openGaps_succ, reach, base]
    exact ih

theorem setReach_other (other : station ≠ s.own) (n : Nat) :
    s.setReach n station = (s.setVw (s.vw.setReach n station)).openGaps station
      (max (s.vw.base.getD (max 1 (n - 31))) (n - 511)) (n + 1 - max (s.vw.base.getD (max 1 (n - 31))) (n - 511)) := if_neg other

/-- The reach set is told with its station, and the store base stands from the first reach on (R171). -/
theorem setReach_reach (s : State) (n station : Nat) : (s.setReach n station).vw.reach = some (n, station)
    ∧ (s.setReach n station).vw.base = some (s.vw.base.getD (max 1 (n - 31))) := by
  by_cases own : station = s.own
  · rw [own, setReach_self]
    exact ⟨rfl, rfl⟩
  · rw [setReach_other own]
    exact openGaps_reach _ _ _ _

/-- A reach of another station opens the gaps up to it (R172). -/
theorem setReach_gaps (other : station ≠ s.own) (n : Nat) :
    GapsOpened s (s.setReach n station) station (s.vw.base.getD (max 1 (n - 31))) n := by
  have same (x : Viewer) (like : x.store = s.vw.store) (m : Nat) : x.stateOf m = s.vw.stateOf m ∧ x.takes m = s.vw.takes m := by
    simp only [Viewer.stateOf, Viewer.takes, Viewer.slotFor, like, and_self]
  generalize floor : max (s.vw.base.getD (max 1 (n - 31))) (n - 511) = a
  have opened := openGaps_stateOf (s.setVw (s.vw.setReach n station)) station a (n + 1 - a) (by omega)
  have reached (m : Nat) : (s.setVw (s.vw.setReach n station)).gapAt station m = s.gapAt station m := by
    obtain ⟨state, takes⟩ := same (s.vw.setReach n station) rfl m
    simp only [State.gapAt, State.setVw_vw, State.setVw_clock, state, takes]
  rw [setReach_other other]
  refine ⟨fun m low high => ?_, fun m high => ?_⟩
  · rw [floor, (opened m (by omega)).1 (by omega), reached]
    rfl
  · rw [floor]
    by_cases any : a ≤ n
    · rw [((opened m (by omega)).2 (by omega)).1]
      exact (same _ rfl m).1
    · have none : n + 1 - a = 0 := by omega
      rw [none]
      exact (same _ rfl m).1

end

/-! ## The choice of the holder followed (R169) -/

theorem effectiveHolder_iff (m : SlotMark) (q : RosterSlot) : effectiveHolder m q = true ↔
    q.state = .admitted ∧ (m = .named ∨ (m = .none ∧ q.custody.holds = true)) := by
  cases m <;> simp [effectiveHolder]

section
variable {s : State}

theorem mem_effectiveHolders (s : State) (q : RosterSlot) : q ∈ s.effectiveHolders ↔
    ∃ i, s.roster.slot i = some q ∧ effectiveHolder (s.vw.mark i) q = true := by
  unfold State.effectiveHolders
  rw [List.mem_filterMap]
  constructor
  · rintro ⟨i, -, found⟩
    split at found
    next p slot =>
      by_cases holds : effectiveHolder (s.vw.mark i) p = true
      · rw [if_pos holds] at found
        cases found
        exact ⟨i, slot, holds⟩
      · rw [if_neg holds] at found
        cases found
    next => cases found
  · rintro ⟨i, slot, holds⟩
    exact ⟨i, List.mem_range.mpr (slot_lt _ _ _ slot), by simp only [slot, if_pos holds]⟩

theorem followChoice_best (other : ¬ (s.cfg.writer = true ∧ s.cu.state.holds = true)) :
    s.followChoice = (s.effectiveHolders.foldl betterSlot none).map fun q => .station q.station :=
  if_neg (by rwa [Bool.and_eq_true])

/-- The node follows itself just where it is a writer that holds the record. -/
theorem followChoice_self (s : State) : s.followChoice = some .self ↔ s.cfg.writer = true ∧ s.cu.state.holds = true := by
  by_cases own : s.cfg.writer = true ∧ s.cu.state.holds = true
  · exact ⟨fun _ => own, fun _ => if_pos (Bool.and_eq_true _ _ ▸ own)⟩
  · rw [followChoice_best own]
    simp [own]

/-- Two slots of which neither is better are of one station. -/
theorem station_of_not_better {p q : RosterSlot} (h : better p.rank p.station q.rank q.station = false)
    (k : better q.rank q.station p.rank p.station = false) : p.station = q.station := by
  simp only [better, Bool.or_eq_false_iff, Bool.and_eq_false_iff, decide_eq_false_iff_not] at h k
  omega

/-- The best slot by effective state is followed, where the node itself is no holder. -/
theorem followChoice_station (other : ¬ (s.cfg.writer = true ∧ s.cu.state.holds = true)) (n : Nat) :
    s.followChoice = some (.station n) ↔
      ∃ i q, s.roster.slot i = some q ∧ q.station = n ∧ effectiveHolder (s.vw.mark i) q = true
        ∧ ∀ j q', s.roster.slot j = some q' → effectiveHolder (s.vw.mark j) q' = true →
          better q'.rank q'.station q.rank q.station = false := by
  obtain ⟨empty, best⟩ := foldl_better s.effectiveHolders none
  have chosen (q : RosterSlot) (found : s.effectiveHolders.foldl betterSlot none = some q) :
      (∃ i, s.roster.slot i = some q ∧ effectiveHolder (s.vw.mark i) q = true)
      ∧ ∀ j q', s.roster.slot j = some q' → effectiveHolder (s.vw.mark j) q' = true →
        better q'.rank q'.station q.rank q.station = false := by
    obtain ⟨held, least⟩ := best q found
    have listed : q ∈ s.effectiveHolders := held.resolve_left (by simp)
    exact ⟨(mem_effectiveHolders s q).mp listed,
      fun j q' slot holds => least q' (Or.inr ((mem_effectiveHolders s q').mpr ⟨j, slot, holds⟩))⟩
  rw [followChoice_best other]
  constructor
  · intro followed
    obtain ⟨q, found, station⟩ := Option.map_eq_some_iff.mp followed
    obtain ⟨⟨i, slot, holds⟩, least⟩ := chosen q found
    cases station
    exact ⟨i, q, slot, rfl, holds, least⟩
  · rintro ⟨i, q, slot, rfl, holds, least⟩
    have listed := (mem_effectiveHolders s q).mpr ⟨i, slot, holds⟩
    cases found : s.effectiveHolders.foldl betterSlot none with
    | none =>
      obtain ⟨-, none⟩ := empty.mp found
      rw [none] at listed
      cases listed
    | some p =>
      obtain ⟨⟨j, slot', holds'⟩, least'⟩ := chosen p found
      have same : p.station = q.station := station_of_not_better (least j p slot' holds') (least' i q slot holds)
      simp only [Option.map_some, same]

/-- A choice other than SELF sets the holder followed and nothing else of the Viewer. -/
theorem follow_other (viewing : s.viewing = true) (other : s.followChoice ≠ some .self) :
    s.follow.vw = { s.vw with followed := s.followChoice } := by
  rw [State.follow, if_pos viewing]
  split
  next same => rw [same]
  next => rfl

theorem follow_mark (s : State) (i : Nat) : s.follow.vw.mark i = s.vw.mark i := by
  obtain ⟨marks, -⟩ := follow_views s
  rw [Viewer.mark, marks]
  rfl

end

/-! ## DELIVER_TAIL (R171, R175) -/

@[simp] theorem refreshSlot_indexOf (s : State) (n m : Nat) : (s.refreshSlot n).roster.indexOf m = s.roster.indexOf m := by
  unfold State.refreshSlot
  split
  · rfl
  · split
    · rfl
    · next q held =>
      split
      · rfl
      · exact indexOf_setSlot (q' := s.refreshedSlot q) held rfl m

@[simp] theorem heard_indexOf (s : State) (rest : List Frame) (n m : Nat) :
    (s.heard rest n).roster.indexOf m = s.roster.indexOf m := refreshSlot_indexOf _ n m

theorem exec_deliverTail (s : State) : exec .deliverTail s = .next s.deliverTail := rfl

section
variable {s : State} {f : Frame} {rest : List Frame} {x : TailBody} {i : Nat}

theorem indexOf_lt {r : Roster} {n : Nat} (index : r.indexOf n = some i) : i < 16 := by
  obtain ⟨inside, -⟩ := List.findIdx?_eq_some_iff_getElem.mp index
  simpa using inside

theorem deliverTail_eq (queue : s.lnc.queue = f :: rest) (kind : f.kind = .tail) (parsed : TailBody.parse f.body = some x) :
    s.deliverTail = ((s.heard rest f.station).tailAtViewer x).compose := by
  rw [State.deliverTail, deliver_front queue kind, parsed]
  rfl

/-- The image of a TAIL kept in slot `i`, or dropped. -/
def State.tailKept (s : State) (i : Nat) (x : TailBody) : State :=
  s.setVw (s.vw.setTail i (keptImage x.image (s.vw.pinned x.station)))

theorem tailAtViewer_eq (index : s.roster.indexOf x.station = some i) : s.tailAtViewer x =
    if x.image.series = .record ∧ s.vw.followed = some (.station x.station) then
      (s.tailKept i x).setReach x.image.committed x.station
    else s.tailKept i x := by
  rw [State.tailAtViewer, index]
  rfl

theorem keptImage_eq (x : TailImage) (pinned : Bool) :
    keptImage x pinned = if x.series = .record ∨ pinned = true then some x else none := by
  cases series : x.series <;> cases pinned <;> simp [keptImage, series]

theorem tail_setTail (v : Viewer) (i j : Nat) (t : Option TailImage) (inside : i < 16) :
    (v.setTail i t).tail j = if i = j then t else v.tail j := by
  simp only [Viewer.setTail, Viewer.tail]
  rw [Vector.getElem?_setIfInBounds]
  by_cases same : i = j
  · simp [← same, inside]
  · simp [same]

theorem tailAtViewer_tails (index : s.roster.indexOf x.station = some i) :
    (s.tailAtViewer x).vw.tails = (s.tailKept i x).vw.tails := by
  rw [tailAtViewer_eq index]
  split
  · obtain ⟨-, tails, -⟩ := setReach_views (s.tailKept i x) x.image.committed x.station
    exact tails
  · rfl

/-- What a line's slot holds is told by the record store alone. -/
theorem stateOf_of_store {v w : Viewer} (store : w.store = v.store) (m : Nat) : w.stateOf m = v.stateOf m ∧ w.takes m = v.takes m := by
  simp only [Viewer.stateOf, Viewer.takes, Viewer.slotFor, store, and_self]

/-- Gaps are opened alike where store, clock and end are alike. -/
theorem GapsOpened.congr {t s' t' : State} {station base n : Nat} (h : GapsOpened s t station base n)
    (store : s'.vw.store = s.vw.store) (clock : s'.clock = s.clock) (last : t'.vw.store = t.vw.store) :
    GapsOpened s' t' station base n := by
  have before (m : Nat) := stateOf_of_store store m
  have after (m : Nat) := stateOf_of_store last m
  unfold GapsOpened at h ⊢
  simpa only [before, after, clock] using h

theorem tailAtViewer_follows (index : s.roster.indexOf x.station = some i) (record : x.image.series = .record)
    (followed : s.vw.followed = some (.station x.station)) :
    (s.tailAtViewer x).vw.reach = some (x.image.committed, x.station)
    ∧ (s.tailAtViewer x).vw.base = some (s.vw.base.getD (max 1 (x.image.committed - 31)))
    ∧ (x.station ≠ s.own →
        GapsOpened s (s.tailAtViewer x) x.station (s.vw.base.getD (max 1 (x.image.committed - 31))) x.image.committed)
    ∧ (x.station = s.own → (s.tailAtViewer x).vw.store = s.vw.store) := by
  rw [tailAtViewer_eq index, if_pos ⟨record, followed⟩]
  obtain ⟨reach, base⟩ := setReach_reach (s.tailKept i x) x.image.committed x.station
  refine ⟨reach, base, fun other => ?_, fun own => ?_⟩
  · exact (setReach_gaps (s := s.tailKept i x) other x.image.committed).congr rfl rfl rfl
  · have same : x.station = (s.tailKept i x).own := own
    rw [same, setReach_self]
    rfl

theorem tailAtViewer_ignored (index : s.roster.indexOf x.station = some i)
    (apart : x.image.series = .draft ∨ s.vw.followed ≠ some (.station x.station)) :
    (s.tailAtViewer x).vw.reach = s.vw.reach ∧ (s.tailAtViewer x).vw.store = s.vw.store := by
  have stays : ¬ (x.image.series = .record ∧ s.vw.followed = some (.station x.station)) := by
    rintro ⟨record, followed⟩
    obtain draft | unlike := apart
    · rw [draft] at record
      cases record
    · exact unlike followed
  rw [tailAtViewer_eq index, if_neg stays]
  exact ⟨rfl, rfl⟩

end

/-! ## DELIVER_LINE (R168) -/

theorem exec_deliverLine (s : State) : exec .deliverLine s = .next s.deliverLine := rfl

section
variable {s : State} {f : Frame} {rest : List Frame} {l : LineBody} {n : Nat} {gone brk : Bool} {text : List Byte}

theorem deliverLine_eq (queue : s.lnc.queue = f :: rest) (kind : f.kind = .line) (parsed : LineBody.parse f.body = some l) :
    s.deliverLine = ((s.heard rest f.station).lineAtViewer l).compose := by
  rw [State.deliverLine, deliver_front queue kind, parsed]
  rfl

theorem storeLine_stays (held : ∃ b x, s.vw.stateOf n = some (.held b x)) : s.storeLine n gone brk text = s := by
  obtain ⟨b, x, held⟩ := held
  rw [State.storeLine, held]

theorem storeLine_puts (places : s.vw.stateOf n = some .lost ∨ (∃ a b c, s.vw.stateOf n = some (.waiting a b c))
    ∨ (s.vw.stateOf n = none ∧ s.vw.takes n = true)) : s.storeLine n false brk text = s.putLine n (.held brk text) := by
  rw [storeLine_own, stored_puts brk text places]
  rfl

theorem storeLine_loses (awaited : (∃ a b c, s.vw.stateOf n = some (.waiting a b c))
    ∨ (s.vw.stateOf n = none ∧ s.vw.takes n = true)) : s.storeLine n true brk text = s.loseLine n := by
  obtain ⟨a, b, c, waiting⟩ | ⟨empty, free⟩ := awaited
  · rw [State.storeLine, waiting]
    rfl
  · rw [State.storeLine, empty]
    exact if_pos free

theorem storeLine_lost (lost : s.vw.stateOf n = some .lost) : s.storeLine n true brk text = s := by
  rw [State.storeLine, lost]
  rfl

theorem lineAtViewer_admitted (admitted : s.roster.admits l.station = true) :
    s.lineAtViewer l = s.storeLine l.number l.gone l.brk l.text := if_pos admitted

/-- A line given up is LOST, counted and told (R168, R173). -/
theorem loseLine_lost (s : State) (n : Nat) : (s.loseLine n).vw.stateOf n = some .lost
    ∧ (s.loseLine n).vw.linesLost = satSucc s.vw.linesLost ∧ Latched s (s.loseLine n) 13 (.lineLost n) := by
  refine ⟨?_, rfl, ?_⟩
  · rw [State.loseLine, latch_vw]
    exact stateOf_put s.vw n .lost
  · exact (latched_latch _ _).after ((frame_setVw s _).noLatch (ps := []) (by decide)) (Nat.le_of_ble_eq_true rfl) List.not_mem_nil

end

/-! ## What the Custody Unit's part of a RELEASE leaves at the Viewer (R154, R155) -/

section
variable {s : State}

theorem viewedLine_marks (s : State) (v : Viewer) (n : Nat) (brk : Bool) (text : List Byte) :
    (s.viewedLine v n brk text).marks = v.marks := by
  unfold State.viewedLine
  split
  · rw [withOwnLine_eq]
  · rfl

theorem intoRecord_marks {n : Nat} {brk : Bool} (above : brk = true → n = s.tb.horizon + 1) :
    (s.intoRecord n brk).vw.marks = s.vw.marks := by
  cases brk with
  | false => rfl
  | true =>
    rw [above rfl]
    by_cases room : s.tb.horizon < 16777215
    · rw [intoRecord_breaks room]
      exact viewedLine_marks _ _ _ _ _
    · rw [intoRecord_ended (Nat.not_lt.mp room), latch_vw]
      rfl

/-- The record taken, the Viewer's holder and marks are as before: the choice comes after it. -/
theorem takeRecord_view (s : State) (r : ReleaseBody) :
    (s.takeRecord r).vw.followed = s.vw.followed ∧ (s.takeRecord r).vw.marks = s.vw.marks := by
  have above := startNumber_break s.tb.horizon r.next
  rw [State.takeRecord, becomeHolder_vw]
  cases series : s.tb.series with
  | record =>
    rw [State.switchToRecord, series]
    exact ⟨rfl, rfl⟩
  | draft =>
    rw [switchToRecord_vw series]
    exact ⟨(intoRecord_keeps above).2, intoRecord_marks above⟩

/-- A choice other than SELF changes the holder followed alone, at a viewer or not. -/
theorem follow_kept (other : s.followChoice ≠ some .self) : s.follow.vw = { s.vw with followed := s.follow.vw.followed } := by
  by_cases viewing : s.viewing = true
  · rw [follow_other viewing other]
  · rw [State.follow, if_neg viewing]

/-- A claim that ends without the record leaves the Viewer but for the holder followed. -/
theorem endClaim_vw (o : ClaimEnd) (a b : Nat)
    (other : ¬ (s.cfg.writer = true ∧ (s.endClaim o a b).cu.state.holds = true)) :
    (s.endClaim o a b).vw = { s.vw with followed := (s.endClaim o a b).vw.followed } := by
  rw [endClaim_cu] at other
  have unlike : (((s.setCu { s.cu with claimAt := none, prior := none }).setCu
      { s.cu with claimAt := none, prior := none, state := s.cu.prior.getD .idle }).tellCustody).followChoice ≠ some .self := by
    rw [Ne, followChoice_self, tellCustody_cfg, tellCustody_cu]
    exact other
  have kept := follow_kept unlike
  rw [tellCustody_vw] at kept
  exact kept

theorem endClaim_marks (s : State) (o : ClaimEnd) (a b : Nat) : (s.endClaim o a b).vw.marks = s.vw.marks := by
  obtain ⟨marks, -⟩ := setCustody_views (s.setCu { s.cu with claimAt := none, prior := none }) (s.cu.prior.getD .idle)
  rw [State.endClaim, latch_vw, marks]
  rfl

section
variable (s) (r : ReleaseBody)

/-- A RELEASE at the Custody Unit is one of three: its record-closed flag alone, the record taken, a claim ended. -/
theorem releaseAtCu_cases : s.releaseAtCu r = s.closedByRelease r
    ∨ (s.releaseAtCu r = (s.closedByRelease r).takeRecord r ∧ s.cfg.writer = true ∧ s.cu.state.holds = false)
    ∨ (s.releaseAtCu r = (s.closedByRelease r).endClaim .passed r.target 0 ∧ s.cu.state = .claiming) := by
  rw [releaseAtCu_eq]
  split
  next acts =>
    obtain ⟨writer, -⟩ := (inCustody_iff s).mp acts
    split
    · split
      · exact Or.inl rfl
      next free => exact Or.inr (Or.inl ⟨rfl, writer, Bool.not_eq_true _ ▸ free⟩)
    · split
      next passed => exact Or.inr (Or.inr ⟨rfl, passed.1⟩)
      · exact Or.inl rfl
  next => exact Or.inl rfl

theorem closedByRelease_vw : (s.closedByRelease r).vw = s.vw := (frame_closedByRelease s r).vw (by decide)

theorem releaseAtCu_marks : (s.releaseAtCu r).vw.marks = s.vw.marks := by
  obtain eq | ⟨eq, -⟩ | ⟨eq, -⟩ := releaseAtCu_cases s r
  · rw [eq, closedByRelease_vw]
  · rw [eq, (takeRecord_view _ r).2, closedByRelease_vw]
  · rw [eq, endClaim_marks, closedByRelease_vw]

theorem releaseAtCu_roster : (s.releaseAtCu r).roster = s.roster := (frame_releaseAtCu s r).roster (by decide)

/-- A node that is no holder after it keeps its Viewer but for the holder followed. -/
theorem releaseAtCu_vw (other : ¬ (s.cfg.writer = true ∧ (s.releaseAtCu r).cu.state.holds = true)) :
    (s.releaseAtCu r).vw = { s.vw with followed := (s.releaseAtCu r).vw.followed } := by
  obtain eq | ⟨eq, writer, -⟩ | ⟨eq, -⟩ := releaseAtCu_cases s r
  · rw [eq, closedByRelease_vw]
  · rw [eq, takeRecord_cu] at other
    exact absurd ⟨writer, rfl⟩ other
  · rw [eq] at other ⊢
    rw [← (frame_closedByRelease s r).cfg (by decide)] at other
    have kept := endClaim_vw .passed r.target 0 other
    rwa [closedByRelease_vw] at kept

/-- Outside CLAIMING the Custody Unit's part leaves the holder followed and tells no change of it. -/
theorem releaseAtCu_unfollowed (apart : s.cu.state ≠ .claiming) :
    (s.releaseAtCu r).vw.followed = s.vw.followed ∧ LatchesBut [2, 3, 4, 13, 14] s (s.releaseAtCu r) := by
  have closed : LatchesBut [2, 3, 4, 13, 14] s (s.closedByRelease r) := (frame_closedByRelease s r).noLatch (by decide)
  obtain eq | ⟨eq, -⟩ | ⟨-, claiming⟩ := releaseAtCu_cases s r
  · rw [eq, closedByRelease_vw]
    exact ⟨rfl, closed⟩
  · rw [eq, (takeRecord_view _ r).1, closedByRelease_vw]
    exact ⟨rfl, closed.trans (latches_takeRecord _ r)⟩
  · exact absurd claiming apart

/-- In a coherent state a claim never ends in a holder's state, so the holder followed is not SELF before the Viewer's part. -/
theorem releaseAtCu_notSelf (prior : ∀ p, s.cu.prior = some p → p = .idle ∨ p = .shadow) (other : s.vw.followed ≠ some .self)
    (holds : (s.releaseAtCu r).cu.state.holds = true) : (s.releaseAtCu r).vw.followed ≠ some .self := by
  obtain eq | ⟨eq, -⟩ | ⟨eq, -⟩ := releaseAtCu_cases s r
  · rwa [eq, closedByRelease_vw]
  · rwa [eq, (takeRecord_view _ r).1, closedByRelease_vw]
  · rw [eq, endClaim_cu, closedByRelease_cu] at holds
    cases past : s.cu.prior with
    | none => simp [past, CustodyState.holds] at holds
    | some p => obtain rfl | rfl := prior p past <;> simp [past, CustodyState.holds] at holds

end

/-! ## The Viewer's part of a RELEASE (R170 to R172) -/

theorem markStation_vw (s : State) (n : Nat) (m : SlotMark) :
    (s.markStation n m).vw = { s.vw with marks := (s.markStation n m).vw.marks } := by
  unfold State.markStation
  split <;> rfl

theorem mark_setMark (v : Viewer) (i j : Nat) (m : SlotMark) (inside : i < 16) :
    (v.setMark i m).mark j = if i = j then m else v.mark j := by
  simp only [Viewer.setMark, Viewer.mark]
  rw [Vector.getElem?_setIfInBounds]
  by_cases same : i = j
  · simp [← same, inside]
  · simp [same]

theorem markStation_mark (s : State) (n : Nat) (m : SlotMark) (i : Nat) :
    (s.markStation n m).vw.mark i = if s.roster.indexOf n = some i then m else s.vw.mark i := by
  unfold State.markStation
  cases index : s.roster.indexOf n with
  | none => simp
  | some j =>
    simp only [State.setVw_vw, mark_setMark _ _ _ _ (indexOf_lt index), Option.some.injEq]

variable {r : ReleaseBody}

theorem releaseMarked_vw (s : State) (r : ReleaseBody) :
    (s.releaseMarked r).vw = { s.vw with marks := (s.releaseMarked r).vw.marks } := by
  unfold State.releaseMarked
  split
  · rw [markStation_vw, markStation_vw s]
  · exact markStation_vw _ _ _

/-- The releasing station's slot is RELEASED; that of an admitted station named is NAMED, its own too. -/
theorem releaseMarked_mark (s : State) (r : ReleaseBody) (i : Nat) : (s.releaseMarked r).vw.mark i =
    if r.target ≠ 0 ∧ s.roster.admits r.target = true ∧ s.roster.indexOf r.target = some i then .named
    else if s.roster.indexOf r.station = some i then .released
    else s.vw.mark i := by
  have roster : (s.markStation r.station .released).roster = s.roster := (frame_markStation _ _ _).roster (by decide)
  unfold State.releaseMarked
  by_cases named : r.target ≠ 0 ∧ s.roster.admits r.target = true
  · rw [if_pos named, markStation_mark, roster, markStation_mark]
    simp only [named, true_and, ne_eq, not_false_eq_true]
  · have unnamed : ¬ (r.target ≠ 0 ∧ s.roster.admits r.target = true ∧ s.roster.indexOf r.target = some i) :=
      fun ⟨here, admitted, _⟩ => named ⟨here, admitted⟩
    rw [if_neg named, if_neg unnamed, markStation_mark]

theorem releaseReached_mark (s : State) (r : ReleaseBody) (i : Nat) :
    (s.releaseReached r).vw.mark i = (s.releaseMarked r).vw.mark i := by
  unfold State.releaseReached
  split
  · obtain ⟨marks, -⟩ := setReach_views (s.releaseMarked r) r.last r.station
    rw [Viewer.mark, marks]
    rfl
  · rfl

theorem releaseReached_reach (s : State) (r : ReleaseBody) : (s.releaseReached r).vw.reach =
    if 0 < r.last then some (r.last, r.station) else s.vw.reach := by
  unfold State.releaseReached
  split
  · exact (setReach_reach _ _ _).1
  · rw [releaseMarked_vw]

theorem releaseReached_gaps (last : 0 < r.last) (other : r.station ≠ s.own) :
    GapsOpened s (s.releaseReached r) r.station (s.vw.base.getD (max 1 (r.last - 31))) r.last := by
  have frame : SameBut [.vw] s (s.releaseMarked r) :=
    frame_ite ((frame_markStation _ _ _).trans (frame_markStation _ _ _)) (frame_markStation _ _ _)
  have opened := setReach_gaps (s := s.releaseMarked r) (station := r.station) (by rwa [frame.own (by decide)]) r.last
  rw [releaseMarked_vw] at opened
  rw [State.releaseReached, if_pos last]
  exact opened.congr (by rw [releaseMarked_vw]) (frame.clock (by decide)).symm rfl

end

section
variable {s : State} {rest : List Frame} {n : Nat} {r : ReleaseBody}

/-! ## A RELEASE through both blocks -/

/-- The state at which the Custody Unit has taken a RELEASE, the Viewer not yet. -/
def State.releaseJudged (s : State) (rest : List Frame) (n : Nat) (r : ReleaseBody) : State := (s.heard rest n).releaseAtCu r

theorem frame_releaseJudged (s : State) (rest : List Frame) (n : Nat) (r : ReleaseBody) :
    SameBut (.roster :: .lnc :: recordParts) s (s.releaseJudged rest n r) :=
  (frame_heard s rest n).chain (frame_releaseAtCu _ r) (by decide) (by decide)

variable (online : s.online = true) (viewer : s.cfg.viewer = true)
include online viewer

theorem releaseTaken_eq : s.releaseTaken rest n r = ((s.releaseJudged rest n r).releaseReached r).follow := by
  have frame := frame_releaseJudged s rest n r
  have viewing : (s.releaseJudged rest n r).viewing = true := by
    rw [viewing_congr s _ (frame.isOnline (by decide)) (frame.cfg (by decide)), State.viewing, viewer]
    exact (Bool.and_true _).trans online
  rw [State.releaseTaken, releaseAtViewer_eq]
  exact if_pos viewing

/-- The state whose choice is followed in the end. -/
theorem releaseReached_viewing : ((s.releaseJudged rest n r).releaseReached r).viewing = true := by
  have frame := (frame_releaseJudged s rest n r).chain (zs := .roster :: .lnc :: recordParts)
    (frame_releaseReached (s.releaseJudged rest n r) r) (by decide) (by decide)
  rw [viewing_congr s _ (frame.isOnline (by decide)) (frame.cfg (by decide)), State.viewing, viewer]
  exact (Bool.and_true _).trans online

theorem releaseTaken_followed : (s.releaseTaken rest n r).vw.followed = (s.releaseTaken rest n r).followChoice := by
  rw [releaseTaken_eq online viewer, follow_followed _ (releaseReached_viewing online viewer), follow_choice]

theorem releaseTaken_mark (i : Nat) : (s.releaseTaken rest n r).vw.mark i =
    if r.target ≠ 0 ∧ s.roster.admits r.target = true ∧ s.roster.indexOf r.target = some i then .named
    else if s.roster.indexOf r.station = some i then .released
    else s.vw.mark i := by
  have roster : (s.releaseJudged rest n r).roster = (s.heard rest n).roster := releaseAtCu_roster _ r
  have marks : (s.releaseJudged rest n r).vw.mark i = s.vw.mark i := by
    rw [Viewer.mark, State.releaseJudged, releaseAtCu_marks, heard_vw]
    rfl
  rw [releaseTaken_eq online viewer, follow_mark, releaseReached_mark, releaseMarked_mark, roster, marks, heard_admits, heard_indexOf,
    heard_indexOf]

/-- Where the node does not follow itself, the Viewer is as it was but for the marks, the reach and the holder followed. -/
theorem releaseTaken_reach (other : (s.releaseTaken rest n r).vw.followed ≠ some .self) :
    (s.releaseTaken rest n r).vw.reach = (if 0 < r.last then some (r.last, r.station) else s.vw.reach)
    ∧ (0 < r.last → r.station ≠ s.own →
        GapsOpened s (s.releaseTaken rest n r) r.station (s.vw.base.getD (max 1 (r.last - 31))) r.last) := by
  have frame := frame_releaseReached (s.releaseJudged rest n r) r
  rw [releaseTaken_eq online viewer, follow_followed _ (releaseReached_viewing online viewer)] at other
  have followed := follow_other (releaseReached_viewing (rest := rest) (n := n) (r := r) online viewer) other
  rw [Ne, followChoice_self, frame.cfg (by decide), frame.cu (by decide), (frame_releaseJudged s rest n r).cfg (by decide)] at other
  have kept := releaseAtCu_vw (s.heard rest n) r (by rwa [heard_cfg])
  rw [heard_vw] at kept
  have kept' : (s.releaseJudged rest n r).vw = { s.vw with followed := (s.releaseJudged rest n r).vw.followed } := kept
  rw [releaseTaken_eq online viewer]
  refine ⟨?_, fun last elsewhere => ?_⟩
  · rw [followed]
    refine (releaseReached_reach _ r).trans ?_
    rw [kept']
  · have opened := releaseReached_gaps (s := s.releaseJudged rest n r) last
      (by rwa [(frame_releaseJudged s rest n r).own (by decide)])
    rw [kept'] at opened
    exact opened.congr (by rw [kept']) ((frame_releaseJudged s rest n r).clock (by decide)).symm (by rw [followed])

/-- A node that comes to follow itself has its own committed-through as the reach (R171). -/
theorem releaseTaken_self (prior : ∀ p, s.cu.prior = some p → p = .idle ∨ p = .shadow)
    (self : (s.releaseTaken rest n r).vw.followed = some .self) (other : s.vw.followed ≠ some .self) :
    (s.releaseTaken rest n r).vw.reach = some ((s.releaseTaken rest n r).tb.committedThrough, s.own) := by
  have frame := frame_releaseReached (s.releaseJudged rest n r) r
  rw [releaseTaken_eq online viewer] at self ⊢
  have chosen := self
  rw [follow_followed _ (releaseReached_viewing online viewer), followChoice_self, frame.cu (by decide)] at chosen
  have before := releaseAtCu_notSelf (s.heard rest n) r (by rwa [heard_cu]) (by rwa [heard_vw]) chosen.2
  have changed : ((s.releaseJudged rest n r).releaseReached r).follow.vw.followed ≠
      ((s.releaseJudged rest n r).releaseReached r).vw.followed := by
    rw [self, releaseReached_followed]
    exact before.symm
  obtain ⟨-, told, -⟩ := follow_refollowed ((s.releaseJudged rest n r).releaseReached r)
  rw [(told changed).2 self, frame.own (by decide), (frame_releaseJudged s rest n r).own (by decide)]

/-- Outside CLAIMING a change of the holder followed is told once. -/
theorem releaseTaken_told (apart : s.cu.state ≠ .claiming) (changed : (s.releaseTaken rest n r).vw.followed ≠ s.vw.followed) :
    Latched s (s.releaseTaken rest n r) 12
      (.followChanged ((s.releaseTaken rest n r).followStation (s.releaseTaken rest n r).vw.followed)) := by
  have frame := frame_releaseReached (s.releaseJudged rest n r) r
  obtain ⟨followed, quiet⟩ := releaseAtCu_unfollowed (s.heard rest n) r (by rwa [heard_cu])
  have before : LatchesBut [2, 3, 4, 13, 14] s ((s.releaseJudged rest n r).releaseReached r) :=
    ((latches_heard s rest n).trans quiet).trans (frame.noLatch (by decide))
  rw [releaseTaken_eq online viewer] at changed ⊢
  obtain ⟨-, told, -⟩ := follow_refollowed ((s.releaseJudged rest n r).releaseReached r)
  refine (told ?_).1.after before (by decide) (by decide)
  rw [releaseReached_followed]
  rw [heard_vw] at followed
  exact fun same => changed (same.trans followed)

end

end Sys2Proof.Machine

open Sys2Proof Sys2Proof.Machine

/-- Settles O46: a TAIL of the followed station sets the reach (`tailAtViewer_follows`), any other leaves it (`tailAtViewer_ignored`); a
RELEASE is followed through both blocks (`releaseTaken_mark`, `releaseTaken_reach`, `releaseTaken_self`, `releaseTaken_told`); the choice
is the best effective holder (`followChoice_station`); a LINE by what its slot holds (`storeLine_puts`, `storeLine_loses`). -/
theorem tailsAndLinesReachTheViewer : Obligations.TailsAndLinesReachTheViewer := by
  unfold Obligations.TailsAndLinesReachTheViewer
  refine ⟨?tail, ?release, fun s => ⟨followChoice_self s, followChoice_station⟩, effectiveHolder_iff, ?line⟩
  case tail =>
    intro s f rest x i queue kind parsed index
    have index' : (s.heard rest f.station).roster.indexOf x.station = some i := by rwa [heard_indexOf]
    have delivered := (exec_deliverTail s).trans (congrArg Host.Outcome.next (deliverTail_eq queue kind parsed))
    have frame : SameBut [.lnc, .roster, .vw, .sp] s ((s.heard rest f.station).tailAtViewer x).compose := by
      refine SameBut.chain (xs := [.lnc, .roster, .vw]) ?_ (frame_compose _) (by decide) (by decide)
      exact (frame_heard s rest f.station).chain (frame_tailAtViewer _ x) (by decide) (by decide)
    have tails := tailAtViewer_tails (x := x) index'
    have tail (j : Nat) : ((s.heard rest f.station).tailAtViewer x).vw.tail j =
        if i = j then keptImage x.image (s.vw.pinned x.station) else s.vw.tail j := by
      have kept : ((s.heard rest f.station).tailAtViewer x).vw.tail j = ((s.heard rest f.station).tailKept i x).vw.tail j := by
        rw [Viewer.tail, tails]
        rfl
      rw [kept, State.tailKept, State.setVw_vw, tail_setTail _ _ _ _ (indexOf_lt index), heard_vw]
    refine ⟨_, delivered, frame, ?_, ?_, fun j unlike => ?_, fun record followed => ?_, fun apart => ?_⟩
    · rw [compose_lnc, (frame_tailAtViewer _ _).lnc (by decide), heard_lnc]
    · rw [compose_vw, tail, if_pos rfl, keptImage_eq]
    · rw [compose_vw, tail, if_neg unlike.symm]
    · obtain ⟨reach, base, gaps, store⟩ := tailAtViewer_follows index' record (by rwa [heard_vw])
      rw [heard_vw] at base gaps store
      rw [heard_own] at gaps store
      rw [compose_vw]
      exact ⟨reach, base, fun other => (gaps other).congr (by rw [heard_vw]) (by rw [heard_clock]) (by rw [compose_vw]), store⟩
    · have ignored := tailAtViewer_ignored (x := x) index' (by rwa [heard_vw])
      rwa [heard_vw, ← compose_vw] at ignored
  case release =>
    intro s f rest r queue kind parsed online viewer
    have frame : SameBut [.lnc, .roster, .tb, .cu, .pub, .vw, .latches, .sp] s (s.releaseTaken rest f.station r).offered :=
      (frame_releaseTaken s rest f.station r).chain (frame_offered _) (by decide) (by decide)
    have station (x : Option Followed) : (s.releaseTaken rest f.station r).offered.followStation x =
        (s.releaseTaken rest f.station r).followStation x := by
      have own : (s.releaseTaken rest f.station r).offered.own = (s.releaseTaken rest f.station r).own :=
        (frame_offered _).own (by decide)
      unfold State.followStation
      rw [own]
    have choice : (s.releaseTaken rest f.station r).offered.followChoice = (s.releaseTaken rest f.station r).followChoice :=
      followChoice_congr _ _ ((frame_offered _).cfg (by decide)) (offered_cu _) (offered_roster _) (by rw [offered_vw])
    refine ⟨_, (exec_deliverRelease s).trans (congrArg Host.Outcome.next (deliverRelease_eq queue kind parsed)), frame, ?_,
      fun i _ => ?_, fun other => ?_, fun coherent self other => ?_, fun apart changed => ?_⟩
    · rw [offered_vw, choice, releaseTaken_followed online viewer]
    · rw [offered_vw, releaseTaken_mark online viewer]
    · rw [offered_vw] at other ⊢
      obtain ⟨reach, gaps⟩ := releaseTaken_reach online viewer other
      exact ⟨reach, fun last elsewhere => (gaps last elsewhere).congr rfl rfl (by rw [offered_vw])⟩
    · rw [offered_vw] at self ⊢
      rw [offered_tb]
      obtain ⟨-, -, -, -, prior⟩ := coherent
      exact releaseTaken_self online viewer prior self other
    · rw [offered_vw] at changed ⊢
      rw [station]
      exact (releaseTaken_told online viewer apart changed).offered
  case line =>
    intro s f rest l queue kind parsed
    have delivered := (exec_deliverLine s).trans (congrArg Host.Outcome.next (deliverLine_eq queue kind parsed))
    have lcp : (s.heard rest f.station).lcp = s.lcp := (frame_heard s rest f.station).lcp (by decide) (by decide)
    have frame : SameBut [.lnc, .roster, .vw, .latches, .sp] s ((s.heard rest f.station).lineAtViewer l).compose := by
      refine SameBut.chain (xs := [.lnc, .roster, .vw, .latches]) ?_ (frame_compose _) (by decide) (by decide)
      exact (frame_heard s rest f.station).chain (frame_lineAtViewer _ l) (by decide) (by decide)
    have stored (admitted : s.roster.admits l.station = true) : (s.heard rest f.station).lineAtViewer l =
        (s.heard rest f.station).storeLine l.number l.gone l.brk l.text := lineAtViewer_admitted (by rwa [heard_admits])
    refine ⟨_, delivered, frame, ?_, fun unknown => ?_, fun admitted text places => ?_, fun admitted gone awaited => ?_,
      fun admitted gone lost => ?_, fun admitted held => ?_⟩
    · rw [compose_lnc, (frame_lineAtViewer _ _).lnc (by decide), heard_lnc]
    · have ignored : (s.heard rest f.station).lineAtViewer l = s.heard rest f.station := if_neg (by simp [unknown])
      rw [compose_vw, compose_lcp, ignored, heard_vw, lcp]
      exact ⟨rfl, rfl⟩
    · rw [compose_vw, compose_lcp, stored admitted, text, storeLine_puts (by rwa [heard_vw])]
      refine ⟨stateOf_put _ _ _, ?_, lcp⟩
      rw [State.putLine, heard_vw]
      rfl
    · obtain ⟨lost, count, told⟩ := loseLine_lost (s.heard rest f.station) l.number
      rw [heard_vw] at count
      rw [compose_vw, stored admitted, gone, storeLine_loses (by rwa [heard_vw])]
      refine ⟨lost, count, ?_⟩
      have latched := told.after (latches_heard (ps := []) s rest f.station) (by decide) (by decide)
      rwa [Latched, compose_lcp]
    · rw [compose_vw, compose_lcp, stored admitted, gone, storeLine_lost (by rwa [heard_vw]), heard_vw, lcp]
      exact ⟨rfl, rfl⟩
    · rw [compose_vw, compose_lcp, stored admitted, storeLine_stays (by rwa [heard_vw]), heard_vw, lcp]
      exact ⟨rfl, rfl⟩
end

section
/-! SUPPORT. The dirty set in rising order through every command, and the row send; with them O48. -/

namespace Sys2Proof.Machine

/-! ## The dirty set through the shared operations (R181) -/

section
variable {s t : State} {xs : List Part}

theorem DirtyRising.of_eq (h : DirtyRising s) (k : t.sp.dirty = s.sp.dirty) : DirtyRising t := by
  unfold DirtyRising
  rw [k]
  exact h

/-- What leaves the Screen Port alone keeps the dirty set. -/
theorem DirtyRising.frame (h : DirtyRising s) (k : SameBut xs s t) (apart : xs.contains Part.sp = false) : DirtyRising t :=
  h.of_eq (congrArg Screen.dirty (k.sp (by simpa using apart)))

theorem DirtyRising.ite {c : Prop} [Decidable c] {u : State} (h : DirtyRising t) (k : DirtyRising u) :
    DirtyRising (if c then t else u) := by
  split
  · exact h
  · exact k

theorem DirtyRising.reachMs (h : DirtyRising s) (e : Ms) : DirtyRising (s.reachMs e) := h.of_eq (reachMs_dirty s e)
theorem DirtyRising.advance (h : DirtyRising s) (n : Nat) : DirtyRising (s.advance n) := h.of_eq (advance_dirty s n)
theorem DirtyRising.reachChars (h : DirtyRising s) (n : Nat) : DirtyRising (s.reachChars n) := h.of_eq (reachChars_dirty s n)
theorem DirtyRising.compose (h : DirtyRising s) : DirtyRising s.compose := compose_rising s h
theorem DirtyRising.offered (h : DirtyRising s) : DirtyRising s.offered := (h.frame (frame_choose s) rfl).compose
theorem DirtyRising.settled (h : DirtyRising s) : DirtyRising s.settled := (h.frame (frame_teRun s) rfl).offered

theorem DirtyRising.deliver (h : DirtyRising s) (k : FrameKind) (take : State → Frame → State)
    (keeps : ∀ t f, DirtyRising t → DirtyRising (take t f)) : DirtyRising (s.deliver k take) := by
  unfold State.deliver
  split
  · exact h
  · exact DirtyRising.ite (keeps _ _ (h.frame (frame_setLnc _ _) rfl)) h

theorem DirtyRising.checked {α : Type} (h : DirtyRising s) (p : Option α) (run : State → α → State)
    (keeps : ∀ x, DirtyRising (run s x)) : DirtyRising (s.checked p run) := by
  unfold State.checked
  split
  · exact keeps _
  · exact h.frame (frame_reply _ _ _) rfl

theorem DirtyRising.takeCommand (h : DirtyRising s) (code : Byte) (ps : List Byte) (run : State → State)
    (keeps : ∀ t, DirtyRising t → DirtyRising (run t)) : DirtyRising (s.takeCommand code ps run) := by
  have taken : DirtyRising (s.taking code ps) := h.frame (frame_taking _ _ _) rfl
  have answered (c : ReplyCode) : DirtyRising ((s.taking code ps).reply c []) := taken.frame (frame_reply _ _ _) rfl
  exact DirtyRising.ite (h.frame (frame_give _ _) rfl) (DirtyRising.ite (answered _) (DirtyRising.ite (keeps _ taken) (answered _)))

/-! ## Capture and translation -/

theorem DirtyRising.settlingExpiry (h : DirtyRising s) (n : Nat) : DirtyRising (s.settlingExpiry n) := by
  unfold State.settlingExpiry
  split
  · exact h
  · split
    · exact h
    · exact DirtyRising.ite ((h.reachMs _).frame (frame_acceptedDown _ _ _) rfl) ((h.reachMs _).frame (frame_acceptedUp _ _ _) rfl)

theorem DirtyRising.stuckExpiry (h : DirtyRising s) (n : Nat) : DirtyRising (s.stuckExpiry n) := by
  unfold State.stuckExpiry
  split
  · exact h
  · split
    · exact h
    · exact (((h.reachMs _).frame (frame_setKcu _ _) rfl).frame (frame_latch _ _) rfl).frame (frame_closeIfNoneLive _ _) rfl

theorem DirtyRising.takeStroke (h : DirtyRising s) : DirtyRising s.takeStroke := by
  unfold State.takeStroke
  split
  · exact h
  · exact DirtyRising.ite (((h.frame (frame_setSq _ _) rfl).frame (frame_setTe _ _) rfl).frame (frame_startStroke _ _) rfl).settled h

theorem DirtyRising.walkReadEnd (h : DirtyRising s) : DirtyRising s.walkReadEnd := by
  unfold State.walkReadEnd
  split
  · exact h
  · exact ((h.frame (frame_endOperation _ _) rfl).frame (frame_walkData _ _) rfl).settled

theorem DirtyRising.resolveExpiry (h : DirtyRising s) : DirtyRising s.resolveExpiry := by
  unfold State.resolveExpiry
  split
  · exact h
  · exact ((h.reachMs _).frame (frame_setTe _ _) rfl).settled

theorem DirtyRising.replacement (h : DirtyRising s) : DirtyRising s.replacement := by
  unfold State.replacement
  split
  · exact ((h.frame (frame_setTe _ _) rfl).frame (frame_replaceUnits _ _ _) rfl).offered
  · exact h

/-! ## The dictionary store and GO -/

/-- GO makes every row of the two panes dirty (R183). -/
theorem DirtyRising.viewerAtGo (h : DirtyRising s) : DirtyRising s.viewerAtGo := by
  unfold State.viewerAtGo
  split
  · exact List.pairwise_lt_range
  · exact h

theorem DirtyRising.goComplete (h : DirtyRising s) : DirtyRising s.goComplete := by
  unfold State.goComplete
  dsimp only
  refine DirtyRising.frame (DirtyRising.frame (DirtyRising.viewerAtGo ?_) (frame_reply _ _ _) rfl) (frame_choose _) rfl
  refine DirtyRising.frame ?_ (frame_publisherAtGo _) rfl
  refine ((DirtyRising.frame ?_ (frame_setLnc _ _) rfl).frame (frame_setCu _ _) rfl).frame (frame_setRoster _ _) rfl
  refine ((DirtyRising.frame ?_ (frame_setCache _ _) rfl).frame (frame_setKcu _ _) rfl).frame (frame_setTb _ _) rfl
  exact (h.frame (frame_setDu _ _) rfl).frame (frame_setLcp _ _) rfl

theorem DirtyRising.goCountsOn (h : DirtyRising s) (todo : List PlannedWrite) : DirtyRising (s.goCountsOn todo) := by
  unfold State.goCountsOn
  split
  · exact (h.frame (frame_setDu _ _) rfl).frame (frame_request _ _ _) rfl
  · exact h.goComplete

theorem DirtyRising.scanOut (h : DirtyRising s) (o : ScanOut) : DirtyRising (s.scanOut o) := by
  cases o with
  | read a n sc => exact (h.frame (frame_setDu _ _) rfl).frame (frame_request _ _ _) rfl
  | fault d => exact (h.frame (frame_latch _ _) rfl).frame (frame_goFails _ _) rfl
  | done sc => exact (h.frame (frame_setDu _ _) rfl).goCountsOn _

theorem DirtyRising.goDirectory (h : DirtyRising s) (got : List Byte) : DirtyRising (s.goDirectory got) := by
  have fails (r : GoReason) : DirtyRising (s.goFails r) := h.frame (frame_goFails _ _) rfl
  exact DirtyRising.ite ((h.frame (frame_setDu _ _) rfl).frame (frame_request _ _ _) rfl) (DirtyRising.ite (fails _)
    (DirtyRising.ite (fails _) ((h.frame (frame_setDu _ _) rfl).scanOut _)))

theorem DirtyRising.defOperationEnd (h : DirtyRising s) : DirtyRising s.defOperationEnd := by
  unfold State.defOperationEnd
  split
  · exact h
  next r _ =>
    have ended : DirtyRising (s.endOperation r) := h.frame (frame_endOperation _ _) rfl
    unfold State.duData
    split
    · exact ended.frame (frame_planLookup _ _ _ _) rfl
    · exact (ended.frame (frame_setDu _ _) rfl).frame (frame_writeOn _ _ _ _) rfl
    · exact ended.goDirectory _
    · exact ended.scanOut _
    · exact ended.goCountsOn _
    · exact ended

theorem DirtyRising.fenceComplete (h : DirtyRising s) : DirtyRising s.fenceComplete := by
  unfold State.fenceComplete
  split
  next e ref v rest _ =>
    have fenced := (h.frame (frame_fence s (.strokeLayer v 0)) rfl).frame (frame_setDu _ { s.du with work := .finish e ref rest }) rfl
    exact DirtyRising.ite (fenced.frame (frame_finishEntry _ _ _) rfl).settled fenced
  · exact h

/-! ## The courtroom line and the Publisher's timers -/

theorem DirtyRising.characterReceived (h : DirtyRising s) (heading : Bool) (b : Byte) (ok : Bool) :
    DirtyRising (s.characterReceived heading b ok) := by
  have ended : DirtyRising (s.characterEnd ok) := by
    unfold State.characterEnd
    refine DirtyRising.frame ?_ (frame_setLnc _ _) rfl
    split
    · exact DirtyRising.ite h (h.reachChars _)
    · exact h
  have assembled := (ended.frame (frame_echo _ heading b ok) rfl).frame (frame_assemble _ heading b ok) rfl
  exact DirtyRising.ite (DirtyRising.ite assembled (assembled.frame (frame_choose _) rfl)) ended

theorem DirtyRising.frameEnd (h : DirtyRising s) : DirtyRising s.frameEnd := by
  unfold State.frameEnd
  split
  · exact ((h.advance _).frame (frame_setLnc _ _) rfl).frame (frame_finishFrame _ _) rfl
  · exact h

theorem DirtyRising.guardExpiry (h : DirtyRising s) : DirtyRising s.guardExpiry := by
  unfold State.guardExpiry
  split
  · exact h
  · exact (h.reachChars _).frame (frame_setLnc _ _) rfl

theorem DirtyRising.transmitStart (h : DirtyRising s) : DirtyRising s.transmitStart := by
  unfold State.transmitStart
  split
  · refine DirtyRising.ite ?_ h
    dsimp only
    split
    · exact ((h.advance _).frame (frame_startDriving _ _ _) rfl).frame (frame_choose _) rfl
    · exact h
  · exact h

theorem DirtyRising.creditReach (h : DirtyRising s) : DirtyRising s.creditReach := by
  unfold State.creditReach
  split
  · exact h
  · exact DirtyRising.ite h (((h.reachChars _).frame (frame_updateCredit _) rfl).frame (frame_choose _) rfl)

theorem DirtyRising.beaconExpiry (h : DirtyRising s) : DirtyRising s.beaconExpiry := by
  unfold State.beaconExpiry
  split
  · exact h
  · exact (((h.reachMs _).frame (frame_stationReady _) rfl).frame (frame_setPub _ _) rfl).frame (frame_choose _) rfl

theorem DirtyRising.refreshExpiry (h : DirtyRising s) : DirtyRising s.refreshExpiry := by
  unfold State.refreshExpiry
  split
  · exact h
  · exact (((h.reachMs _).frame (frame_setPub _ _) rfl).frame (frame_buildTail _) rfl).frame (frame_choose _) rfl

/-! ## Roster, custody and viewing -/

theorem DirtyRising.deliverStation (h : DirtyRising s) : DirtyRising s.deliverStation :=
  h.deliver _ _ fun _ f k => (k.frame (frame_stationAtRoster _ f) rfl).offered

theorem DirtyRising.deliverClaim (h : DirtyRising s) : DirtyRising s.deliverClaim :=
  h.deliver _ _ fun _ _ k =>
    ((k.frame (frame_refreshSlot _ _) rfl).frame (frame_takeBody _ _ fun _ => frame_claimAtCu _ _) rfl).offered

theorem DirtyRising.deliverRelease (h : DirtyRising s) : DirtyRising s.deliverRelease :=
  h.deliver _ _ fun _ _ k => ((k.frame (frame_refreshSlot _ _) rfl).frame (frame_takeBody (xs := recordParts) _ _ fun _ =>
    (frame_releaseAtCu _ _).chain (frame_releaseAtViewer _ _) (by decide) (by decide)) rfl).offered

theorem DirtyRising.deliverRefuse (h : DirtyRising s) : DirtyRising s.deliverRefuse :=
  h.deliver _ _ fun _ _ k => (k.frame (frame_takeBody _ _ fun _ => frame_refuseAtCu _ _) rfl).offered

theorem DirtyRising.deliverTail (h : DirtyRising s) : DirtyRising s.deliverTail :=
  h.deliver _ _ fun _ _ k =>
    ((k.frame (frame_refreshSlot _ _) rfl).frame (frame_takeBody _ _ fun _ => frame_tailAtViewer _ _) rfl).compose

theorem DirtyRising.deliverLine (h : DirtyRising s) : DirtyRising s.deliverLine :=
  h.deliver _ _ fun _ _ k =>
    ((k.frame (frame_refreshSlot _ _) rfl).frame (frame_takeBody _ _ fun _ => frame_lineAtViewer _ _) rfl).compose

theorem DirtyRising.lapseExpiry (h : DirtyRising s) (i : Nat) : DirtyRising (s.lapseExpiry i) := by
  unfold State.lapseExpiry
  split
  · exact h
  · split
    · exact h
    · exact (((((h.reachMs _).frame (frame_setSlot _ _ _) rfl).frame (frame_setVw _ _) rfl).frame (frame_latch _ _) rfl).frame
        (frame_tellLeft _ _) rfl).offered

theorem DirtyRising.freeExpiry (h : DirtyRising s) (i : Nat) : DirtyRising (s.freeExpiry i) := by
  unfold State.freeExpiry
  split
  · exact h
  · split
    · exact h
    · exact (((h.reachMs _).frame (frame_removeSlot _ _ _) rfl).frame (frame_tellLeft _ _) rfl).offered

theorem DirtyRising.claimExpiry (h : DirtyRising s) : DirtyRising s.claimExpiry := by
  unfold State.claimExpiry
  split
  · exact h
  · refine DirtyRising.offered ?_
    split
    · exact (h.reachMs _).frame (frame_endClaim _ _ _ _) rfl
    · exact (h.reachMs _).frame (frame_takeOver _) rfl

theorem DirtyRising.settleExpiry (h : DirtyRising s) : DirtyRising s.settleExpiry := by
  unfold State.settleExpiry
  split
  · exact h
  · exact (((h.reachMs _).frame (frame_setCu _ _) rfl).frame (frame_handOverToBest _) rfl).settled

theorem DirtyRising.commitAll (h : DirtyRising s) : DirtyRising s.commitAll := by
  have committed := (h.frame (frame_setCu s { s.cu with commitAllDue := false }) rfl).frame (frame_commitAllLines _) rfl
  unfold State.commitAll
  refine DirtyRising.ite (DirtyRising.offered ?_) h
  split
  · exact committed.frame (frame_completeRelease _ _) rfl
  · exact committed

theorem DirtyRising.gapExpiry (h : DirtyRising s) (n : Nat) : DirtyRising (s.gapExpiry n) := by
  unfold State.gapExpiry
  split
  · refine DirtyRising.ite (DirtyRising.offered ?_) ((h.reachMs _).frame (frame_loseLine _ _) rfl).compose
    exact ((h.reachMs _).frame (SameBut.foldl _ (fun s n => frame_askedAgain s n) _ _) rfl).frame (frame_makeAsk _ _ _ _) rfl
  · exact h

/-! ## The row send (R182) -/

theorem DirtyRising.rowSendStart (h : DirtyRising s) : DirtyRising s.rowSendStart := by
  unfold State.rowSendStart
  split
  next r rest _ dirty =>
    refine DirtyRising.ite h ?_
    unfold DirtyRising at h ⊢
    rw [dirty] at h
    exact h.of_cons
  · exact h

theorem DirtyRising.busyChange (h : DirtyRising s) (high : Bool) : DirtyRising (s.busyChange high) :=
  DirtyRising.ite h (h.of_eq rfl)

theorem DirtyRising.rowSendComplete (h : DirtyRising s) : DirtyRising s.rowSendComplete := by
  unfold State.rowSendComplete
  split
  · exact h
  · exact DirtyRising.ite h (h.of_eq rfl)

/-! ## The host's commands -/

theorem DirtyRising.go (h : DirtyRising s) (ps : List Byte) : DirtyRising (s.go ps) := by
  refine h.takeCommand _ _ _ fun t k => k.checked _ _ fun _ => ?_
  unfold State.goTaken
  split
  · exact k.frame (frame_reply _ _ _) rfl
  · exact k.goDirectory _

theorem DirtyRising.restart (h : DirtyRising s) (ps : List Byte) : DirtyRising (s.restart ps) :=
  h.takeCommand _ _ _ fun _ k => k.checked _ _ fun _ => List.Pairwise.nil

theorem dirtyRising_fullReset (s : State) (src : ResetSource) : DirtyRising (s.fullReset src) := List.Pairwise.nil

theorem DirtyRising.flushCache (h : DirtyRising s) (b : Byte) (rs : List Byte) (f : Option FenceScope) :
    DirtyRising (s.flushCache b rs f) :=
  h.takeCommand _ _ _ fun _ k => k.checked _ _ fun f => DirtyRising.ite (k.frame (frame_reply _ _ _) rfl)
    (((k.frame (frame_fence _ f) rfl).frame (frame_raiseGeneration _) rfl).frame (frame_reply _ _ _) rfl).settled

theorem DirtyRising.custody (h : DirtyRising s) (b : Byte) (rs : List Byte) (q : CustodyRequest) : DirtyRising (s.custody b rs q) :=
  h.takeCommand _ _ _ fun _ k => k.checked _ _ fun _ => DirtyRising.ite
    (((k.frame (frame_takeRequest _ q) rfl).frame (frame_flushFor _ q) rfl).frame (frame_reply _ _ _) rfl).offered
    (k.frame (frame_reply _ _ _) rfl)

theorem DirtyRising.paneCommand (h : DirtyRising s) (ps : List Byte) : DirtyRising (s.paneCommand ps) :=
  h.takeCommand _ _ _ fun _ k => k.checked _ _ fun _ =>
    (((k.frame (frame_setVw _ _) rfl).frame (frame_releasePins _) rfl).compose).frame (frame_reply _ _ _) rfl

end

/-! ## Every command -/

/-- Every command, with the dirty set in rising order, leaves it so. -/
theorem exec_dirtyRising (c : Instr) (s : State) (h : DirtyRising s) : ∃ t, exec c s = .next t ∧ DirtyRising t := by
  cases c with
  | fullReset src => exact ⟨_, rfl, dirtyRising_fullReset s src⟩
  | rawLevelChange n down => exact ⟨_, rfl, h.frame (frame_rawLevelChange _ _ _) rfl⟩
  | settlingTimerExpiry n => exact ⟨_, rfl, h.settlingExpiry n⟩
  | stuckTimerExpiry n => exact ⟨_, rfl, h.stuckExpiry n⟩
  | takeStroke => exact ⟨_, rfl, h.takeStroke⟩
  | walkReadEnd => exact ⟨_, rfl, h.walkReadEnd⟩
  | resolveTimerExpiry => exact ⟨_, rfl, h.resolveExpiry⟩
  | retrReadEnd => exact ⟨_, rfl, h.frame (frame_retrReadEnd _) rfl⟩
  | matchCheck => exact ⟨_, rfl, h.frame (frame_matchCheck _) rfl⟩
  | replacement => exact ⟨_, rfl, h.replacement⟩
  | duServiceStart => exact ⟨_, rfl, h.frame (frame_duServiceStart _) rfl⟩
  | defOperationEnd => exact ⟨_, rfl, h.defOperationEnd⟩
  | exportOperationEnd => exact ⟨_, rfl, h.frame (frame_exportOperationEnd _) rfl⟩
  | fenceComplete => exact ⟨_, rfl, h.fenceComplete⟩
  | startBitSeen atStart => exact ⟨_, rfl, h.frame (frame_startBitSeen _ _) rfl⟩
  | characterReceived heading b ok => exact ⟨_, rfl, h.characterReceived heading b ok⟩
  | frameEndBySilence => exact ⟨_, rfl, h.frameEnd⟩
  | turnaroundGuardExpiry => exact ⟨_, rfl, h.guardExpiry⟩
  | transmitStart => exact ⟨_, rfl, h.transmitStart⟩
  | creditReach => exact ⟨_, rfl, h.creditReach⟩
  | deliverStation => exact ⟨_, rfl, h.deliverStation⟩
  | deliverClaim => exact ⟨_, rfl, h.deliverClaim⟩
  | deliverRelease => exact ⟨_, rfl, h.deliverRelease⟩
  | deliverRefuse => exact ⟨_, rfl, h.deliverRefuse⟩
  | deliverDefine => exact ⟨_, rfl, h.frame (frame_deliverDefine _) rfl⟩
  | deliverAsk => exact ⟨_, rfl, h.frame (frame_deliverAsk _) rfl⟩
  | deliverTail => exact ⟨_, rfl, h.deliverTail⟩
  | deliverLine => exact ⟨_, rfl, h.deliverLine⟩
  | beaconTimerExpiry => exact ⟨_, rfl, h.beaconExpiry⟩
  | refreshTimerExpiry => exact ⟨_, rfl, h.refreshExpiry⟩
  | lapseTimerExpiry i => exact ⟨_, rfl, h.lapseExpiry i⟩
  | freeTimerExpiry i => exact ⟨_, rfl, h.freeExpiry i⟩
  | claimTimerExpiry => exact ⟨_, rfl, h.claimExpiry⟩
  | settleTimerExpiry => exact ⟨_, rfl, h.settleExpiry⟩
  | commitAll => exact ⟨_, rfl, h.commitAll⟩
  | gapTimerExpiry n => exact ⟨_, rfl, h.gapExpiry n⟩
  | rowSendStart => exact ⟨_, rfl, h.rowSendStart⟩
  | busyChange high => exact ⟨_, rfl, h.busyChange high⟩
  | rowSendComplete => exact ⟨_, rfl, h.rowSendComplete⟩
  | commandTakeBusy code ps => exact ⟨_, rfl, h.frame (frame_commandTakeBusy _) rfl⟩
  | shortCommandTransaction sent => exact ⟨_, rfl, h.frame (frame_shortCommand _ _) rfl⟩
  | responseRead clocked => exact ⟨_, rfl, h.frame (frame_responseRead _ _) rfl⟩
  | unknownCommand code ps => exact ⟨_, rfl, h.frame (frame_unknownCommand _ _ _) rfl⟩
  | configure ps => exact ⟨_, rfl, h.frame (frame_configure _ _) rfl⟩
  | load ps => exact ⟨_, rfl, h.frame (frame_load _ _) rfl⟩
  | readDict ps => exact ⟨_, rfl, h.frame (frame_readDict _ _) rfl⟩
  | go ps => exact ⟨_, rfl, h.go ps⟩
  | restart ps => exact ⟨_, rfl, h.restart ps⟩
  | define ps => exact ⟨_, rfl, h.frame (frame_hostDefine _ _) rfl⟩
  | forget ps => exact ⟨_, rfl, h.frame (frame_hostForget _ _) rfl⟩
  | flushCacheAll rs => exact ⟨_, rfl, h.flushCache 0 rs _⟩
  | flushCacheLayer rs => exact ⟨_, rfl, h.flushCache 1 rs _⟩
  | flushCacheStroke rs => exact ⟨_, rfl, h.flushCache 2 rs _⟩
  | flushCacheStrokeLayer rs => exact ⟨_, rfl, h.flushCache 3 rs _⟩
  | custodyClaim rs => exact ⟨_, rfl, h.custody 0 rs _⟩
  | custodyRelease rs => exact ⟨_, rfl, h.custody 1 rs _⟩
  | custodyEnterShadow rs => exact ⟨_, rfl, h.custody 2 rs _⟩
  | custodyLeaveShadow rs => exact ⟨_, rfl, h.custody 3 rs _⟩
  | custodyHold rs => exact ⟨_, rfl, h.custody 4 rs _⟩
  | custodyUnhold rs => exact ⟨_, rfl, h.custody 5 rs _⟩
  | pane ps => exact ⟨_, rfl, h.paneCommand ps⟩
  | readLinesAuto rs => exact ⟨_, rfl, h.frame (frame_readLines _ _ _ _) rfl⟩
  | readLinesPeek rs => exact ⟨_, rfl, h.frame (frame_readLines _ _ _ _) rfl⟩
  | readNotesAuto rs => exact ⟨_, rfl, h.frame (frame_readNotes _ _ _ _) rfl⟩
  | readNotesPeek rs => exact ⟨_, rfl, h.frame (frame_readNotes _ _ _ _) rfl⟩
  | readStatus ps => exact ⟨_, rfl, h.frame (frame_readStatus _ _) rfl⟩
  | readRoster ps => exact ⟨_, rfl, h.frame (frame_readRoster _ _) rfl⟩
  | readEvent ps => exact ⟨_, rfl, h.frame (frame_readEvent _ _) rfl⟩
  | setMask ps => exact ⟨_, rfl, h.frame (frame_setMask _ _) rfl⟩

/-- The dirty set in rising order is kept by every step (R181). -/
theorem step_dirtyRising {s t : State} (h : DirtyRising s) (stepped : step s = .next t) : DirtyRising t := by
  unfold step at stepped
  split at stepped
  · cases stepped
    exact h.advance 1
  · next c rest _ =>
    obtain ⟨u, ran, rising⟩ := exec_dirtyRising c (s.setPending rest) h
    cases ran.symm.trans stepped
    exact rising

/-! ## Rows sent one at a time (R182) -/

section
variable {s : State}

theorem rowSendStart_sends {r : Nat} {rest : List Nat} (free : s.sp.send = none) (dirty : s.sp.dirty = r :: rest)
    (low : s.sp.busyPin = false) : s.rowSendStart = s.setSp { s.sp with
      dirty := rest, send := some { row := r, given := 0, record := rowRecord r (s.sp.rows.getD r []) } } := by
  simp only [State.rowSendStart, free, dirty, low, Bool.false_eq_true, if_false]

theorem rowSendStart_waits (waits : s.sp.send ≠ none ∨ s.sp.dirty = [] ∨ s.sp.busyPin = true) : s.rowSendStart = s := by
  unfold State.rowSendStart
  split
  next r rest free dirty =>
    have high : s.sp.busyPin = true := by simpa [free, dirty] using waits
    exact if_pos high
  next => rfl

/-- BUSY takes the level given; a send in progress gets one byte more out where BUSY goes high. -/
theorem busyChange_sp (s : State) (high : Bool) : (s.busyChange high).sp = { s.sp with
    busyPin := high,
    send := s.sp.send.map fun w =>
      if high = true ∧ s.sp.busyPin = false then { w with given := min w.record.length (w.given + 1) } else w } := by
  unfold State.busyChange
  by_cases same : s.sp.busyPin = high
  · have kept : (fun w : RowSend =>
        if high = true ∧ s.sp.busyPin = false then { w with given := min w.record.length (w.given + 1) } else w) = id :=
      funext fun w => if_neg (by simp [same])
    rw [if_pos same, kept, Option.map_id, ← same]
    rfl
  · rw [if_neg same]
    cases high
    · simp
    · simp [Bool.eq_false_of_not_eq_true same]

theorem rowSendComplete_ends {w : RowSend} (sends : s.sp.send = some w) (done : s.sp.busyPin = false ∨ w.record.length ≤ w.given) :
    s.rowSendComplete = s.setSp { s.sp with send := none } := by
  have ended : ¬ (s.sp.busyPin = true ∧ w.given < w.record.length) := by
    rintro ⟨high, left⟩
    obtain low | given := done
    · rw [low] at high
      cases high
    · exact absurd left (Nat.not_lt.mpr given)
  simp only [State.rowSendComplete, sends, if_neg ended]

theorem rowSendComplete_waits
    (waits : s.sp.send = none ∨ ∃ w, s.sp.send = some w ∧ s.sp.busyPin = true ∧ w.given < w.record.length) :
    s.rowSendComplete = s := by
  obtain free | ⟨w, sends, high, left⟩ := waits
  · rw [State.rowSendComplete, free]
  · simp only [State.rowSendComplete, sends, if_pos (And.intro high left)]

end

theorem exec_rowSendStart (s : State) : exec .rowSendStart s = .next s.rowSendStart := rfl
theorem exec_busyChange (s : State) (high : Bool) : exec (.busyChange high) s = .next (s.busyChange high) := rfl
theorem exec_rowSendComplete (s : State) : exec .rowSendComplete s = .next s.rowSendComplete := rfl

end Sys2Proof.Machine

open Sys2Proof Sys2Proof.Machine

/-- Settles O48: each row by whether it has its occasion (`rowSendStart_sends`, `busyChange_sp`, `rowSendComplete_ends`), and the dirty
set's order as an invariant of every command (`exec_dirtyRising`). -/
theorem rowsAreSentOneAtATime : Obligations.RowsAreSentOneAtATime := by
  unfold Obligations.RowsAreSentOneAtATime
  refine ⟨fun s r rest free dirty low => ?start, fun s waits => ?idle, fun s high => ?busy, fun s w sends done => ?complete,
    fun s waits => ?incomplete, fun s t => step_dirtyRising⟩
  case start =>
    refine ⟨_, exec_rowSendStart s, frame_rowSendStart s, fun rising => ?_, ?_⟩
    · rw [DirtyRising, dirty] at rising
      exact (List.pairwise_cons.mp rising).1
    · rw [rowSendStart_sends free dirty low]
      rfl
  case idle => rw [exec_rowSendStart, rowSendStart_waits waits]
  case busy =>
    refine ⟨_, exec_busyChange s high, frame_busyChange s high, ?_⟩
    rw [busyChange_sp]
    refine ⟨rfl, rfl, rfl, fun free => ?_, fun w sends => ?_⟩
    · exact congrArg (Option.map _) free
    · exact congrArg (Option.map _) sends
  case complete =>
    refine ⟨_, exec_rowSendComplete s, frame_rowSendComplete s, ?_⟩
    rw [rowSendComplete_ends sends done]
    rfl
  case incomplete => rw [exec_rowSendComplete, rowSendComplete_waits waits]
end

section
/-! SUPPORT. The run of a gap that is asked for, and the line given up; with them O47. -/

namespace Sys2Proof.Machine

/-! ## The run (R173) -/

/-- Line `n` waits for `askOf` and has been asked for less than three times. -/
def Viewer.Askable (v : Viewer) (askOf n : Nat) : Prop := ∃ a d, a < 3 ∧ v.stateOf n = some (.waiting a d askOf)

section
variable {v : Viewer} {askOf n c : Nat}

theorem runFrom_askable (askable : v.Askable askOf n) :
    v.runFrom askOf (c + 1) n = n :: v.runFrom askOf c (n + 1) := by
  obtain ⟨a, d, few, waiting⟩ := askable
  simp only [Viewer.runFrom, waiting, few, and_self, if_true]

theorem runFrom_not_askable (unlike : ¬ v.Askable askOf n) : v.runFrom askOf (c + 1) n = [] := by
  unfold Viewer.runFrom
  split
  next a d st waiting => exact if_neg fun ⟨few, same⟩ => unlike ⟨a, d, few, same ▸ waiting⟩
  next => rfl

/-- The run holds the askable lines from `n` on, at most `c` of them, up to the first that is not. -/
theorem runFrom_spec (v : Viewer) (askOf c n : Nat) : ∃ k, v.runFrom askOf c n = List.range' n k ∧ k ≤ c
    ∧ (∀ j, j < k → v.Askable askOf (n + j)) ∧ (k < c → ¬ v.Askable askOf (n + k)) := by
  induction c generalizing n with
  | zero => exact ⟨0, rfl, Nat.le_refl 0, fun j none => absurd none (Nat.not_lt_zero j), fun none => absurd none (Nat.not_lt_zero 0)⟩
  | succ c ih =>
    by_cases askable : v.Askable askOf n
    · obtain ⟨k, run, most, all, next⟩ := ih (n + 1)
      refine ⟨k + 1, ?_, Nat.succ_le_succ most, fun j inside => ?_, fun fewer => ?_⟩
      · rw [runFrom_askable askable, run, List.range'_succ]
      · cases j with
        | zero => exact askable
        | succ j =>
          have here := all j (Nat.lt_of_succ_lt_succ inside)
          rwa [Nat.add_right_comm] at here
      · have here := next (Nat.lt_of_succ_lt_succ fewer)
        rwa [Nat.add_right_comm] at here
    · exact ⟨0, runFrom_not_askable askable, Nat.zero_le _, fun j none => absurd none (Nat.not_lt_zero j), fun _ => askable⟩

end

/-! ## The lines of a run asked for again (R173) -/

section
variable {s : State} {n m : Nat}

theorem askedAgain_waiting {a st : Nat} {d : Ms} (waiting : s.vw.stateOf n = some (.waiting a d st)) :
    s.askedAgain n = s.putLine n (.waiting (a + 1) (s.clock.ms + 2000) st) := by
  rw [State.askedAgain, waiting]
  rfl

theorem askedAgain_other (apart : m ≠ n) : (s.askedAgain n).vw.stateOf m = s.vw.stateOf m := by
  unfold State.askedAgain
  split
  next waiting => exact stateOf_put_tagged _ waiting apart
  next => rfl

/-- The ask count of each line of a run rises. -/
def State.askRun (s : State) (n k : Nat) : State := (List.range' n k).foldl State.askedAgain s

theorem askRun_succ (s : State) (n k : Nat) : s.askRun n (k + 1) = (s.askRun n k).askedAgain (n + k) := by
  rw [State.askRun, List.range'_1_concat, List.foldl_append]
  rfl

theorem frame_askRun (s : State) (n k : Nat) : SameBut [.vw] s (s.askRun n k) :=
  SameBut.foldl _ (fun s n => frame_askedAgain s n) _ _

theorem askRun_outside (s : State) (n k : Nat) (outside : m < n ∨ n + k ≤ m) : (s.askRun n k).vw.stateOf m = s.vw.stateOf m := by
  induction k with
  | zero => rfl
  | succ k ih => rw [askRun_succ, askedAgain_other (by omega), ih (by omega)]

theorem askRun_inside (s : State) (n k j : Nat) (inside : j < k) {a st : Nat} {d : Ms}
    (waiting : s.vw.stateOf (n + j) = some (.waiting a d st)) :
    (s.askRun n k).vw.stateOf (n + j) = some (.waiting (a + 1) (s.clock.ms + 2000) st) := by
  induction k with
  | zero => exact absurd inside (Nat.not_lt_zero j)
  | succ k ih =>
    rw [askRun_succ]
    by_cases last : j = k
    · have here := askRun_outside s n k (m := n + k) (Or.inr (Nat.le_refl _))
      rw [last] at waiting ⊢
      rw [askedAgain_waiting (here.trans waiting), (frame_askRun s n k).clock (by decide)]
      exact stateOf_put _ _ _
    · rw [askedAgain_other (by omega), ih (by omega)]

theorem askRun_store (s : State) (n k : Nat) : (s.askRun n k).vw = { s.vw with store := (s.askRun n k).vw.store } := by
  induction k with
  | zero => rfl
  | succ k ih =>
    rw [askRun_succ, State.askedAgain]
    split
    · rw [State.putLine, State.setVw_vw, Viewer.put, ih]
    · exact ih

/-! ## The ASK (R174) -/

section
variable (s) (target first count : Nat)

theorem makeAsk_store : (s.makeAsk target first count).vw.store = s.vw.store := by
  unfold State.makeAsk
  split <;> rfl

theorem makeAsk_vw : (s.makeAsk target first count).vw =
    { s.vw with asks := (s.makeAsk target first count).vw.asks, asksLost := (s.makeAsk target first count).vw.asksLost } := by
  unfold State.makeAsk
  split <;> rfl

variable {s}

theorem makeAsk_joins (calm : s.cu.conflict = false) (room : s.vw.asks.length < 4) :
    (s.makeAsk target first count).vw.asks = s.vw.asks ++ [{ target := target, first := first, count := count, attempts := 0 }]
    ∧ (s.makeAsk target first count).vw.asksLost = s.vw.asksLost := by
  rw [State.makeAsk, if_neg (by simp [calm, room])]
  exact ⟨rfl, rfl⟩

theorem makeAsk_lost (barred : s.cu.conflict = true ∨ 4 ≤ s.vw.asks.length) :
    (s.makeAsk target first count).vw.asks = s.vw.asks
    ∧ (s.makeAsk target first count).vw.asksLost = satSucc s.vw.asksLost := by
  rw [State.makeAsk, if_pos barred]
  exact ⟨rfl, rfl⟩

end

/-! ## GAP_TIMER_EXPIRY (R173) -/

theorem exec_gapTimerExpiry (s : State) (n : Nat) : exec (.gapTimerExpiry n) s = .next (s.gapExpiry n) := rfl

/-- The state with `k` lines from `n` on asked for, and their ASK made or not. -/
def State.runAsked (s : State) (e : Ms) (st n k : Nat) : State := ((s.reachMs e).askRun n k).makeAsk st n k

variable {asks st : Nat} {e : Ms}

theorem frame_runAsked (s : State) (e : Ms) (st n k : Nat) : SameBut [.clock, .lnc, .sp, .vw] s (s.runAsked e st n k) :=
  (frame_reachMs s e).chain ((frame_askRun _ n k).trans (frame_makeAsk _ st n k)) (by decide) (by decide)

theorem runAsked_clock (s : State) (e : Ms) (st n k : Nat) : (s.runAsked e st n k).clock = (s.reachMs e).clock :=
  ((frame_askRun _ n k).trans (frame_makeAsk _ st n k)).clock (by decide)

theorem runAsked_stateOf (s : State) (e : Ms) (st n k m : Nat) :
    (s.runAsked e st n k).vw.stateOf m = ((s.reachMs e).askRun n k).vw.stateOf m :=
  (stateOf_of_store (makeAsk_store _ st n k) m).1

/-- The ASK list as it is met: the expiry and the run leave it alone. -/
theorem runAsked_lists (s : State) (e : Ms) (n k : Nat) : ((s.reachMs e).askRun n k).vw.asks = s.vw.asks
    ∧ ((s.reachMs e).askRun n k).vw.asksLost = s.vw.asksLost ∧ ((s.reachMs e).askRun n k).cu = s.cu := by
  have same := askRun_store (s.reachMs e) n k
  rw [reachMs_vw] at same
  rw [same, (frame_askRun _ n k).cu (by decide), reachMs_cu]
  exact ⟨rfl, rfl, rfl⟩

theorem runAsked_vw (s : State) (e : Ms) (st n k : Nat) : (s.runAsked e st n k).vw =
    { s.vw with store := (s.runAsked e st n k).vw.store, asks := (s.runAsked e st n k).vw.asks,
                asksLost := (s.runAsked e st n k).vw.asksLost } := by
  have same := askRun_store (s.reachMs e) n k
  rw [reachMs_vw] at same
  have made := makeAsk_vw ((s.reachMs e).askRun n k) st n k
  have store := makeAsk_store ((s.reachMs e).askRun n k) st n k
  refine made.trans ((congrArg (fun v : Viewer => { v with
    asks := (s.runAsked e st n k).vw.asks, asksLost := (s.runAsked e st n k).vw.asksLost }) same).trans ?_)
  rw [State.runAsked, store]

theorem gapExpiry_asks (waiting : s.vw.stateOf n = some (.waiting asks e st)) (few : asks < 3) {k : Nat}
    (run : s.vw.runFrom st 8 n = List.range' n k) : s.gapExpiry n = (s.runAsked e st n k).offered := by
  rw [State.gapExpiry, waiting]
  dsimp only
  rw [if_pos few, reachMs_vw, run, List.length_range']
  rfl

theorem gapExpiry_gives_up (waiting : s.vw.stateOf n = some (.waiting asks e st)) (all : 3 ≤ asks) :
    s.gapExpiry n = ((s.reachMs e).loseLine n).compose := by
  rw [State.gapExpiry, waiting]
  exact if_neg (Nat.not_lt.mpr all)

end

end Sys2Proof.Machine

open Sys2Proof Sys2Proof.Machine

/-- Settles O47: below three asks by the run of the line (`runFrom_spec`), whose lines are asked for again (`askRun_inside`) and no other
(`askRun_outside`); after the third the line is LOST. -/
theorem aGapIsAskedForOrLost : Obligations.AGapIsAskedForOrLost := by
  unfold Obligations.AGapIsAskedForOrLost
  intro s n asks e st _ waiting
  refine ⟨fun few k long => ?asked, fun all => ?lost⟩
  case asked =>
    obtain ⟨k', run, most, all, stops⟩ := runFrom_spec s.vw st 8 n
    have same : k = k' := by rw [long, run, List.length_range']
    subst same
    have vw (j : Nat) := runAsked_stateOf s e st n k j
    have before (j : Nat) : (s.reachMs e).vw.stateOf j = s.vw.stateOf j := by rw [reachMs_vw]
    obtain ⟨list, lost, cu⟩ := runAsked_lists s e n k
    have least : 1 ≤ k := by
      by_contra none
      have zero : k = 0 := by omega
      rw [zero] at stops
      exact stops (by decide) ⟨asks, e, few, waiting⟩
    refine ⟨_, (exec_gapTimerExpiry s n).trans (congrArg Host.Outcome.next (gapExpiry_asks waiting few run)),
      (frame_runAsked s e st n k).chain (frame_offered _) (by decide) (by decide), ?_, least, most, fun j inside => ?_,
      fun fewer => stops fewer, fun m outside => ?_, ?_, fun calm room => ?_, fun barred => ?_⟩
    · rw [offered_clock, runAsked_clock]
    · obtain ⟨a, d, below, line⟩ := all j inside
      refine ⟨a, d, below, line, ?_⟩
      rw [offered_vw, offered_clock, runAsked_clock, vw]
      exact askRun_inside _ n k j inside ((before _).trans line)
    · rw [offered_vw, vw, askRun_outside _ _ _ outside, before]
    · rw [offered_vw]
      exact runAsked_vw s e st n k
    · obtain ⟨joins, kept⟩ := makeAsk_joins (s := (s.reachMs e).askRun n k) st n k (by rwa [cu]) (by rwa [list])
      rw [offered_vw]
      exact ⟨joins.trans (by rw [list]), kept.trans lost⟩
    · obtain ⟨kept, counts⟩ := makeAsk_lost (s := (s.reachMs e).askRun n k) st n k (by rwa [cu, list])
      rw [offered_vw]
      exact ⟨kept.trans list, counts.trans (by rw [lost])⟩
  case lost =>
    have reached := frame_reachMs s e
    obtain ⟨lost, count, told⟩ := loseLine_lost (s.reachMs e) n
    have framed : SameBut [.clock, .lnc, .sp, .vw, .latches] s ((s.reachMs e).loseLine n) :=
      reached.chain (frame_loseLine _ n) (by decide) (by decide)
    refine ⟨_, (exec_gapTimerExpiry s n).trans (congrArg Host.Outcome.next (gapExpiry_gives_up waiting all)),
      framed.chain (frame_compose _) (by decide) (by decide), ?_, ?_, ?_, ?_, ?_⟩
    · rw [compose_clock, (frame_loseLine _ n).clock (by decide)]
    · rw [compose_vw, lost]
    · rw [compose_vw, count, reachMs_vw]
    · rw [compose_vw, State.loseLine, latch_vw, State.setVw_vw, reachMs_vw]
      rfl
    · rw [Latched, compose_lcp]
      exact told.after (reached.noLatch (ps := []) (by decide)) (by decide) (by decide)
end

section
/-! SUPPORT. The rows of the panes, the dirty rows of a composition, and PANE; with them O58. -/

namespace Sys2Proof.Machine

/-! ## Rows of the record store (R167, R177) -/

section
variable {v : Viewer} {k i : Nat}

theorem storeRows_length (v : Viewer) (k : Nat) (bottom : Option Nat) : (v.storeRows k bottom).length = k := by
  cases bottom <;> simp [Viewer.storeRows]

theorem storeRows_blank (inside : i < k) : (v.storeRows k none)[i]? = some .blank := by
  simp [Viewer.storeRows, inside]

/-- The row `i` of `k` is `k - 1 - i` above the bottom one. -/
theorem storeRows_get (inside : i < k) (b : Nat) : (v.storeRows k (some b))[i]? = some (v.storeRow (b - (k - 1 - i))) := by
  have here : k - 1 - i < k := by omega
  rw [Viewer.storeRows, List.getElem?_reverse (by simpa using inside)]
  simp [here]

/-- There is no line 0: the row of a number below 1 is blank (R167). -/
theorem storeRow_below (v : Viewer) {b d : Nat} (below : b ≤ d) : v.storeRow (b - d) = .blank := by
  rw [Nat.sub_eq_zero_of_le below]
  rfl

end

/-! ## Open lines and ring lines (R177, R180) -/

/-- The row of an open line that is the `n`-th from 1, or of none where the lines bear no numbers. -/
theorem openRows_get (series : Series) (first i : Nat) (lines : List (List Byte)) (text : List Byte) (line : lines[i]? = some text) :
    (openRows series first lines)[i]? = some (
      if first = 0 then .openEnd text
      else match series with
        | .record => .openRecord (first + i) text
        | .draft => .draft (first + i) true text) := by
  induction lines generalizing first i with
  | nil => cases line
  | cons t rest ih =>
    cases i with
    | zero =>
      cases line
      rfl
    | succ i =>
      have later := ih (if first = 0 then 0 else first + 1) i line
      by_cases unnumbered : first = 0
      · simpa [openRows, unnumbered] using later
      · simpa [openRows, unnumbered, Nat.add_comm 1, Nat.add_assoc] using later

theorem lastOf_length {α : Type} (r : Nat) (xs : List α) : (lastOf r xs).length = min r xs.length := by
  rw [lastOf, List.length_drop]
  omega

theorem withTail_length (r : Nat) (tail : List RowShows) (above : Nat → List RowShows) (sized : ∀ k, (above k).length = k) :
    (withTail r tail above).length = r := by
  rw [withTail, List.length_append, sized, lastOf_length]
  omega

theorem ringRows_length (b : Tb) (k skip : Nat) : (b.ringRows k skip).length = k := by
  simp only [Tb.ringRows, List.length_append, List.length_replicate, lastOf_length, List.length_map, List.length_take]
  omega

/-- The row `i` of `k` ring rows shows the ring line that is `k - 1 - i` older than the bottom one. -/
theorem ringRows_get (b : Tb) {k skip i : Nat} (inside : i < k) : (b.ringRows k skip)[i]? = some (
    if b.ring.length ≤ skip + (k - 1 - i) then .blank
    else match b.ring[b.ring.length - 1 - skip - (k - 1 - i)]? with
      | some l => l.row
      | none => .blank) := by
  have long : (lastOf k ((b.ring.take (b.ring.length - skip)).map CommittedLine.row)).length = min k (b.ring.length - skip) := by
    rw [lastOf_length, List.length_map, List.length_take]
    omega
  unfold Tb.ringRows
  dsimp only
  rw [long]
  by_cases past : b.ring.length ≤ skip + (k - 1 - i)
  · rw [if_pos past, List.getElem?_append_left (by rw [List.length_replicate]; omega), List.getElem?_replicate, if_pos (by omega)]
  · have place : i - (k - min k (b.ring.length - skip)) + (b.ring.length - skip - k) = b.ring.length - 1 - skip - (k - 1 - i) := by
      omega
    have known : b.ring.length - 1 - skip - (k - 1 - i) < b.ring.length := by omega
    have taken : b.ring.length - 1 - skip - (k - 1 - i) < b.ring.length - skip := by omega
    rw [if_neg past, List.getElem?_append_right (by rw [List.length_replicate]; omega), List.length_replicate, lastOf,
      List.getElem?_drop, List.length_map, List.length_take, Nat.min_eq_left (Nat.sub_le _ _), Nat.add_comm, place,
      List.getElem?_map, List.getElem?_take_of_lt taken, List.getElem?_eq_getElem known]
    rfl

/-! ## The rows of a pane (R176 to R180) -/

section
variable {s : State} {p : Pane}

theorem autoRows_length (s : State) (p : Pane) : (s.autoRows p).length = p.rows := by
  have stored (b : Option Nat) : (s.vw.storeRows p.rows b).length = p.rows := storeRows_length _ _ _
  have tailed (tail : List RowShows) (b : Option Nat) : (withTail p.rows tail fun k => s.vw.storeRows k b).length = p.rows :=
    withTail_length _ _ _ fun k => storeRows_length _ _ _
  unfold State.autoRows
  split
  · split
    next empty => exact empty.symm
    next any =>
      rw [List.length_cons, storeRows_length]
      omega
  · split
    · split
      · exact tailed _ _
      · split
        · split
          · exact tailed _ _
          · exact stored _
        · exact stored _
    · exact stored _

theorem selfRows_length (s : State) (p : Pane) : (s.selfRows p).length = p.rows := by
  unfold State.selfRows
  split
  · split
    · exact withTail_length _ _ _ fun k => ringRows_length _ _ _
    · exact ringRows_length _ _ _
  · exact List.length_replicate

theorem stationRows_length (s : State) (p : Pane) (n : Nat) : (s.stationRows p n).length = p.rows := by
  unfold State.stationRows
  split
  · exact withTail_length _ _ _ fun k => List.length_replicate
  · split
    next empty => exact empty.symm
    next any =>
      rw [List.length_cons, List.length_replicate]
      omega

theorem paneRows_length (s : State) (p : Pane) : (s.paneRows p).length = p.rows := by
  unfold State.paneRows
  split
  · exact autoRows_length s p
  · exact selfRows_length s p
  · split
    · exact selfRows_length s p
    · exact stationRows_length s p _

section
variable (auto : p.source = .auto)
include auto

theorem paneRows_auto : s.paneRows p = s.autoRows p := by rw [State.paneRows, auto]

/-- With no holder followed the pane shows a status over store lines (R179). -/
theorem paneRows_unfollowed (unfollowed : s.vw.followed = none) (any : 0 < p.rows) : s.paneRows p =
    .status (bytesOf (if s.cu.recordClosed = true then "OFF RECORD" else "NO RECORD"))
      :: s.vw.storeRows (p.rows - 1) (s.vw.reachLine.map fun n => n - p.offset) := by
  rw [paneRows_auto auto, State.autoRows, unfollowed]
  exact if_neg (Nat.ne_of_gt any)

/-- At an offset the pane shows store lines alone (R178). -/
theorem paneRows_offset (followed : s.vw.followed ≠ none) (offset : 0 < p.offset) :
    s.paneRows p = s.vw.storeRows p.rows (s.vw.reachLine.map fun n => n - p.offset) := by
  obtain ⟨f, follows⟩ := Option.ne_none_iff_exists'.mp followed
  rw [paneRows_auto auto, State.autoRows, follows]
  exact if_neg (Nat.ne_of_gt offset)

theorem paneRows_follows_self (self : s.vw.followed = some .self) (bottom : p.offset = 0) : s.paneRows p =
    withTail p.rows s.tb.openRows fun k => s.vw.storeRows k s.vw.reachLine := by
  rw [paneRows_auto auto, State.autoRows, self]
  exact if_pos bottom

variable {n : Nat} (follows : s.vw.followed = some (.station n)) (bottom : p.offset = 0)
include follows bottom

theorem paneRows_follows_record {t : TailImage} (image : s.tailOf n = some t) (record : t.series = .record) : s.paneRows p =
    withTail p.rows (openRows .record t.firstOpen t.lines) fun k => s.vw.storeRows k s.vw.reachLine := by
  simp only [paneRows_auto auto, State.autoRows, follows, bottom, image, record, TailImage.openRows, if_true]

theorem paneRows_follows_none (draft : ∀ t, s.tailOf n = some t → t.series = .draft) :
    s.paneRows p = s.vw.storeRows p.rows s.vw.reachLine := by
  cases image : s.tailOf n with
  | none => simp only [paneRows_auto auto, State.autoRows, follows, bottom, image, if_true]
  | some t =>
    have other : t.series ≠ .record := by
      rw [draft t image]
      exact Series.noConfusion
    simp only [paneRows_auto auto, State.autoRows, follows, bottom, image, if_neg other, if_true]

end

section
variable {n : Nat} (station : p.source = .station n) (other : n ≠ s.own)
include station other

theorem paneRows_station : s.paneRows p = s.stationRows p n := by
  rw [State.paneRows, station]
  exact if_neg other

theorem paneRows_image {t : TailImage} (image : s.tailOf n = some t) : s.paneRows p =
    withTail p.rows (openRows t.series t.firstOpen t.lines) fun k => List.replicate k .blank := by
  rw [paneRows_station station other, State.stationRows, image]
  rfl

theorem paneRows_no_image (absent : s.tailOf n = none) (any : 0 < p.rows) : s.paneRows p =
    .status (bytesOf "STATION " ++ decimal n ++ bytesOf " NO TAIL") :: List.replicate (p.rows - 1) .blank := by
  rw [paneRows_station station other, State.stationRows, absent]
  exact if_neg (Nat.ne_of_gt any)

end

section
variable (self : p.source = .self ∨ p.source = .station s.own)
include self

theorem paneRows_self : s.paneRows p = s.selfRows p := by
  obtain here | here := self
  · rw [State.paneRows, here]
  · rw [State.paneRows, here]
    exact if_pos rfl

/-- At a node that is no writer a SELF pane shows nothing (R176). -/
theorem paneRows_no_writer (reader : s.cfg.writer = false) : s.paneRows p = List.replicate p.rows .blank := by
  rw [paneRows_self self, State.selfRows, if_neg (by simp [reader])]

theorem paneRows_self_open (writer : s.cfg.writer = true) (bottom : p.offset = 0) :
    s.paneRows p = withTail p.rows s.tb.openRows fun k => s.tb.ringRows k 0 := by
  rw [paneRows_self self, State.selfRows, if_pos writer, if_pos bottom]

theorem paneRows_self_ring (writer : s.cfg.writer = true) (offset : 0 < p.offset) : s.paneRows p = s.tb.ringRows p.rows p.offset := by
  rw [paneRows_self self, State.selfRows, if_pos writer, if_neg (Nat.ne_of_gt offset)]

end

/-- The rows are told by the configuration, the roster and the three blocks they show. -/
theorem paneImages_congr {s t : State} (cfg : t.cfg = s.cfg) (cu : t.cu = s.cu) (tb : t.tb = s.tb) (roster : t.roster = s.roster)
    (vw : t.vw = s.vw) (p : Option Pane) : t.paneImages p = s.paneImages p := by
  have own : t.own = s.own := congrArg Settings.station cfg
  have tailOf (n : Nat) : t.tailOf n = s.tailOf n := by rw [State.tailOf, roster, vw]; rfl
  have rows (q : Pane) : t.paneRows q = s.paneRows q := by
    have auto : t.autoRows q = s.autoRows q := by simp only [State.autoRows, tailOf, cu, tb, vw]
    have self : t.selfRows q = s.selfRows q := by simp only [State.selfRows, cfg, tb]
    have station (n : Nat) : t.stationRows q n = s.stationRows q n := by simp only [State.stationRows, tailOf]
    simp only [State.paneRows, auto, self, station, own]
  cases p with
  | none => rfl
  | some q => simp only [State.paneImages, rows]

end

/-! ## The rows a composition makes dirty (R177, R181) -/

/-- A row joins the dirty set just where its image is another than the one held. -/
theorem mem_markChanged (xs ys : List (List Byte)) (k r : Nat) (d : List Nat) : r ∈ markChanged k xs ys d ↔
    r ∈ d ∨ (k ≤ r ∧ r - k < xs.length ∧ xs[r - k]? ≠ ys[r - k]?) := by
  induction xs generalizing k ys d with
  | nil => simp [markChanged]
  | cons x xs ih =>
    have marked : r ∈ (if ys.head? = some x then d else markDirty k d) ↔ r ∈ d ∨ (r = k ∧ ys.head? ≠ some x) := by
      by_cases same : ys.head? = some x
      · simp [same]
      · simp [same, mem_markDirty, or_comm]
    rw [markChanged, ih, marked, or_assoc]
    refine or_congr_right ?_
    by_cases here : r = k
    · have head : ys.head? = ys[0]? := List.head?_eq_getElem?
      subst here
      simp [head, eq_comm]
    · by_cases later : k + 1 ≤ r
      · have next : r - k = (r - (k + 1)) + 1 := by omega
        have above : k ≤ r := by omega
        simp [here, later, above, next]
      · have below : ¬ k ≤ r := by omega
        simp [here, later, below]

theorem compose_sp {s : State} (viewing : s.viewing = true) : s.compose.sp =
    { s.sp with rows := s.screenImages, dirty := markChanged 0 s.screenImages s.sp.rows s.sp.dirty } := by
  rw [State.compose, if_pos viewing]
  rfl

theorem compose_off {s : State} (off : s.viewing = false) : s.compose = s := if_neg (by simp [off])

/-! ## PANE (R175, R194) -/

theorem pinned_iff (v : Viewer) (n : Nat) :
    v.pinned n = true ↔ ∃ p, (v.paneA = some p ∨ v.paneB = some p) ∧ p.source = .station n := by
  have pins (q : Option Pane) : Pane.pins q n = true ↔ ∃ p, q = some p ∧ p.source = .station n := by
    cases q <;> simp [Pane.pins]
  rw [Viewer.pinned, Bool.or_eq_true, pins, pins, ← exists_or]
  simp only [or_and_right]

section
variable {s : State} {i : Nat}

theorem tail_eq (v : Viewer) (inside : i < 16) : v.tail i = v.tails[i] := by simp [Viewer.tail, inside]
theorem slot_eq (r : Roster) (inside : i < 16) : r.slot i = r.slots[i] := by simp [Roster.slot, inside]

theorem releasePins_tail (inside : i < 16) {x : TailImage} {q : RosterSlot} (image : s.vw.tail i = some x)
    (held : s.roster.slot i = some q) :
    s.releasePins.vw.tail i = if x.series = .draft ∧ s.vw.pinned q.station = false then none else some x := by
  rw [tail_eq _ inside] at image
  rw [slot_eq _ inside] at held
  simp only [tail_eq _ inside, State.releasePins, State.setVw_vw, Vector.getElem_ofFn, Fin.getElem_fin, image, held]

theorem releasePins_stays (inside : i < 16) (free : s.vw.tail i = none ∨ s.roster.slot i = none) :
    s.releasePins.vw.tail i = s.vw.tail i := by
  rw [tail_eq _ inside, slot_eq _ inside] at free
  simp only [tail_eq _ inside, State.releasePins, State.setVw_vw, Vector.getElem_ofFn, Fin.getElem_fin]
  split
  next x q image held => simp [image, held] at free
  next => rfl

end

/-- The Viewer with the settings of a PANE in the pane named. -/
def Viewer.withPane (v : Viewer) (isB : Bool) (src : PaneSource) (off : Nat) (pfx : Bool) : Viewer :=
  if isB then { v with paneB := Pane.change v.paneB src off pfx } else { v with paneA := Pane.change v.paneA src off pfx }

/-- The state in which a PANE has been set and the pins released. -/
def State.paneSet (s : State) (isB : Bool) (src : PaneSource) (off : Nat) (pfx : Bool) : State :=
  (s.setVw (s.vw.withPane isB src off pfx)).releasePins

section
variable (s : State) (isB : Bool) (src : PaneSource) (off : Nat) (pfx : Bool)

theorem exec_pane (ps : List Byte) : exec (.pane ps) s = .next (s.paneCommand ps) := rfl

theorem frame_paneSet : SameBut [.vw] s (s.paneSet isB src off pfx) := (frame_setVw _ _).trans (frame_releasePins _)

theorem withPane_eq (v : Viewer) : v.withPane isB src off pfx =
    { v with
      paneA := if isB = true then v.paneA else v.paneA.map fun q => { q with source := src, offset := off, pfx := pfx },
      paneB := if isB = true then v.paneB.map fun q => { q with source := src, offset := off, pfx := pfx } else v.paneB } := by
  cases isB <;> rfl

theorem paneSet_vw : (s.paneSet isB src off pfx).vw =
    { s.vw.withPane isB src off pfx with tails := (s.paneSet isB src off pfx).vw.tails } := rfl

theorem withPane_tail (v : Viewer) (i : Nat) : (v.withPane isB src off pfx).tail i = v.tail i := by
  rw [withPane_eq]
  rfl

/-- An image stays but for a DRAFT one that no pane pins any more (R175). -/
theorem paneSet_tail {i : Nat} (inside : i < 16) :
    (∀ x q, s.vw.tail i = some x → s.roster.slot i = some q → (s.paneSet isB src off pfx).vw.tail i =
      if x.series = .draft ∧ (s.paneSet isB src off pfx).vw.pinned q.station = false then none else some x)
    ∧ ((s.vw.tail i = none ∨ s.roster.slot i = none) → (s.paneSet isB src off pfx).vw.tail i = s.vw.tail i) := by
  have before := withPane_tail isB src off pfx s.vw i
  refine ⟨fun x q image held => ?_, fun free => ?_⟩
  · exact releasePins_tail (s := s.setVw (s.vw.withPane isB src off pfx)) inside (before.trans image) held
  · exact (releasePins_stays (s := s.setVw (s.vw.withPane isB src off pfx)) inside (by rwa [State.setVw_vw, before])).trans before

end

/-- At a viewer the panes are composed anew, and every row of another image is dirty (R177, R181). -/
theorem composed_rows {s : State} (viewing : s.viewing = true) :
    s.compose.sp.rows = s.paneImages s.vw.paneA ++ s.paneImages s.vw.paneB
    ∧ ∀ r, r ∈ s.compose.sp.dirty ↔
      r ∈ s.sp.dirty ∨ (r < s.compose.sp.rows.length ∧ s.compose.sp.rows[r]? ≠ s.sp.rows[r]?) := by
  rw [compose_sp viewing]
  refine ⟨rfl, fun r => ?_⟩
  have changed := mem_markChanged s.screenImages s.sp.rows 0 r s.sp.dirty
  simpa only [Nat.zero_le, true_and, Nat.sub_zero] using changed

end Sys2Proof.Machine

open Sys2Proof Sys2Proof.Machine

/-- Settles O58: PANE sets its pane, releases the pins (`paneSet_tail`) and composes (`composed_rows`); the rows of a pane by its source
(`paneRows_unfollowed` … `paneRows_self_ring`), of the store, the open lines and the ring by their place (`storeRows_get`,
`openRows_get`, `ringRows_get`). -/
theorem aPaneTakesItsThreeSettings : Obligations.APaneTakesItsThreeSettings := by
  unfold Obligations.APaneTakesItsThreeSettings
  refine ⟨fun ps s idle online short => ⟨fun isB src off pfx given => ?set, fun bad => ?range⟩, fun s p => ?rows,
    fun v k i inside => ?store, openRows_get, fun b k skip i inside => ?ring, ?images⟩
  case range => exact ⟨_, exec_pane s ps, takeCommand_range State.setPane idle short (by rw [online]; rfl) bad⟩
  case set =>
    have taken : s.paneCommand ps = (((s.taking 10 ps).paneSet isB src off pfx).compose).reply .ok [] :=
      takeCommand_checked State.setPane idle short (by rw [online]; rfl) given
    have set := frame_paneSet (s.taking 10 ps) isB src off pfx
    generalize after : (s.taking 10 ps).paneSet isB src off pfx = u at taken set
    have cfg : u.cfg = s.cfg := (set.cfg (by decide)).trans rfl
    have sp : u.sp = s.sp := (set.sp (by decide)).trans rfl
    have viewing : u.viewing = s.cfg.viewer := by
      rw [State.viewing, set.isOnline (by decide), cfg]
      exact (congrArg (· && s.cfg.viewer) online).trans (Bool.true_and _)
    have vw : ((u.compose).reply .ok []).vw = u.vw := compose_vw u
    have images (p : Option Pane) : ((u.compose).reply .ok []).paneImages p = u.paneImages p :=
      paneImages_congr (compose_cfg u) (compose_cu u) (compose_tb u) (compose_roster u) vw p
    have inFlight : InFlight ((u.compose).reply .ok []) 10 ps := by
      refine (inFlight_taking s 10 short).keep (Eq.trans ?_ (congrArg Lcp.inFlight (set.lcp (by decide) (by decide))))
      have same : u.compose.lcp.inFlight = u.lcp.inFlight := congrArg Lcp.inFlight (compose_lcp u)
      exact same
    have kept : u.vw = { s.vw.withPane isB src off pfx with tails := u.vw.tails } := by
      rw [← after]
      exact paneSet_vw _ _ _ _ _
    refine ⟨_, (exec_pane s ps).trans (congrArg Host.Outcome.next taken), ?_, inFlight, answers_reply _ _ _, ?_, ?_, ?_,
      fun i inside => ?_, fun n => ?_, ?_, ?_, fun off => ?_, fun viewer => ?_⟩
    · have frame := frame_paneCommand s ps
      rwa [taken] at frame
    · rw [vw, kept, withPane_eq]
    · rw [vw, kept, withPane_eq]
    · rw [vw, kept, withPane_eq]
    · rw [vw, ← after]
      exact paneSet_tail (s.taking 10 ps) isB src off pfx inside
    · rw [vw]
      exact pinned_iff _ n
    · exact (compose_send u).trans (by rw [sp])
    · exact (compose_busyPin u).trans (by rw [sp])
    · have same : (u.compose).sp = s.sp := by rw [compose_off (viewing.trans off), sp]
      exact same
    · have composed := composed_rows (viewing.trans viewer)
      rw [sp] at composed
      rw [vw, images, images]
      exact composed
  case rows =>
    refine ⟨rfl, rfl, paneRows_length s p, paneRows_unfollowed, paneRows_offset, fun auto self bottom ls shown => ?_,
      fun n auto follows bottom => ⟨fun t ls image record shown => ?_, paneRows_follows_none auto follows bottom⟩,
      fun n station other => ⟨fun t ls image shown => ?_, paneRows_no_image station other⟩,
      fun self => ⟨fun reader => ?_, fun writer bottom ls shown => ?_, paneRows_self_ring self⟩⟩
    · rw [paneRows_follows_self auto self bottom, shown]
      rfl
    · rw [paneRows_follows_record auto follows bottom image record, shown]
      rfl
    · rw [paneRows_image station other image, shown]
      rfl
    · rw [paneRows_no_writer self reader, List.map_replicate]
      rfl
    · rw [paneRows_self_open self writer bottom, shown]
      rfl
  case store =>
    refine ⟨storeRows_blank inside, fun b => ?_⟩
    rw [storeRows_get inside]
    split
    next below => rw [storeRow_below v below]
    next above => exact congrArg some (if_neg (Nat.sub_ne_zero_of_lt (Nat.lt_of_not_le above)))
  case ring => exact ringRows_get b inside
  case images =>
    rintro n isOpen text page d rfl rfl
    exact ⟨rfl, rfl, rfl, rfl, rfl, rfl, rfl, rfl, rfl, rfl, rfl, rfl, rfl, rfl, rfl⟩
end

section
/-! SUPPORT. An event latch taken, the latches that ATTN reads, and the latches after a full reset; with them O16 and O17. -/

namespace Sys2Proof.Machine

/-! ## A latch takes an event (R198) -/

theorem latchWith_clear (e : Event) : latchWith e none = { event := e, count := 1 } := rfl

/-- The first detail stays, and the count stops at 255. -/
theorem latchWith_pending (e : Event) {x : Latch} (bounded : x.count ≤ 255) :
    latchWith e (some x) = { event := x.event, count := min 255 (x.count + 1) } := by
  have counted : (if x.count < 255 then x.count + 1 else x.count) = min 255 (x.count + 1) := by
    split <;> omega
  exact congrArg (Latch.mk x.event) counted

theorem latch_mask (s : State) (e : Event) : (s.latch e).lcp.mask = s.lcp.mask := rfl

/-! ## ATTN (R200) -/

theorem mem_offered_iff {l : Lcp} {p : Nat} :
    p ∈ l.offered ↔ (1 ≤ p ∧ p ≤ 16) ∧ l.latch p ≠ none ∧ l.mask.getLsbD (p - 1) = true := by
  rw [Lcp.offered, List.mem_filter, List.mem_range'_1, Bool.and_eq_true, Option.isSome_iff_ne_none, maskEnables, Nat.lt_succ_iff]

theorem attn_iff_offered {l : Lcp} : l.attn = true ↔ ∃ p, p ∈ l.offered := by
  rw [Lcp.attn, Bool.not_eq_true', List.isEmpty_eq_false_iff_exists_mem]

/-- ATTN depends on the latches and their enables alone. -/
theorem attn_iff_pendingEnabled {l : Lcp} :
    l.attn = true ↔ ∃ p, 1 ≤ p ∧ p ≤ 16 ∧ l.latch p ≠ none ∧ l.mask.getLsbD (p - 1) = true := by
  simp only [attn_iff_offered, mem_offered_iff, and_assoc]

/-- With every latch clear ATTN is inactive, whatever the mask. -/
theorem attn_of_noLatch {l : Lcp} (clear : ∀ p, l.latch p = none) : l.attn = false := by
  rw [Bool.eq_false_iff, Ne, attn_iff_pendingEnabled]
  rintro ⟨p, -, -, pending, -⟩
  exact pending (clear p)

/-! ## The latches after a full reset -/

theorem latch_reset (p : Nat) : Lcp.reset.latch p = none := by
  rw [Lcp.latch, Lcp.reset, Vector.getElem?_replicate]
  split <;> rfl

theorem fullReset_lcp (s : State) (src : ResetSource) : (s.fullReset src).lcp = Lcp.reset := rfl

theorem exec_fullReset (src : ResetSource) (s : State) : exec (.fullReset src) s = .next (s.fullReset src) := rfl

end Sys2Proof.Machine

open Sys2Proof Sys2Proof.Machine

/-- Settles O16: the latch of the event is `latchWith` on what it held (`latched_latch`); no other latch is touched (`latches_latch`). -/
theorem aLatchKeepsTheFirstDetail : Obligations.ALatchKeepsTheFirstDetail := by
  unfold Obligations.ALatchKeepsTheFirstDetail
  intro s e
  have taken : (s.latch e).lcp.latch e.priority = some (latchWith e (s.lcp.latch e.priority)) := latched_latch s e
  refine ⟨priority_pos e, priority_le e, fun clear => ?_, fun x pending bounded => ?_, fun p low _ other => ?_, latch_mask s e,
    frame_latch s e⟩
  · rw [taken, clear, latchWith_clear]
  · rw [taken, pending, latchWith_pending e bounded]
  · exact latches_latch s e p low (List.mem_singleton.not.mpr other)

/-- Settles O17: ATTN is active where the list of offered events has a member (`attn_iff_pendingEnabled`); a full reset clears every
latch (`latch_reset`). -/
theorem attnShowsAPendingEnabledEvent : Obligations.AttnShowsAPendingEnabledEvent := by
  unfold Obligations.AttnShowsAPendingEnabledEvent
  refine ⟨fun s => attn_iff_pendingEnabled, fun src s => ?_⟩
  have clear (p : Nat) : (s.fullReset src).lcp.latch p = none := by rw [fullReset_lcp, latch_reset]
  exact ⟨_, exec_fullReset src s, attn_of_noLatch clear, clear⟩
end

section
/-! SUPPORT. Transactions at the host port: a command taken, refused or discarded, a transaction cut short, and a response read; with
them O49 and O50. -/

namespace Sys2Proof.Machine

/-! ## Every command transaction is a take (R184) -/

/-- A row that takes a host command is the take of its code and parameters, and only what it then runs is its own. -/
theorem exec_hostCommand {c : Instr} {code : Byte} {ps : List Byte} (host : c.hostCommand = some (code, ps)) :
    ∃ run : State → State, ∀ s, exec c s = .next (s.takeCommand code ps run) := by
  cases c with
  | unknownCommand | configure | load | readDict | go | restart | define | forget | pane | readStatus | readRoster | readEvent | setMask
  | flushCacheAll | flushCacheLayer | flushCacheStroke | flushCacheStrokeLayer
  | custodyClaim | custodyRelease | custodyEnterShadow | custodyLeaveShadow | custodyHold | custodyUnhold
  | readLinesAuto | readLinesPeek | readNotesAuto | readNotesPeek =>
    cases host
    exact ⟨_, fun _ => rfl⟩
  | _ => cases host

theorem exec_unknownCommand (code : Byte) (ps : List Byte) (s : State) :
    exec (.unknownCommand code ps) s = .next (s.takeCommand code ps fun t => t.reply .range []) := rfl
theorem exec_commandTakeBusy (code : Byte) (ps : List Byte) (s : State) :
    exec (.commandTakeBusy code ps) s = .next s.commandTakeBusy := rfl
theorem exec_shortCommandTransaction (sent : List Byte) (s : State) :
    exec (.shortCommandTransaction sent) s = .next (s.shortCommand sent) := rfl
theorem exec_responseRead (n : Nat) (s : State) : exec (.responseRead n) s = .next (s.responseRead n) := rfl

section
variable {s : State} {code : Byte} {ps : List Byte}

/-! ## A port with a command in flight discards the transaction (R184) -/

theorem takeBytes_eq (l : Lcp) : l.takeBytes = [l.status, if l.inFlight.isSome then 2 else 1] := rfl

theorem takeBytes_busy (busy : s.lcp.inFlight.isSome = true) : s.lcp.takeBytes = [s.lcp.status, 2] := by
  rw [takeBytes_eq, if_pos busy]

theorem takeCommand_busy (run : State → State) (busy : s.lcp.inFlight.isSome = true) :
    s.takeCommand code ps run = s.give [s.lcp.status, 2] := by
  rw [State.takeCommand, if_pos busy, takeBytes_busy busy]

theorem commandTakeBusy_busy (busy : s.lcp.inFlight.isSome = true) : s.commandTakeBusy = s.give [s.lcp.status, 2] := by
  rw [State.commandTakeBusy, if_pos busy, takeBytes_busy busy]

/-! ## A transaction cut short (R184) -/

theorem shortCommand_lcp (s : State) (sent : List Byte) :
    (s.shortCommand sent).lcp =
      { s.lcp with given := [s.lcp.status, if s.lcp.inFlight.isSome then 2 else 1].take sent.length } := rfl

/-! ## RESPONSE_READ (R185) -/

/-- With no response READY the status alone is given. -/
theorem responseRead_none {n : Nat} (clocked : 1 ≤ n) (notReady : s.lcp.response = none) :
    s.responseRead n = s.give [s.lcp.status] := by
  have whole : [s.lcp.status].take n = [s.lcp.status] := List.take_of_length_le clocked
  rw [State.responseRead, notReady, whole]

/-- A READY response that is not read to its end stays, and its command stays in flight. -/
theorem responseRead_part {n : Nat} {r : Response} (ready : s.lcp.response = some r)
    (short : n < (s.lcp.status :: r.bytes).length) : s.responseRead n = s.give ((s.lcp.status :: r.bytes).take n) := by
  rw [List.length_cons, Nat.add_comm] at short
  rw [State.responseRead, ready]
  exact if_neg (Nat.not_le.mpr short)

/-- A READY response read to its end is given up, and its command is in flight no longer. -/
theorem responseRead_whole {n : Nat} {r : Response} (ready : s.lcp.response = some r)
    (whole : (s.lcp.status :: r.bytes).length ≤ n) :
    s.responseRead n = s.setLcp { s.lcp with given := s.lcp.status :: r.bytes, inFlight := none, response := none } := by
  have all : (s.lcp.status :: r.bytes).take n = s.lcp.status :: r.bytes := List.take_of_length_le whole
  rw [List.length_cons, Nat.add_comm] at whole
  rw [State.responseRead, ready]
  dsimp only
  rw [if_pos whole, all]
  rfl

/-! ## Commands taken and refused (R184, R186) -/

theorem takeCommand_full (run : State → State) (idle : s.lcp.inFlight = none) (long : 264 < ps.length) :
    OnlyAnswers s (s.takeCommand code ps run) code ps .full := by
  have free : ¬ s.lcp.inFlight.isSome = true := by simp [idle]
  have tooMany : maxParams < ps.length := long
  rw [OnlyAnswers, State.takeCommand, if_neg free, if_pos tooMany]

theorem takeCommand_badState (run : State → State) (idle : s.lcp.inFlight = none) (short : ps.length ≤ 264)
    (barred : takenIn code s.online = false) : OnlyAnswers s (s.takeCommand code ps run) code ps .badState := by
  have free : ¬ s.lcp.inFlight.isSome = true := by simp [idle]
  have fits : ¬ maxParams < ps.length := Nat.not_lt.mpr short
  have notTaken : ¬ takenIn code s.online = true := Bool.eq_false_iff.mp barred
  rw [OnlyAnswers, State.takeCommand, if_neg free, if_neg fits, if_neg notTaken]

/-- The commands of START alone are barred ONLINE, those of ONLINE alone in START (the table of R186). -/
theorem takenIn_wrongState {online : Bool} (wrong : (online = true ∧ (code = 1 ∨ code = 2 ∨ code = 4))
    ∨ (online = false ∧ (code = 6 ∨ code = 7 ∨ code = 8 ∨ code = 9 ∨ code = 10))) : takenIn code online = false := by
  obtain ⟨rfl, rfl | rfl | rfl⟩ | ⟨rfl, rfl | rfl | rfl | rfl | rfl⟩ := wrong <;> rfl

/-- The codes a transaction that names no command can have: above all commands, or a command's whose first byte selects its row. -/
theorem code_of_unnamed (noName : unnamed code ps = true) :
    16 < code.toNat ∨ (code = 8 ∨ code = 9) ∨ code = 11 ∨ code = 12 := by
  simp only [unnamed, Bool.or_eq_true, Bool.and_eq_true, decide_eq_true_eq] at noName
  obtain ((above | ⟨flush, -⟩) | ⟨custody, -⟩) | ⟨reading, -⟩ := noName
  · exact .inl above
  · exact .inr (.inl (.inl flush))
  · exact .inr (.inl (.inr custody))
  · exact .inr (.inr reading)

/-- A code above 16 is taken in both node states. -/
theorem takenIn_above {online : Bool} (above : 16 < code.toNat) : takenIn code online = true := by
  have other (k : Byte) (named : k.toNat ≤ 16) : code ≠ k := by
    rintro rfl
    omega
  cases online with
  | true =>
    simp only [takenIn, if_true, Bool.and_eq_true, decide_eq_true_eq]
    exact ⟨⟨other 1 (by decide), other 2 (by decide)⟩, other 4 (by decide)⟩
  | false =>
    have past : ¬ code.toNat ≤ 10 := by omega
    simp [takenIn, past]

theorem takenIn_unnamed {online : Bool} (noName : unnamed code ps = true) (state : online = true ∨ (code ≠ 8 ∧ code ≠ 9)) :
    takenIn code online = true := by
  obtain above | onlineOnly | reading := code_of_unnamed noName
  · exact takenIn_above above
  · obtain rfl | other := state
    · obtain rfl | rfl := onlineOnly <;> rfl
    · exact absurd onlineOnly (not_or.mpr other)
  · refine takenIn_both ?_ online
    obtain rfl | rfl := reading <;> decide

end

end Sys2Proof.Machine

open Sys2Proof Sys2Proof.Machine

/-- Settles O49: every command transaction is a take (`exec_hostCommand`), which a busy port discards; a response is given up only when
all of it has been clocked out (`responseRead_part`, `responseRead_whole`). -/
theorem transactionsGiveWhatThePortHolds : Obligations.TransactionsGiveWhatThePortHolds := by
  unfold Obligations.TransactionsGiveWhatThePortHolds
  refine ⟨⟨fun c x s host busy => ?command, fun code ps s busy => ?takeBusy, fun sent s _ => ?short⟩,
    fun n s clocked => ⟨fun notReady => ?notReady, ?ready⟩⟩
  case command =>
    obtain ⟨run, takes⟩ := exec_hostCommand host
    exact ⟨_, takes s, takeCommand_busy run busy⟩
  case takeBusy => exact ⟨_, exec_commandTakeBusy code ps s, commandTakeBusy_busy busy⟩
  case short => exact ⟨_, exec_shortCommandTransaction sent s, frame_shortCommand s sent, shortCommand_lcp s sent⟩
  case notReady =>
    have read := responseRead_none clocked notReady
    exact ⟨_, (exec_responseRead n s).trans (congrArg Host.Outcome.next read), frame_give s _, rfl⟩
  case ready =>
    rintro r all ready rfl
    refine ⟨fun part => ?_, fun whole => ?_⟩
    · have read := responseRead_part ready part
      exact ⟨_, (exec_responseRead n s).trans (congrArg Host.Outcome.next read), frame_give s _, rfl⟩
    · have read := responseRead_whole ready whole
      have frame := frame_responseRead s n
      rw [read] at frame
      exact ⟨_, (exec_responseRead n s).trans (congrArg Host.Outcome.next read), frame, rfl⟩

/-- Settles O50: a take that does not run its command (`takeCommand_full`, `takeCommand_badState`), and one that names none. -/
theorem refusedCommandsOnlyAnswer : Obligations.RefusedCommandsOnlyAnswer := by
  unfold Obligations.RefusedCommandsOnlyAnswer
  refine ⟨fun c code ps s host idle long => ?full, fun c code ps s host idle short wrong => ?badState,
    fun code ps s idle short noName state => ?range⟩
  case full =>
    obtain ⟨run, takes⟩ := exec_hostCommand host
    exact ⟨_, takes s, takeCommand_full run idle long⟩
  case badState =>
    obtain ⟨run, takes⟩ := exec_hostCommand host
    exact ⟨_, takes s, takeCommand_badState run idle short (takenIn_wrongState wrong)⟩
  case range =>
    exact ⟨_, exec_unknownCommand code ps s, takeCommand_taken _ idle short (takenIn_unnamed noName state)⟩
end

section
/-! SUPPORT. What no block but the Custody Unit, the host port and a memory operation's end may touch: memory,
the custody state, the series in force and the queue of commands; with it O3, O6 and O8. -/

namespace Sys2Proof.Machine

variable {b s t u : State}

/-! ## Work that leaves memory, custody, the series in force and the queue of commands as they were -/

/-- Since `b`, no byte of memory has been written, the Custody Unit and the series in force are as they were,
and no command has joined or left the queue. Unlike `SameBut`, which compares memory byte by byte, it says that
the list itself is the same. -/
structure Steady (b s : State) : Prop where
  mem : s.mem = b.mem
  cu : s.cu = b.cu
  series : s.tb.series = b.tb.series
  pending : s.pending = b.pending

theorem Steady.refl (s : State) : Steady s s := ⟨rfl, rfl, rfl, rfl⟩

theorem Steady.ite {c : Prop} [Decidable c] (h : Steady b t) (k : Steady b u) :
    Steady b (if c then t else u) := by
  split
  · exact h
  · exact k

theorem Steady.foldl {α : Type} (f : State → α → State) (hf : ∀ s a, Steady b s → Steady b (f s a)) (l : List α)
    (h : Steady b s) :
    Steady b (l.foldl f s) := by
  induction l generalizing s with
  | nil => exact h
  | cons a l ih => exact ih (hf s a h)

/-! ### One block set -/

theorem Steady.setKcu (h : Steady b s) (x : Kcu) : Steady b (s.setKcu x) := ⟨h.mem, h.cu, h.series, h.pending⟩
theorem Steady.setSq (h : Steady b s) (x : StrokeQueue) : Steady b (s.setSq x) :=
    ⟨h.mem, h.cu, h.series, h.pending⟩
theorem Steady.setNotes (h : Steady b s) (x : NotesLog) : Steady b (s.setNotes x) :=
    ⟨h.mem, h.cu, h.series, h.pending⟩
theorem Steady.setDu (h : Steady b s) (x : Du) : Steady b (s.setDu x) := ⟨h.mem, h.cu, h.series, h.pending⟩
theorem Steady.setCache (h : Steady b s) (x : Cache) : Steady b (s.setCache x) :=
    ⟨h.mem, h.cu, h.series, h.pending⟩
theorem Steady.setArb (h : Steady b s) (x : Arbiter) : Steady b (s.setArb x) :=
    ⟨h.mem, h.cu, h.series, h.pending⟩
theorem Steady.setTe (h : Steady b s) (x : Te) : Steady b (s.setTe x) := ⟨h.mem, h.cu, h.series, h.pending⟩
theorem Steady.setLnc (h : Steady b s) (x : Lnc) : Steady b (s.setLnc x) := ⟨h.mem, h.cu, h.series, h.pending⟩
theorem Steady.setPub (h : Steady b s) (x : Pub) : Steady b (s.setPub x) := ⟨h.mem, h.cu, h.series, h.pending⟩
theorem Steady.setRoster (h : Steady b s) (x : Roster) : Steady b (s.setRoster x) :=
    ⟨h.mem, h.cu, h.series, h.pending⟩
theorem Steady.setVw (h : Steady b s) (x : Viewer) : Steady b (s.setVw x) := ⟨h.mem, h.cu, h.series, h.pending⟩
theorem Steady.setSp (h : Steady b s) (x : Screen) : Steady b (s.setSp x) := ⟨h.mem, h.cu, h.series, h.pending⟩
theorem Steady.setLcp (h : Steady b s) (x : Lcp) : Steady b (s.setLcp x) := ⟨h.mem, h.cu, h.series, h.pending⟩

/-- The Transcript Builder is set, the series in force kept. -/
theorem Steady.setTb {x : Tb} (h : Steady b s) (same : x.series = s.tb.series) : Steady b (s.setTb x) :=
  ⟨h.mem, h.cu, same.trans h.series, h.pending⟩

/-! ### Clocks, latches, requests, answers -/

theorem Steady.advance (h : Steady b s) (n : Nat) : Steady b (s.advance n) := ⟨h.mem, h.cu, h.series, h.pending⟩

theorem Steady.reachMs (h : Steady b s) (e : Ms) : Steady b (s.reachMs e) := .ite h (h.advance _)

theorem Steady.reachChars (h : Steady b s) (n : Nat) : Steady b (s.reachChars n) := h.advance _

theorem Steady.latch (h : Steady b s) (e : Event) : Steady b (s.latch e) := h.setLcp _

theorem Steady.request (h : Steady b s) (c : MemClass) (op : MemOp) : Steady b (s.request c op) := h.setArb _

theorem Steady.reply (h : Steady b s) (c : ReplyCode) (d : List Byte) : Steady b (s.reply c d) := h.setLcp _

theorem Steady.give (h : Steady b s) (bs : List Byte) : Steady b (s.give bs) := h.setLcp _

theorem Steady.taking (h : Steady b s) (code : Byte) (ps : List Byte) : Steady b (s.taking code ps) :=
    h.setLcp _

/-! ### Stroke capture -/

theorem Steady.handOn (h : Steady b s) (r : StrokeRecord) : Steady b (s.handOn r) :=
  have taken := (h.setSq (s.sq.take r)).setNotes (s.notes.take (s.sq.noteCopy r))
  .ite (.ite (taken.latch _) taken) (taken.latch _)

theorem Steady.closeIfNoneLive (h : Steady b s) (e : Ms) : Steady b (s.closeIfNoneLive e) := by
  unfold State.closeIfNoneLive
  split
  · exact .ite h (.ite (h.setKcu _) ((h.setKcu _).handOn _))
  · exact h

theorem Steady.chordDown (h : Steady b s) (k : Nat) (e : Ms) : Steady b (s.chordDown k e) := by
  unfold State.chordDown
  split
  · exact h.setKcu _
  · exact .ite (h.setKcu _) h

theorem Steady.acceptedDown (h : Steady b s) (n : Nat) (c : Contact) : Steady b (s.acceptedDown n c) :=
  .ite ((h.setKcu _).chordDown _ _) (h.setKcu _)

theorem Steady.rawLevelChange (h : Steady b s) (n : Nat) (down : Bool) :
    Steady b (s.rawLevelChange n down) := by
  unfold State.rawLevelChange
  split
  · exact h
  · exact .ite h (h.setKcu _)

theorem Steady.settlingExpiry (h : Steady b s) (n : Nat) : Steady b (s.settlingExpiry n) := by
  unfold State.settlingExpiry
  split
  · exact h
  · split
    · exact h
    · exact .ite ((h.reachMs _).acceptedDown _ _)
        (.ite (((h.reachMs _).setKcu _).closeIfNoneLive _) ((h.reachMs _).setKcu _))

theorem Steady.stuckExpiry (h : Steady b s) (n : Nat) : Steady b (s.stuckExpiry n) := by
  unfold State.stuckExpiry
  split
  · exact h
  · split
    · exact h
    · exact (((h.reachMs _).setKcu _).latch _).closeIfNoneLive _

/-! ### Publisher and Screen Port -/

theorem Steady.updateCredit (h : Steady b s) : Steady b s.updateCredit := h.setPub _

theorem Steady.refund (h : Steady b s) (n : Nat) : Steady b (s.refund n) := by
  unfold State.refund
  dsimp only
  split <;> exact h.updateCredit.setPub _

theorem Steady.choose (h : Steady b s) : Steady b s.choose :=
  have tested : Steady b (if s.choiceTests then s.updateCredit else s) := .ite h.updateCredit h
  .ite (.ite tested (tested.setLnc _)) h

theorem Steady.compose (h : Steady b s) : Steady b s.compose := .ite (h.setSp _) h

theorem Steady.offered (h : Steady b s) : Steady b (s.choose).compose := h.choose.compose

theorem Steady.stationReady (h : Steady b s) : Steady b s.stationReady := h.setPub _

theorem Steady.buildTail (h : Steady b s) : Steady b s.buildTail := .ite (h.setPub _) h

theorem Steady.dropTail (h : Steady b s) : Steady b s.dropTail := .ite h (h.setPub _)

theorem Steady.reshare (h : Steady b s) : Steady b s.reshare :=
  have weighed : Steady b (s.updateCredit.reweigh s.cu.state.weight) := h.updateCredit.setPub _
  .ite weighed.dropTail (.ite weighed.stationReady.dropTail weighed.stationReady.dropTail.buildTail)

theorem Steady.queueLine (h : Steady b s) (n : Nat) (brk : Bool) (x : List Byte) :
    Steady b (s.queueLine n brk x) :=
  .ite h (.ite (h.setPub _) (h.setPub _))

theorem Steady.askFor (h : Steady b s) (n : Nat) : Steady b (s.askFor n) :=
    .ite h (.ite (h.setPub _) (h.setPub _))

theorem Steady.takeAsk (h : Steady b s) (a : AskBody) : Steady b (s.takeAsk a) :=
  .ite h (.ite h (h.foldl _ (fun _ n k => k.askFor n) _))

theorem Steady.sendDefinition (h : Steady b s) (vs : List Stroke) (x : List Byte) :
    Steady b (s.sendDefinition vs x) :=
  .ite h (.ite (h.setPub _) (h.setPub _))

theorem Steady.conflictAtPub (h : Steady b s) : Steady b s.conflictAtPub := (h.setPub _).stationReady

theorem Steady.beaconExpiry (h : Steady b s) : Steady b s.beaconExpiry := by
  unfold State.beaconExpiry
  split
  · exact h
  · exact ((h.reachMs _).stationReady.setPub _).choose

theorem Steady.refreshExpiry (h : Steady b s) : Steady b s.refreshExpiry := by
  unfold State.refreshExpiry
  split
  · exact h
  · exact (((h.reachMs _).setPub _).buildTail).choose

theorem Steady.creditReach (h : Steady b s) : Steady b s.creditReach := by
  unfold State.creditReach
  split
  · exact h
  · exact .ite h ((h.reachChars _).updateCredit).choose

theorem Steady.rowSendStart (h : Steady b s) : Steady b s.rowSendStart := by
  unfold State.rowSendStart
  split
  · exact .ite h (h.setSp _)
  · exact h

theorem Steady.busyChange (h : Steady b s) (high : Bool) : Steady b (s.busyChange high) := .ite h (h.setSp _)

theorem Steady.rowSendComplete (h : Steady b s) : Steady b s.rowSendComplete := by
  unfold State.rowSendComplete
  split
  · exact h
  · exact .ite h (h.setSp _)

/-! ### Viewer -/

theorem Steady.putLine (h : Steady b s) (n : Nat) (x : StoreState) : Steady b (s.putLine n x) := h.setVw _

theorem Steady.loseLine (h : Steady b s) (n : Nat) : Steady b (s.loseLine n) := (h.setVw _).latch _

theorem Steady.storeLine (h : Steady b s) (n : Nat) (gaps brk : Bool) (x : List Byte) :
    Steady b (s.storeLine n gaps brk x) := by
  unfold State.storeLine
  split
  · exact h
  · exact .ite h (h.putLine _ _)
  · exact .ite (h.loseLine _) (h.putLine _ _)
  · exact .ite (.ite (h.loseLine _) (h.putLine _ _)) h

theorem Steady.openGap (h : Steady b s) (k n : Nat) : Steady b (s.openGap k n) := .ite (h.putLine _ _) h

theorem Steady.setReach (h : Steady b s) (r k : Nat) : Steady b (s.setReach r k) :=
  .ite (h.setVw _) ((h.setVw _).foldl _ (fun _ n w => w.openGap k n) _)

theorem Steady.follow (h : Steady b s) : Steady b s.follow :=
  have chosen := (h.setVw { s.vw with followed := s.followChoice }).latch
      (.followChanged (s.followStation s.followChoice))
  .ite (.ite h (.ite (chosen.setReach _ _) chosen)) h

theorem Steady.makeAsk (h : Steady b s) (a n k : Nat) : Steady b (s.makeAsk a n k) :=
    .ite (h.setVw _) (h.setVw _)

theorem Steady.askedAgain (h : Steady b s) (n : Nat) : Steady b (s.askedAgain n) := by
  unfold State.askedAgain
  split
  · exact h.putLine _ _
  · exact h

theorem Steady.gapExpiry (h : Steady b s) (n : Nat) : Steady b (s.gapExpiry n) := by
  unfold State.gapExpiry
  split
  · exact .ite (((h.reachMs _).foldl _ (fun _ n w => w.askedAgain n) _).makeAsk _ _ _).offered
        ((h.reachMs _).loseLine _).compose
  · exact h

theorem Steady.markStation (h : Steady b s) (n : Nat) (m : SlotMark) : Steady b (s.markStation n m) := by
  unfold State.markStation
  split
  · exact h.setVw _
  · exact h

theorem Steady.releaseAtViewer (h : Steady b s) (r : ReleaseBody) : Steady b (s.releaseAtViewer r) :=
  have released := h.markStation r.station .released
  have named :
      Steady b (if r.target ≠ 0 ∧ (s.markStation r.station .released).roster.admits r.target = true then
      (s.markStation r.station .released).markStation r.target .named else s.markStation r.station .released) :=
    .ite (released.markStation _ _) released
  .ite (Steady.follow (.ite (named.setReach _ _) named)) h

theorem Steady.tailAtViewer (h : Steady b s) (x : TailBody) : Steady b (s.tailAtViewer x) := by
  unfold State.tailAtViewer
  split
  · exact h
  · exact .ite ((h.setVw _).setReach _ _) (h.setVw _)

theorem Steady.lineAtViewer (h : Steady b s) (l : LineBody) : Steady b (s.lineAtViewer l) :=
    .ite (h.storeLine _ _ _ _) h

/-! ### Transcript Builder: a commit or a rendering leaves the series in force -/

theorem Steady.enterRing (h : Steady b s) (l : CommittedLine) : Steady b (s.enterRing l) := by
  unfold State.enterRing
  split
  · exact h.setTb rfl
  · dsimp only
    split
    · exact .ite (Steady.latch (h.setTb (by exact rfl)) _) (h.setTb rfl)
    · exact h.setTb rfl

theorem Steady.ownLineToViewer (h : Steady b s) (n : Nat) (brk : Bool) (x : List Byte) :
    Steady b (s.ownLineToViewer n brk x) :=
  .ite (.ite ((h.storeLine _ _ _ _).setReach _ _) (h.storeLine _ _ _ _)) h

theorem Steady.reportHorizon (h : Steady b s) (n : Nat) : Steady b (s.reportHorizon n) := h.setTb rfl

theorem Steady.recordLine (h : Steady b s) (brk carried : Bool) (x : List Byte) (n : Nat) :
    Steady b (s.recordLine brk carried x n) :=
  ((((h.setTb (by exact rfl)).enterRing _).queueLine _ _ _).reportHorizon _).ownLineToViewer _ _ _

theorem Steady.jump (h : Steady b s) : Steady b s.jump := .ite (h.setTb rfl) h

theorem Steady.breakLine (h : Steady b s) : Steady b s.breakLine := .ite (h.latch _) (h.recordLine _ _ _ _)

theorem Steady.jumpBreak (h : Steady b s) : Steady b s.jumpBreak :=
  .ite (.ite h.jump.breakLine (h.jump.breakLine.latch _)) h

theorem Steady.commitText (h : Steady b s) (carried : Bool) (x : List Byte) (n : Nat) :
    Steady b (s.commitText carried x n) := by
  unfold State.commitText
  split
  · exact (h.setTb (by exact rfl)).enterRing _
  · exact .ite (Steady.latch (h.jumpBreak.setTb (by exact rfl)) _) (h.jumpBreak.recordLine _ _ _ _)

theorem Steady.notified (h : Steady b t) : Steady b (s.notified t) := .ite h.buildTail h

theorem Steady.commitOldest (h : Steady b s) : Steady b s.commitOldest :=
  Steady.notified (Steady.commitText (s := s.releaseFirst) (h.setTb rfl) _ _ _)

theorem Steady.commitWhile (p : Region → Bool) (n : Nat) (h : Steady b s) :
    Steady b (State.commitWhile p n s) := by
  induction n generalizing s with
  | zero => exact h
  | succ n ih => exact .ite (ih h.commitOldest) h

theorem Steady.setUnits (h : Steady b s) (us : List TextUnit) : Steady b (s.setUnits us) :=
    Steady.notified (h.setTb rfl)

theorem Steady.commitOver (h : Steady b s) : Steady b s.commitOver := h.commitWhile _ _

theorem Steady.emitUnit (h : Steady b s) (x : TextUnit) : Steady b (s.emitUnit x) :=
    ((h.commitWhile _ _).setUnits _).commitOver

theorem Steady.replaceUnits (h : Steady b s) (vs : List Stroke) (x : List Byte) :
    Steady b (s.replaceUnits vs x) :=
  .ite (h.setUnits _).commitOver h

theorem Steady.commitAllLines (h : Steady b s) : Steady b s.commitAllLines :=
  Steady.notified (Steady.setTb (h.commitWhile _ _) rfl)

/-! ### Line Controller -/

theorem Steady.handCustody (h : Steady b s) (k : CustodyFrameKind) (f : Frame) : Steady b (s.handCustody k f) :=
    h.setLnc _

theorem Steady.refuse (h : Steady b s) (n : Nat) (r : RefuseReason) : Steady b (s.refuse n r) :=
    h.handCustody _ _

theorem Steady.lineError (h : Steady b s) (x : LineError) : Steady b (s.lineError x) :=
    .ite ((h.setLnc _).latch _) (h.setLnc _)

theorem Steady.enqueueFrame (h : Steady b s) (f : Frame) : Steady b (s.enqueueFrame f) :=
    .ite (h.setLnc _) (h.lineError _)

theorem Steady.reportFrame (h : Steady b s) (f : Frame) : Steady b (s.reportFrame f) := by
  unfold State.reportFrame
  split
  · exact h.reportHorizon _
  · exact h

theorem Steady.finishFrame (h : Steady b s) (a : Assembly) : Steady b (s.finishFrame a) := by
  unfold State.finishFrame
  split
  · exact h
  · exact h.lineError _
  · exact .ite ((h.reportFrame _).enqueueFrame _) (h.reportFrame _)

theorem Steady.assemble (h : Steady b s) (heading : Bool) (x : Byte) (ok : Bool) :
    Steady b (s.assemble heading x ok) := by
  unfold State.assemble
  split
  · exact .ite (h.setLnc _) h
  · exact .ite ((h.setLnc _).finishFrame _) (h.setLnc _)

theorem Steady.removeSource (h : Steady b s) (x : Source) : Steady b (s.removeSource x) := by
  cases x with
  | custody => exact h.setLnc _
  | ask => exact h.setVw _
  | station | line | define | answer | tail => exact h.setPub _

theorem Steady.dropFrame (h : Steady b s) (x : Source) : Steady b (s.dropFrame x) := (h.removeSource x).setLnc _

theorem Steady.afterAbort (h : Steady b s) (x : Source) : Steady b (s.afterAbort x) := by
  cases x with
  | custody => exact h.setLnc _
  | ask => exact .ite (h.setVw _) (h.dropFrame _)
  | station | line | define | answer => exact .ite (h.setPub _) (h.dropFrame _)
  | tail =>
    unfold State.afterAbort
    dsimp only
    split
    · exact h
    · exact .ite (h.removeSource _) (.ite (h.setPub _) (h.dropFrame _))

theorem Steady.refundUnsent (h : Steady b s) (x : Source) (n k : Nat) : Steady b (s.refundUnsent x n k) :=
    .ite (h.refund _) h

theorem Steady.abortAttempt (h : Steady b s) (x : Source) (n k : Nat) : Steady b (s.abortAttempt x n k) :=
  ((h.setLnc _).refundUnsent _ _ _).afterAbort _

theorem Steady.echo (h : Steady b s) (heading : Bool) (x : Byte) (ok : Bool) :
    Steady b (s.echo heading x ok) := by
  unfold State.echo
  split
  · exact .ite (.ite (h.setLnc _) ((h.setLnc _).removeSource _)) (h.abortAttempt _ _ _)
  · exact h

theorem Steady.characterEnd (h : Steady b s) (ok : Bool) : Steady b (s.characterEnd ok) := by
  unfold State.characterEnd
  dsimp only
  split
  · split
    · exact h.setLnc _
    · exact (h.reachChars _).setLnc _
  · exact h.setLnc _

theorem Steady.characterReceived (h : Steady b s) (heading : Bool) (x : Byte) (ok : Bool) :
    Steady b (s.characterReceived heading x ok) :=
  have joined := ((h.characterEnd ok).echo heading x ok).assemble heading x ok
  .ite (.ite joined joined.choose) (h.characterEnd ok)

theorem Steady.startBitSeen (h : Steady b s) (atStart : Bool) : Steady b (s.startBitSeen atStart) := by
  unfold State.startBitSeen
  split
  · exact h.setLnc _
  · exact .ite h (h.setLnc _)
  · exact h

theorem Steady.frameEnd (h : Steady b s) : Steady b s.frameEnd := by
  unfold State.frameEnd
  split
  · exact ((h.advance _).setLnc _).finishFrame _
  · exact h

theorem Steady.guardExpiry (h : Steady b s) : Steady b s.guardExpiry := by
  unfold State.guardExpiry
  split
  · exact h
  · exact (h.reachChars _).setLnc _

theorem Steady.charge (h : Steady b s) (x : Source) (f : Frame) : Steady b (s.charge x f) :=
    .ite (h.updateCredit.setPub _) h

theorem Steady.takeOff (h : Steady b s) (x : Source) : Steady b (s.takeOff x) := by
  cases x with
  | station | tail => exact h.setPub _
  | custody | line | define | answer | ask => exact h

theorem Steady.transmitStart (h : Steady b s) : Steady b s.transmitStart := by
  unfold State.transmitStart
  split
  · dsimp only
    refine .ite ?_ h
    split
    · exact ((((h.advance _).charge _ _).takeOff _).setLnc _).choose
    · exact h
  · exact h

theorem Steady.conflictAtLnc (h : Steady b s) : Steady b s.conflictAtLnc := by
  unfold State.conflictAtLnc
  split
  · exact h.setLnc _
  · exact (((h.setLnc _).refundUnsent _ _ _).removeSource _).setLnc _
  · exact h.setLnc _

/-! ### Roster -/

theorem Steady.setSlot (h : Steady b s) (i : Nat) (x : Option RosterSlot) : Steady b (s.setSlot i x) :=
    h.setRoster _

theorem Steady.refreshSlot (h : Steady b s) (n : Nat) : Steady b (s.refreshSlot n) := by
  unfold State.refreshSlot
  split
  · exact h
  · split
    · exact h
    · exact .ite h (h.setSlot _ _)

theorem Steady.rosterEvent (h : Steady b s) (q r : RosterSlot) : Steady b (s.rosterEvent q r) := by
  refine .ite h ?_
  split
  · exact h.latch _
  · exact h.latch _
  · exact h

theorem Steady.removeSlot (h : Steady b s) (i : Nat) (q : RosterSlot) : Steady b (s.removeSlot i q) :=
  ((h.setSlot _ _).setVw _).latch _

/-! ### Translation Engine -/

theorem Steady.walkLookup (h : Steady b s) (m : ReqMarks) (o : LookupOut) : Steady b (s.walkLookup m o) := by
  cases o with
  | read a n k => exact (h.setTe _).request _ _
  | found k bs =>
    have filled : Steady b (if m.fenceSeen then s else
        s.setCache (s.cache.fill { layer := k.layer, table := k.table, stroke := k.stroke,
                                   content := (CellData.ofBytes bs).content k.cellAddr })) :=
    .ite h (h.setCache _)
    exact .ite (h.setTe _) (filled.setTe _)
  | noEntry k => exact .ite (h.setTe _) (h.setTe _)
  | fault d => exact .ite ((h.latch _).setTe _) ((h.latch _).setTe _)

theorem Steady.treeStep (h : Steady b s) (l x : Nat) : Steady b (s.treeStep l x) := by
  unfold State.treeStep
  split
  · exact (h.setCache _).setTe _
  · exact (h.setCache _).walkLookup _ _

theorem Steady.continuation (h : Steady b s) : Steady b s.continuation :=
  .ite (.ite h (.ite (h.setTe _) (h.setTe _))) (h.setTe _)

theorem Steady.stepAction (h : Steady b s) : Steady b s.stepAction := by
  unfold State.stepAction
  refine .ite ?_ (h.setTe _).continuation
  split
  · exact h.treeStep _ _
  · exact h.setTe _

theorem Steady.undo (h : Steady b s) : Steady b s.undo := by
  unfold State.undo State.undoOpen
  refine .ite ?_ (h.setTe _)
  split
  · exact (h.setUnits _).setTe _
  · exact h.setTe _

theorem Steady.handleStroke (h : Steady b s) (r : StrokeRecord) : Steady b (s.handleStroke r) :=
  .ite (h.setTe _).undo ((h.setTe _).setTe _)

theorem Steady.dropWork (h : Steady b s) (r : StrokeRecord) : Steady b (s.dropWork r) :=
  ((h.emitUnit _).setTe _).handleStroke r

theorem Steady.startStroke (h : Steady b s) (r : StrokeRecord) : Steady b (s.startStroke r) :=
  .ite (.ite (h.dropWork _) (h.setTe _)) (h.handleStroke _)

theorem Steady.walkData (h : Steady b s) (bs : List Byte) : Steady b (s.walkData bs) := by
  unfold State.walkData
  split
  · exact h.walkLookup _ _
  · unfold State.walkFetch
    split
    · exact (h.setTe _).request _ _
    · exact .ite (h.setTe _) (h.setTe _)
    · exact .ite ((h.latch _).setTe _) ((h.latch _).setTe _)
  · exact h

theorem Steady.handRetr (h : Steady b s) (x : Handing) : Steady b (s.handRetr x) := .ite (h.setTe _) (h.setTe _)

theorem Steady.requestReplacement (h : Steady b s) (vs : List Stroke) (x : List Byte) :
    Steady b (s.requestReplacement vs x) :=
  .ite (h.setTe _) (h.setTe _)

theorem Steady.retrFetchFrom (h : Steady b s) (x : Handing) : Steady b (s.retrFetchFrom x) :=
    (h.setTe _).request _ _

theorem Steady.matchCheck (h : Steady b s) : Steady b s.matchCheck := by
  unfold State.matchCheck
  split
  · refine .ite ?_ (h.setTe _)
    split
    · exact (h.setTe _).requestReplacement _ _
    · exact (h.setTe _).retrFetchFrom _
  · exact h

theorem Steady.retrData (h : Steady b s) (bs : List Byte) : Steady b (s.retrData bs) := by
  unfold State.retrData State.retrFetch
  split
  · split
    · exact (h.setTe _).request _ _
    · exact .ite (h.retrFetchFrom _) ((h.setTe _).requestReplacement _ _)
    · exact .ite ((h.latch _).retrFetchFrom _) ((h.latch _).setTe _)
  · exact h

theorem Steady.replacement (h : Steady b s) : Steady b s.replacement := by
  unfold State.replacement
  split
  · exact ((h.setTe _).replaceUnits _ _).offered
  · exact h

/-! ### Definition Unit -/

theorem Steady.leaveService (h : Steady b s) (e : Event) : Steady b (s.leaveService e) := (h.setDu _).latch _

theorem Steady.writeOn (h : Steady b s) (e : DefEntry) (r : TextRef) (todo : List PlannedWrite) :
    Steady b (s.writeOn e r todo) := by
  unfold State.writeOn
  split
  · exact (h.setDu _).request _ _
  · exact h.setDu _

theorem Steady.claimSpace (h : Steady b s) (e : DefEntry) (n m : Nat) (w : Alloc → List PlannedWrite) :
    Steady b (s.claimSpace e n m w) := by
  unfold State.claimSpace
  split
  · exact .ite ((h.setDu _).writeOn _ _ _) (h.leaveService _)
  · exact h.leaveService _

theorem Steady.planDefine (h : Steady b s) (e : DefEntry) (p : List PlanStep) (k : Option Lookup) :
    Steady b (s.planDefine e p k) := by
  unfold State.planDefine
  dsimp only
  split
  · exact h.claimSpace _ _ _ _
  · exact .ite (.ite (h.claimSpace _ _ _ _) (h.leaveService _)) (h.claimSpace _ _ _ _)
  · exact h.leaveService _

theorem Steady.planForget (h : Steady b s) (e : DefEntry) (p : List PlanStep) (k : Option Lookup) :
    Steady b (s.planForget e p k) := by
  unfold State.planForget
  split
  · exact .ite (h.writeOn _ _ _) (h.leaveService _)
  · exact h.leaveService _

theorem Steady.planEnds (h : Steady b s) (e : DefEntry) (p : List PlanStep) (k : Option Lookup) :
    Steady b (s.planEnds e p k) := by
  unfold State.planEnds
  split
  · exact h.planDefine _ _ _
  · exact h.planForget _ _ _

theorem Steady.planFault (h : Steady b s) (e : DefEntry) (d : Damage) : Steady b (s.planFault e d) :=
    (h.latch _).leaveService _

theorem Steady.planStart (h : Steady b s) (e : DefEntry) (p : List PlanStep) (n : Nat) :
    Steady b (s.planStart e p n) := by
  unfold State.planStart
  split
  · exact (h.setDu _).request _ _
  · exact h.planFault _ _
  · exact h

theorem Steady.planLookup (h : Steady b s) (e : DefEntry) (p : List PlanStep) (o : LookupOut) :
    Steady b (s.planLookup e p o) := by
  cases o with
  | read a n k => exact (h.setDu _).request _ _
  | noEntry k => exact h.planEnds _ _ _
  | found k bs => exact .ite (h.planStart _ _ _) (h.planEnds _ _ _)
  | fault d => exact h.planFault _ _

theorem Steady.duServiceStart (h : Steady b s) : Steady b s.duServiceStart := by
  unfold State.duServiceStart
  split
  · exact (h.setDu _).planStart _ _ _
  · exact h

theorem Steady.raiseGeneration (h : Steady b s) : Steady b s.raiseGeneration := (h.setDu _).setTe _

theorem Steady.fence (h : Steady b s) (f : FenceScope) : Steady b (s.fence f) := .ite h ((h.setCache _).setTe _)

theorem Steady.finishEntry (h : Steady b s) (e : DefEntry) (r : TextRef) : Steady b (s.finishEntry e r) := by
  unfold State.finishEntry
  dsimp only
  split
  · exact h.raiseGeneration.leaveService _
  · have told :=
        (h.raiseGeneration.handRetr { strokes := e.strokes, ref := r }).leaveService (e.event .done .applied)
    exact .ite (told.sendDefinition _ _) told

theorem Steady.defineAtDu (h : Steady b s) (f : Frame) : Steady b (s.defineAtDu f) := by
  unfold State.defineAtDu
  refine .ite ?_ h
  split
  · exact h
  · split
    · refine .ite ?_ h
      unfold State.offerDefine
      refine .ite h ?_
      split
      · exact h.setDu _
      · exact .ite ((h.setDu _).setSlot _ _) (h.setDu _)
    · exact h

theorem Steady.publisherAtGo (h : Steady b s) : Steady b s.publisherAtGo := h.setPub _

theorem Steady.viewerAtGo (h : Steady b s) : Steady b s.viewerAtGo := .ite ((h.setVw _).setSp _) h

theorem Steady.goFails (h : Steady b s) (r : GoReason) : Steady b (s.goFails r) := (h.setDu _).reply _ _

/-! ### Work that changes custody or the series: the base changes with it -/

theorem Steady.withCu (h : Steady b s) (x : Cu) : Steady (b.setCu x) (s.setCu x) :=
    ⟨h.mem, rfl, h.series, h.pending⟩


/-- The state with another series in force, a base for what switches the series (R99, R100). -/
def State.inSeries (s : State) (x : Series) : State := s.setTb { s.tb with series := x }

@[simp] theorem State.inSeries_cu (s : State) (x : Series) : (s.inSeries x).cu = s.cu := rfl

theorem Steady.switchToDraft (h : Steady b s) : Steady (b.inSeries .draft) s.switchToDraft := by
  unfold State.switchToDraft
  split
  next draft => exact ⟨h.mem, h.cu, draft, h.pending⟩
  next => exact ⟨h.mem, h.cu, rfl, h.pending⟩

theorem Steady.carryFormat (h : Steady b s) (carry : Option (Bool × Bool)) :
    Steady b (s.carryFormat carry) := by
  unfold State.carryFormat
  split
  · exact .ite (h.setTb rfl) h
  · exact h

theorem Steady.switchToRecord (h : Steady b s) (n : Nat) (brk : Bool) (carry : Option (Bool × Bool)) :
    Steady (b.inSeries .record) (s.switchToRecord n brk carry) := by
  unfold State.switchToRecord
  split
  next record => exact ⟨h.mem, h.cu, record, h.pending⟩
  next =>
    have entered :
        Steady (b.inSeries .record) (s.setTb { s.tb with series := .record, nextRecord := some n }) :=
      ⟨h.mem, h.cu, rfl, h.pending⟩
    exact Steady.buildTail (Steady.carryFormat (Steady.setTb (.ite entered.jump.breakLine entered)
        (by exact rfl)) _)

theorem Steady.tellCustody (h : Steady b s) : Steady b s.tellCustody := h.stationReady.reshare.buildTail

theorem Steady.setCustody (h : Steady b s) (c : CustodyState) :
    Steady (b.setCu { s.cu with state := c }) (s.setCustody c) := (h.withCu _).tellCustody.follow

/-! ## When custody state, series, hand-over and timers agree -/

theorem Coherent.steady (h : Coherent b) (k : Steady b s) : Coherent s := by
  unfold Coherent
  rw [k.cu, k.series]
  exact h

theorem Coherent.claimAt_none (h : Coherent s) (other : s.cu.state ≠ .claiming) : s.cu.claimAt = none := by
  obtain ⟨-, -, claiming, -, -⟩ := h
  exact Option.not_isSome_iff_eq_none.mp fun runs => other (claiming runs)

theorem Coherent.handOver_none (h : Coherent s) (other : s.cu.state ≠ .releasing) : s.cu.handOver = .none := by
  obtain ⟨-, handing, -, -, -⟩ := h
  by_contra some
  exact other (handing.mp some)

theorem Coherent.settleAt_none (h : Coherent s) (other : s.cu.handOver ≠ .gathering) :
    s.cu.settleAt = none := by
  obtain ⟨-, -, -, settling, -⟩ := h
  exact Option.not_isSome_iff_eq_none.mp fun runs => other (settling runs)

theorem Coherent.releasing (h : Coherent s) (handing : s.cu.handOver ≠ .none) : s.cu.state = .releasing := by
  obtain ⟨-, releasing, -, -, -⟩ := h
  exact releasing.mp handing

theorem Coherent.record (h : Coherent s) (holds : s.cu.state.holds = true) : s.tb.series = .record := by
  obtain ⟨series, -, -, -, -⟩ := h
  exact series.mpr holds

theorem Coherent.draft (h : Coherent s) (free : s.cu.state.holds = false) : s.tb.series = .draft := by
  obtain ⟨series, -, -, -, -⟩ := h
  cases inForce : s.tb.series with
  | draft => rfl
  | record => exact absurd (series.mp inForce) (by simp [free])

theorem Coherent.prior (h : Coherent s) {p : CustodyState} (held : s.cu.prior = some p) :
    p = .idle ∨ p = .shadow := by
  obtain ⟨-, -, -, -, prior⟩ := h
  exact prior p held

/-- A node out of custody: DRAFT, nothing handed over, no custody timer. -/
theorem coherent_free (state : s.cu.state = .idle ∨ s.cu.state = .shadow) (draft : s.tb.series = .draft)
    (handOver : s.cu.handOver = .none) (claimAt : s.cu.claimAt = none) (settleAt : s.cu.settleAt = none)
    (prior : ∀ p, s.cu.prior = some p → p = .idle ∨ p = .shadow) : Coherent s := by
  refine ⟨?_, ?_, by simp [claimAt], by simp [settleAt], prior⟩ <;> obtain idle | shadow := state
  · simp [draft, idle, CustodyState.holds]
  · simp [draft, shadow, CustodyState.holds]
  · simp [handOver, idle]
  · simp [handOver, shadow]

/-- A holder ON_RECORD: RECORD, nothing handed over, no custody timer. -/
theorem coherent_onRecord (state : s.cu.state = .onRecord) (record : s.tb.series = .record)
    (handOver : s.cu.handOver = .none)
    (claimAt : s.cu.claimAt = none) (settleAt : s.cu.settleAt = none)
    (prior : ∀ p, s.cu.prior = some p → p = .idle ∨ p = .shadow) : Coherent s :=
  ⟨by simp [record, state, CustodyState.holds], by simp [handOver, state], by simp [claimAt],
      by simp [settleAt], prior⟩

/-- A holder RELEASING: RECORD, a hand-over, and the settle timer in GATHERING alone. -/
theorem coherent_releasing (state : s.cu.state = .releasing) (record : s.tb.series = .record)
    (handOver : s.cu.handOver ≠ .none)
    (claimAt : s.cu.claimAt = none) (settling : s.cu.settleAt.isSome = true → s.cu.handOver = .gathering)
    (prior : ∀ p, s.cu.prior = some p → p = .idle ∨ p = .shadow) : Coherent s :=
  ⟨by simp [record, state, CustodyState.holds], by simp [handOver, state], by simp [claimAt], settling, prior⟩

/-! ## Work that keeps memory's form and the agreement of custody -/

/-- From `b`, memory's canonical form and the agreement of custody state, series, hand-over and timers are
kept, and the queue of commands is as it was. -/
structure Sound (b s : State) : Prop where
  mem : b.mem.wf = true → s.mem.wf = true
  custody : Coherent b → Coherent s
  pending : s.pending = b.pending

theorem Sound.refl (s : State) : Sound s s := ⟨id, id, rfl⟩

/-- Steady work after what keeps both. -/
theorem Sound.steady (h : Sound b s) (k : Steady s t) : Sound b t :=
  ⟨fun wf => k.mem ▸ h.mem wf, fun agree => (h.custody agree).steady k, k.pending.trans h.pending⟩

theorem Steady.sound (h : Steady s t) : Sound s t := (Sound.refl s).steady h

theorem Sound.ite {c : Prop} [Decidable c] (h : Sound b t) (k : Sound b u) : Sound b (if c then t else u) := by
  split
  · exact h
  · exact k

/-- A choice whose branches are sound by what the test says. -/
theorem Sound.cases {c : Prop} [Decidable c] (h : c → Sound b t) (k : ¬ c → Sound b u) :
    Sound b (if c then t else u) := by
  split
  next holds => exact h holds
  next fails => exact k fails

theorem Sound.foldl {α : Type} (f : State → α → State) (hf : ∀ s a, Sound b s → Sound b (f s a)) (l : List α)
    (h : Sound b s) :
    Sound b (l.foldl f s) := by
  induction l generalizing s with
  | nil => exact h
  | cons a l ih => exact ih (hf s a h)

/-- Custody or the series becomes what agrees, memory and the queue being left alone: `v` is what the work
comes to. -/
theorem Sound.becomes {v : State} (h : Sound b s) (k : Steady v t) (mem : v.mem = s.mem)
    (pending : v.pending = s.pending)
    (agree : Coherent b → Coherent s → Coherent v) : Sound b t :=
  ⟨fun wf => (k.mem.trans mem) ▸ h.mem wf, fun start => (agree start (h.custody start)).steady k,
    (k.pending.trans pending).trans h.pending⟩

theorem Sound.setCu {x : Cu} (h : Sound b s) (agree : Coherent b → Coherent s → Coherent (s.setCu x)) :
    Sound b (s.setCu x) :=
  h.becomes (Steady.refl _) rfl rfl agree

theorem Sound.offered (h : Sound b s) : Sound b (s.choose).compose := h.steady (Steady.refl s).offered

theorem Sound.endOperation (h : Sound b s) (r : Request) : Sound b (s.endOperation r) :=
  ⟨fun wf => wf_served _ _ (h.mem wf), h.custody, h.pending⟩

/-! ### Taking the record and the ends of a claim (R154 to R156) -/

theorem Sound.becomeHolder (h : Sound b s) (n : Nat) (brk : Bool) (carry : Option (Bool × Bool))
    (cause : ChangeCause) (station : Nat)
    (free : Coherent b → s.cu.state ≠ .releasing) : Sound b (s.becomeHolder n brk carry cause station) := by
  have entered := (Steady.refl s).switchToRecord n brk carry
  have told := ((entered.withCu { (s.switchToRecord n brk carry).cu with
    prior := none, claimAt := none, recordClosed := false, state := .onRecord }).tellCustody).latch
        (.custodyChanged cause station n)
  refine h.becomes (.ite (told.latch _) told) rfl rfl fun start agree => ?_
  have handOver := agree.handOver_none (free start)
  have cu : (s.switchToRecord n brk carry).cu = s.cu := entered.cu
  refine coherent_onRecord rfl rfl ?_ rfl ?_ (by rintro p ⟨⟩)
  · simpa only [State.setCu_cu, cu] using handOver
  · simpa only [State.setCu_cu, cu] using agree.settleAt_none (by simp [handOver])

theorem Sound.takeOver (h : Sound b s) (free : Coherent b → s.cu.state ≠ .releasing) : Sound b s.takeOver :=
  (h.becomeHolder _ _ _ _ _ free).steady (Steady.refl _).follow

theorem Sound.endClaim (h : Sound b s) (o : ClaimEnd) (station reason : Nat)
    (claiming : Coherent b → s.cu.state = .claiming) :
    Sound b (s.endClaim o station reason) := by
  refine h.becomes (((Steady.refl _).setCustody _).latch _) rfl rfl fun start agree => ?_
  have state := claiming start
  have handOver := agree.handOver_none (by simp [state])
  refine coherent_free ?_ (agree.draft (by simp [state, CustodyState.holds])) handOver rfl
    (agree.settleAt_none (by simp [handOver])) (by rintro p ⟨⟩)
  cases held : s.cu.prior with
  | none => simp
  | some p => simpa [held] using agree.prior held

/-! ### Flush and hand-over (R159 to R161) -/

theorem Sound.flushReport (h : Sound b s) : Sound b s.flushReport := by
  unfold State.flushReport
  split
  · exact h.setCu fun _ agree => agree
  · exact h

theorem Sound.requestFlush (h : Sound b s) : Sound b s.requestFlush := by
  unfold State.requestFlush
  split
  · exact h.flushReport
  · exact h.steady ((Steady.refl s).setTe _)
  · exact h.steady ((Steady.refl s).setTe _)

theorem Sound.handOverToBest (h : Sound b s) (gathering : Coherent b → s.cu.handOver = .gathering) :
    Sound b s.handOverToBest := by
  unfold State.handOverToBest
  split
  · refine Sound.requestFlush (h.setCu fun start agree => ?_)
    have state := agree.releasing (by simp [gathering start])
    exact coherent_releasing state (agree.record (by simp [state, CustodyState.holds])) (by simp)
      (agree.claimAt_none (by simp [state])) (by simp) fun _ held => agree.prior held
  · exact h

theorem Sound.closeRecord (h : Sound b s) (holder : Coherent b → s.cu.state = .onRecord) :
    Sound b s.closeRecord := by
  refine Sound.requestFlush (h.becomes ((Steady.refl _).setCustody _) rfl rfl fun start agree => ?_)
  have state := holder start
  have handOver := agree.handOver_none (by simp [state])
  refine coherent_releasing rfl (agree.record (by simp [state, CustodyState.holds])) (by simp)
    (agree.claimAt_none (by simp [state])) ?_ fun _ held => agree.prior held
  simp [agree.settleAt_none (by simp [handOver])]

theorem Sound.completeRelease (h : Sound b s) (target : Nat)
    (handing : Coherent b → ∃ n, s.cu.handOver = .handingOver n) :
    Sound b (s.completeRelease target) := by
  have left := ((Steady.refl s).handCustody .release
    (releaseFrame s.cfg target s.tb.committedThrough s.tb.region.format)).switchToDraft
  refine h.becomes (((left.withCu _).setCustody _).latch _) rfl rfl fun start agree => ?_
  obtain ⟨n, handOver⟩ := handing start
  have state := agree.releasing (by simp [handOver])
  refine coherent_free ?_ rfl rfl ?_ ?_ fun p held => agree.prior (p := p) ?_
  · simp only [State.setCu_cu]
    split
    · exact Or.inl rfl
    · exact Or.inr rfl
  · simpa only [State.setCu_cu, left.cu, State.inSeries_cu] using agree.claimAt_none (by simp [state])
  · simpa only [State.setCu_cu, left.cu, State.inSeries_cu] using agree.settleAt_none (by simp [handOver])
  · simpa only [State.setCu_cu, left.cu, State.inSeries_cu] using held

/-! ### Requests (R151 to R153) -/

theorem Sound.beginClaim (h : Sound b s) (free : Coherent b → s.cu.state = .idle ∨ s.cu.state = .shadow) :
    Sound b s.beginClaim := by
  have handed := ((Steady.refl s).withCu { s.cu with
      prior := some s.cu.state, claimAt := some (s.after (1000 * s.cfg.claimWait)) }
    ).handCustody .claim (claimFrame s.cfg s.tb.horizon)
  refine h.becomes (handed.setCustody _) rfl rfl fun start agree => ?_
  have state := free start
  have handOver : s.cu.handOver = .none := agree.handOver_none (by rintro releasing; simp [releasing] at state)
  have draft : s.tb.series = .draft :=
      agree.draft (by obtain idle | shadow := state <;> simp [*, CustodyState.holds])
  refine ⟨?_, ?_, fun _ => rfl, ?_, ?_⟩
  · simp [draft, CustodyState.holds]
  · simpa using handOver
  · simp [agree.settleAt_none (by simp [handOver])]
  · rintro p ⟨⟩
    exact state

/-- A node out of custody becomes IDLE or SHADOW (R151). -/
theorem Sound.setFree (h : Sound b s) (c : CustodyState) (now : s.cu.state = .idle ∨ s.cu.state = .shadow)
    (next : c = .idle ∨ c = .shadow) :
    Sound b (s.setCustody c) := by
  refine h.becomes ((Steady.refl _).setCustody _) rfl rfl fun _ agree => ?_
  have handOver : s.cu.handOver = .none := agree.handOver_none (by rintro releasing; simp [releasing] at now)
  exact coherent_free next (agree.draft (by obtain idle | shadow := now <;> simp [*, CustodyState.holds]))
      handOver
    (agree.claimAt_none (by rintro claiming; simp [claiming] at now)) (agree.settleAt_none (by simp [handOver]))
    fun _ held => agree.prior held

theorem Sound.setHold (h : Sound b s) (x : Bool) : Sound b (s.setHold x) := by
  refine .ite h (Sound.steady ?_ (Steady.refl _).stationReady)
  exact h.setCu fun _ agree => agree

/-- A gathering ends with nothing handed over: the node is ON_RECORD again (R152, R158). -/
theorem Sound.endGathering (h : Sound b s) (gathering : Coherent b → s.cu.handOver = .gathering) :
    Sound b ((s.setCu { s.cu with
      claims := [], settleAt := none, handOver := .none }).setCustody .onRecord) := by
  refine h.becomes ((Steady.refl _).setCustody _) rfl rfl fun start agree => ?_
  have state := agree.releasing (by simp [gathering start])
  exact coherent_onRecord rfl (agree.record (by simp [state, CustodyState.holds])) rfl
      (agree.claimAt_none (by simp [state])) rfl
    fun _ held => agree.prior held

theorem Sound.refuseGathered (h : Sound b s) (gathering : Coherent b → s.cu.handOver = .gathering) :
    Sound b s.refuseGathered := by
  have refused := (Steady.refl s).foldl (fun (t : State) (c : Claim) => t.refuse c.station .hold)
      (fun _ _ k => k.refuse _ _) s.cu.claims
  exact (h.steady refused).endGathering fun start => (congrArg Cu.handOver refused.cu).trans (gathering start)

theorem Sound.holdRequest (h : Sound b s) : Sound b s.holdRequest := by
  unfold State.holdRequest
  split
  next gathers =>
    refine (h.setHold true).refuseGathered fun _ => ?_
    unfold State.setHold
    split
    · exact gathers.2
    · simpa using gathers.2
  next => exact h.setHold true

/-- A request that applies finds the custody state it needs (the table of R151). -/
theorem Sound.carryOut (h : Sound b s) (q : CustodyRequest)
    (applies : q.appliesIn s.cu.state s.cu.handOver = true) :
    Sound b (s.carryOut q) := by
  cases q with
  | claim => exact h.beginClaim fun _ => by simpa [CustodyRequest.appliesIn] using applies
  | release =>
    unfold State.carryOut
    dsimp only
    split
    next holder => exact h.closeRecord fun _ => holder
    next other =>
      refine h.handOverToBest fun _ => ?_
      simp only [CustodyRequest.appliesIn, other, decide_false, Bool.false_or, Bool.and_eq_true,
          decide_eq_true_eq] at applies
      exact applies.2
  | enterShadow => exact h.setFree .shadow (.inl (by simpa [CustodyRequest.appliesIn] using applies)) (.inr rfl)
  | leaveShadow => exact h.setFree .idle (.inr (by simpa [CustodyRequest.appliesIn] using applies)) (.inl rfl)
  | hold => exact h.holdRequest
  | unhold => exact h.setHold false

theorem Sound.takeRequest (h : Sound b s) (q : CustodyRequest) : Sound b (s.takeRequest q) := by
  unfold State.takeRequest
  split
  next applies =>
    simp only [State.requestApplies, Bool.and_eq_true] at applies
    exact h.carryOut q applies.2
  next => exact h

/-! ### Claims at the holder (R157, R158) -/

theorem Sound.gatherClaim (h : Sound b s) (c : Claim) : Sound b (s.gatherClaim c) := by
  have joined : Sound b (s.setCu { s.cu with claims := s.cu.claims ++ [c] }) := h.setCu fun _ agree => agree
  unfold State.gatherClaim
  dsimp only
  split
  next holder =>
    refine joined.becomes (((Steady.refl _).withCu _).setCustody _) rfl rfl fun _ agree => ?_
    exact coherent_releasing rfl (agree.record (by simp [holder, CustodyState.holds])) (by simp)
      (agree.claimAt_none (by simp [holder])) (fun _ => rfl) fun _ held => agree.prior held
  next => exact joined

theorem Sound.judgeClaim (h : Sound b s) (c : Claim) : Sound b (s.judgeClaim c) := by
  have refused (r : RefuseReason) : Sound b (s.refuse c.station r) := h.steady ((Steady.refl s).refuse _ _)
  exact .ite (refused _) (.ite (refused _) (.ite (h.setCu fun _ agree => agree) (.ite h (h.gatherClaim c))))

theorem Sound.claimAtCu (h : Sound b s) (c : Claim) : Sound b (s.claimAtCu c) := by
  unfold State.claimAtCu
  refine .ite h ?_
  split
  next => exact h.judgeClaim c
  next => exact .ite (h.judgeClaim c) h
  next claiming => exact .ite (h.endClaim _ _ _ fun _ => claiming) h
  next => exact h

theorem Sound.dropClaim (h : Sound b s) (n : Nat) : Sound b (s.dropClaim n) := by
  obtain stays | ⟨left, leaves⟩ | ⟨gathering, ends⟩ := dropClaim_cases s n
  · rw [stays]
    exact h
  · rw [leaves]
    exact h.setCu fun _ agree => agree
  · rw [ends]
    exact h.endGathering fun _ => gathering

/-! ### RELEASE, REFUSE, STATION and conflict at the Custody Unit (R149, R155, R162 to R164) -/

theorem Sound.releaseAtCu (h : Sound b s) (r : ReleaseBody) : Sound b (s.releaseAtCu r) := by
  have closed : Sound b (s.closedByRelease r) := by
    rw [closedByRelease_eq]
    exact h.setCu fun _ agree => agree
  unfold State.releaseAtCu
  dsimp only
  refine .ite closed ?_
  split
  next =>
    split
    next => exact closed
    next free =>
      exact closed.becomeHolder _ _ _ _ _ fun _ releasing => free (by simp [releasing, CustodyState.holds])
  next =>
    split
    next claims => exact closed.endClaim _ _ _ fun _ => claims.1
    next => exact closed

theorem Sound.refuseAtCu (h : Sound b s) (f : RefuseBody) : Sound b (s.refuseAtCu f) := by
  unfold State.refuseAtCu
  split
  next claims => exact h.endClaim _ _ _ fun _ => claims.2.1
  next => exact h

theorem Sound.yieldTo (h : Sound b s) (n : Nat) (holds : s.cu.state.holds = true) : Sound b (s.yieldTo n) := by
  have drafted := (Steady.refl s).commitAllLines.switchToDraft
  refine h.becomes (((drafted.withCu _).setCustody _).latch _) rfl rfl fun _ agree => ?_
  refine coherent_free (.inr rfl) rfl rfl ?_ rfl fun p held => agree.prior (p := p) ?_
  · simpa only [State.setCu_cu, drafted.cu, State.inSeries_cu] using agree.claimAt_none
        (by rintro claiming; simp [claiming, CustodyState.holds] at holds)
  · simpa only [State.setCu_cu, drafted.cu, State.inSeries_cu] using held

theorem Sound.stationAtCu (h : Sound b s) (q : RosterSlot) : Sound b (s.stationAtCu q) := by
  have heard : Sound b (if q.state = .admitted ∧ q.custody = .onRecord then
      s.setCu { s.cu with recordClosed := false } else s) :=
    .ite (h.setCu fun _ agree => agree) h
  have listed := Sound.ite (c := q.custody ≠ .claiming ∨ q.state ≠ .admitted) (heard.dropClaim q.station) heard
  exact Sound.cases (fun ⟨_, _, holds, _⟩ => listed.yieldTo _ holds) fun _ => listed

theorem outOfRecord_leaves (s : State) : s.outOfRecord.mem = s.mem ∧ s.outOfRecord.pending = s.pending := by
  have drafted := (Steady.refl s).commitAllLines.switchToDraft
  unfold State.outOfRecord
  split
  next => exact ⟨drafted.mem, drafted.pending⟩
  next => exact ⟨rfl, rfl⟩

theorem madeIdle_leaves (s : State) : s.madeIdle.mem = s.mem ∧ s.madeIdle.pending = s.pending := by
  obtain ⟨mem, pending⟩ := outOfRecord_leaves s
  have reported := (Steady.refl s.claimsEnded).setCustody .idle
  unfold State.madeIdle
  split
  next => exact ⟨mem, pending⟩
  next => exact ⟨reported.mem.trans mem, reported.pending.trans pending⟩

theorem Coherent.madeIdle (h : Coherent s) : Coherent s.madeIdle := by
  have draft : s.outOfRecord.tb.series = .draft := by
    cases holds : s.cu.state.holds with
    | true => exact outOfRecord_draft holds
    | false =>
      rw [State.outOfRecord, if_neg (by simp [holds])]
      exact h.draft holds
  refine coherent_free ?_ ((congrArg Tb.series (madeIdle_tb s)).trans draft) ?_ ?_ ?_ ?_ <;> simp [madeIdle_cu]

theorem Sound.conflictAtCu (h : Sound b s) : Sound b s.conflictAtCu := by
  obtain ⟨mem, pending⟩ := madeIdle_leaves s
  rw [conflictAtCu_eq]
  exact h.becomes (.ite ((Steady.refl _).latch _) (Steady.refl _)) mem pending fun _ agree => agree.madeIdle

/-! ### Roster and deliveries -/

theorem Sound.takeStation (h : Sound b s) (i : Nat) (q : RosterSlot) (f : StationBody) (replaced : Bool) :
    Sound b (s.takeStation i q f replaced) := by
  have noted := (((Steady.refl s).setSlot i
      (some (q.taken f s.pub.signature s.clock.ms (s.after (1000 * s.cfg.lapseTime))))).setVw
    (s.vw.setMark i .none)).rosterEvent q (q.taken f s.pub.signature s.clock.ms
        (s.after (1000 * s.cfg.lapseTime)))
  exact ((h.steady (.ite noted.reshare noted)).stationAtCu _).steady (Steady.refl _).follow

theorem Sound.stationOfOther (h : Sound b s) (f : StationBody) : Sound b (s.stationOfOther f) := by
  unfold State.stationOfOther
  split
  · split
    · exact h.takeStation _ _ _ _
    · exact h
  · split
    · exact h.takeStation _ _ _ _
    · split
      · split
        · exact (h.steady ((Steady.refl s).removeSlot _ _)).takeStation _ _ _ _
        · exact h
      · exact h.steady ((Steady.refl s).setRoster _)

theorem Sound.stationConflict (h : Sound b s) : Sound b s.stationConflict := by
  have told := h.steady ((Steady.refl s).latch (.stationConflict s.own))
  have marked : Sound b s.conflictSet := told.setCu fun _ agree => agree
  exact .ite told (marked.steady ((Steady.refl _).conflictAtLnc.conflictAtPub.setVw _)).conflictAtCu

theorem Sound.stationAtRoster (h : Sound b s) (f : Frame) : Sound b (s.stationAtRoster f) := by
  unfold State.stationAtRoster
  split
  · exact h
  · exact .ite h.stationConflict (.ite h (h.stationOfOther _))

theorem Sound.tellLeft (h : Sound b s) (n : Nat) : Sound b (s.tellLeft n) :=
  ((h.steady (Steady.refl s).reshare).dropClaim n).steady (Steady.refl _).follow

theorem Sound.lapseExpiry (h : Sound b s) (i : Nat) : Sound b (s.lapseExpiry i) := by
  unfold State.lapseExpiry
  split
  · exact h
  · split
    · exact h
    · exact ((h.steady ((((Steady.refl s).reachMs _).setSlot _ _).setVw _ |>.latch _)).tellLeft _).offered

theorem Sound.freeExpiry (h : Sound b s) (i : Nat) : Sound b (s.freeExpiry i) := by
  unfold State.freeExpiry
  split
  · exact h
  · split
    · exact h
    · exact ((h.steady (((Steady.refl s).reachMs _).removeSlot _ _)).tellLeft _).offered

theorem Sound.deliver (h : Sound b s) (k : FrameKind) (take : State → Frame → State)
    (taken : ∀ t f, Sound b t → Sound b (take t f)) :
    Sound b (s.deliver k take) := by
  unfold State.deliver
  split
  · exact h
  · exact .ite (taken _ _ (h.steady ((Steady.refl s).setLnc _))) h

theorem Sound.takeBody {α : Type} (h : Sound b s) (body : Option α) (take : State → α → State)
    (taken : ∀ x, Sound b (take s x)) : Sound b (s.takeBody body take) := by
  unfold State.takeBody
  split
  · exact taken _
  · exact h

theorem Sound.refreshSlot (h : Sound b s) (n : Nat) : Sound b (s.refreshSlot n) :=
    h.steady ((Steady.refl s).refreshSlot n)

theorem Sound.deliverStation (h : Sound b s) : Sound b s.deliverStation :=
  h.deliver _ _ fun _ f k => (k.stationAtRoster f).offered

theorem Sound.deliverClaim (h : Sound b s) : Sound b s.deliverClaim :=
  h.deliver _ _ fun _ _ k => ((k.refreshSlot _).takeBody _ _ fun c => (k.refreshSlot _).claimAtCu c).offered

theorem Sound.deliverRelease (h : Sound b s) : Sound b s.deliverRelease :=
  h.deliver _ _ fun _ _ k => ((k.refreshSlot _).takeBody _ _ fun r =>
    ((k.refreshSlot _).releaseAtCu r).steady ((Steady.refl _).releaseAtViewer r)).offered

theorem Sound.deliverRefuse (h : Sound b s) : Sound b s.deliverRefuse :=
  h.deliver _ _ fun _ _ k => (k.takeBody _ _ fun f => k.refuseAtCu f).offered

theorem Sound.deliverDefine (h : Sound b s) : Sound b s.deliverDefine :=
  h.deliver _ _ fun _ f k => (k.refreshSlot _).steady ((Steady.refl _).defineAtDu f)

theorem Sound.deliverAsk (h : Sound b s) : Sound b s.deliverAsk :=
  h.deliver _ _ fun t _ k => (k.takeBody _ _ fun a => k.steady ((Steady.refl t).takeAsk a)).steady
      (Steady.refl _).choose

theorem Sound.deliverTail (h : Sound b s) : Sound b s.deliverTail :=
  h.deliver _ _ fun _ _ k => ((k.refreshSlot _).takeBody _ _ fun x =>
    (k.refreshSlot _).steady ((Steady.refl _).tailAtViewer x)).steady (Steady.refl _).compose

theorem Sound.deliverLine (h : Sound b s) : Sound b s.deliverLine :=
  h.deliver _ _ fun _ _ k => ((k.refreshSlot _).takeBody _ _ fun l =>
    (k.refreshSlot _).steady ((Steady.refl _).lineAtViewer l)).steady (Steady.refl _).compose

/-! ### The custody timers and COMMIT_ALL (R94, R156, R159) -/

theorem Coherent.claiming (h : Coherent s) {e : Ms} (runs : s.cu.claimAt = some e) :
    s.cu.state = .claiming := by
  obtain ⟨-, -, claiming, -, -⟩ := h
  exact claiming (by simp [runs])

theorem Coherent.gathering (h : Coherent s) {e : Ms} (runs : s.cu.settleAt = some e) :
    s.cu.handOver = .gathering := by
  obtain ⟨-, -, -, settling, -⟩ := h
  exact settling (by simp [runs])

theorem sound_claimExpiry (s : State) : Sound s s.claimExpiry := by
  unfold State.claimExpiry
  split
  · exact Sound.refl s
  next e runs =>
    have reached := ((Steady.refl s).reachMs e).sound
    have state (agree : Coherent s) : (s.reachMs e).cu.state = .claiming := by simpa using agree.claiming runs
    refine Sound.offered ?_
    split
    · exact reached.endClaim _ _ _ state
    · exact reached.takeOver fun agree => by simp only [state agree, ne_eq, reduceCtorEq, not_false_eq_true]

theorem Sound.commitAll (h : Sound b s) : Sound b s.commitAll := by
  have taken : Sound b (s.setCu { s.cu with commitAllDue := false }) := h.setCu fun _ agree => agree
  have committed := taken.steady (Steady.refl _).commitAllLines
  refine .ite (Sound.offered ?_) h
  split
  next n handing => exact committed.completeRelease _ fun _ => ⟨n, handing⟩
  next => exact committed

/-! ### Translation Engine -/

theorem Sound.flushIfDone (h : Sound b s) : Sound b s.flushIfDone :=
    .ite (h.steady ((Steady.refl s).setTe _)).flushReport h

theorem Sound.afterUnit (h : Sound b s) (k : Nat) : Sound b (s.afterUnit k) := by
  have left := (Steady.refl s).setTe
    { (s.te.walkAgain (s.te.pendingBuf.drop k)) with
        demand := if s.te.demand = .one then .none else s.te.demand }
  refine Sound.flushIfDone (h.steady ?_)
  split
  · exact .ite (left.dropWork _) left
  · exact left

theorem Sound.emitTranslation (h : Sound b s) (k : Nat) (x : List Byte) : Sound b (s.emitTranslation k x) := by
  have handed : Sound b (s.handMarks x) := h.foldl _ (fun _ q m => m.takeRequest q) _
  exact .ite ((handed.steady ((Steady.refl _).setTe _)).afterUnit k)
      ((handed.steady ((Steady.refl _).emitUnit _)).afterUnit k)

theorem Sound.resolveAction (h : Sound b s) : Sound b s.resolveAction := by
  unfold State.resolveAction
  split
  · exact (h.steady ((Steady.refl s).emitUnit _)).afterUnit 1
  · split
    · exact h.emitTranslation _ _
    · exact h.steady (((Steady.refl s).setTe _).request _ _)

theorem Sound.teNext (h : Sound b s) (next : s.teNext = some t) : Sound b t := by
  have rewalk : Sound b s.rewalk := h.steady ((Steady.refl s).setTe _)
  unfold State.teNext at next
  split at next
  · cases next
  · split at next
    · cases next
    · split at next
      · cases next; exact rewalk
      · split at next
        · cases next
        · cases next; exact h.steady ((Steady.refl s).setTe _)
    · split at next
      · cases next; exact rewalk
      · cases next; exact h.steady (Steady.refl s).stepAction
    · split at next
      · cases next; exact rewalk
      · cases next; exact h.resolveAction

theorem Sound.teActions (n : Nat) (h : Sound b s) : Sound b (State.teActions n s) := by
  induction n generalizing s with
  | zero => exact h
  | succ n ih =>
    unfold State.teActions
    split
    next t acted => exact ih (h.teNext acted)
    next => exact h

theorem Sound.teRun (h : Sound b s) : Sound b s.teRun := h.teActions 512

theorem Sound.settled (h : Sound b s) : Sound b ((s.teRun).choose).compose := h.teRun.offered

theorem Sound.takeStroke (h : Sound b s) : Sound b s.takeStroke := by
  unfold State.takeStroke
  split
  · exact h
  · exact .ite (h.steady ((((Steady.refl s).setSq _).setTe _).startStroke _)).settled h

theorem Sound.walkReadEnd (h : Sound b s) : Sound b s.walkReadEnd := by
  unfold State.walkReadEnd
  split
  · exact h
  · exact ((h.endOperation _).steady ((Steady.refl _).walkData _)).settled

theorem Sound.retrReadEnd (h : Sound b s) : Sound b s.retrReadEnd := by
  unfold State.retrReadEnd
  split
  · exact h
  · exact (h.endOperation _).steady ((Steady.refl _).retrData _)

theorem Sound.resolveExpiry (h : Sound b s) : Sound b s.resolveExpiry := by
  unfold State.resolveExpiry
  split
  · exact h
  · exact (h.steady (((Steady.refl s).reachMs _).setTe _)).settled

theorem sound_settleExpiry (s : State) : Sound s s.settleExpiry := by
  unfold State.settleExpiry
  split
  · exact Sound.refl s
  next e runs =>
    have reached := ((Steady.refl s).reachMs e).sound
    have stopped : Sound s ((s.reachMs e).setCu { (s.reachMs e).cu with settleAt := none }) := by
      refine reached.setCu fun _ agree => ?_
      obtain ⟨series, handing, claiming, -, prior⟩ := agree
      exact ⟨series, handing, claiming, by simp, prior⟩
    exact (stopped.handOverToBest fun agree => by simpa using agree.gathering runs).settled

/-! ### Definition Unit and GO -/

theorem Sound.fenceComplete (h : Sound b s) : Sound b s.fenceComplete := by
  unfold State.fenceComplete
  split
  next e ref v rest _ =>
    have fenced := ((Steady.refl s).fence (.strokeLayer v 0)).setDu { s.du with work := .finish e ref rest }
    exact .ite (h.steady (fenced.finishEntry _ _)).settled (h.steady fenced)
  next => exact h

/-- GO completes with custody as reset left it and in DRAFT (R104, R166). -/
theorem Sound.goComplete (h : Sound b s) : Sound b s.goComplete := by
  have blocks : Steady ((s.setTb s.tb.atGo).setCu Cu.atGo) s.blocksAtGo := ⟨rfl, rfl, rfl, rfl⟩
  rw [goComplete_eq]
  have online := ((blocks.publisherAtGo.viewerAtGo).reply .ok []).choose
  exact h.becomes online rfl rfl fun _ _ => coherent_free (.inl rfl) rfl rfl rfl rfl (by rintro p ⟨⟩)

theorem Sound.goCountsOn (h : Sound b s) (todo : List PlannedWrite) : Sound b (s.goCountsOn todo) := by
  unfold State.goCountsOn
  split
  · exact h.steady (((Steady.refl s).setDu _).request _ _)
  · exact h.goComplete

theorem Sound.scanOut (h : Sound b s) (o : ScanOut) : Sound b (s.scanOut o) := by
  cases o with
  | read a n sc => exact h.steady (((Steady.refl s).setDu _).request _ _)
  | fault d => exact h.steady (((Steady.refl s).latch _).goFails _)
  | done sc => exact (h.steady ((Steady.refl s).setDu _)).goCountsOn _

theorem Sound.goDirectory (h : Sound b s) (got : List Byte) : Sound b (s.goDirectory got) :=
  have fails (r : GoReason) : Sound b (s.goFails r) := h.steady ((Steady.refl s).goFails r)
  .ite (h.steady (((Steady.refl s).setDu _).request _ _))
    (.ite (fails _) (.ite (fails _) ((h.steady ((Steady.refl s).setDu _)).scanOut _)))

theorem Sound.defOperationEnd (h : Sound b s) : Sound b s.defOperationEnd := by
  unfold State.defOperationEnd
  split
  · exact h
  next r _ =>
    have ended := h.endOperation r
    unfold State.duData
    split
    · exact ended.steady ((Steady.refl _).planLookup _ _ _)
    · exact ended.steady (((Steady.refl _).setDu _).writeOn _ _ _)
    · exact ended.goDirectory _
    · exact ended.scanOut _
    · exact ended.goCountsOn _
    · exact ended

/-! ### Resets -/

/-- A full reset ends custody, and memory is served to the end of the operation in service at the most (R16,
R58). -/
theorem sound_fullReset (s : State) (src : ResetSource) : Sound s (s.fullReset src) := by
  refine ⟨fun wf => ?_, fun _ => coherent_free (.inl rfl) rfl rfl rfl rfl (by rintro p ⟨⟩), rfl⟩
  cases src with
  | powerUp => exact wf
  | pin => exact wf_memAtReset s wf

theorem Sound.restarted (h : Sound b s) : Sound b s.restarted :=
  ⟨fun wf => wf_memAtReset s (h.mem wf), fun _ => coherent_free (.inl rfl) rfl rfl rfl rfl (by rintro p ⟨⟩),
      h.pending⟩

/-! ### Host commands -/

theorem Sound.reply (h : Sound b s) (c : ReplyCode) (d : List Byte) : Sound b (s.reply c d) :=
    h.steady ((Steady.refl s).reply c d)

theorem Sound.checked {α : Type} (h : Sound b s) (p : Option α) (run : State → α → State)
    (ran : ∀ x, Sound b (run s x)) :
    Sound b (s.checked p run) := by
  unfold State.checked
  split
  · exact ran _
  · exact h.reply _ _

/-- A command transaction is sound where its running is. -/
theorem Sound.takeCommand (h : Sound b s) (code : Byte) (ps : List Byte) (run : State → State)
    (ran : ∀ t, Sound b t → Sound b (run t)) : Sound b (s.takeCommand code ps run) :=
  have taken : Sound b (s.taking code ps) := h.steady ((Steady.refl s).taking code ps)
  .ite (h.steady ((Steady.refl s).give _)) (.ite (taken.reply _ _) (.ite (ran _ taken) (taken.reply _ _)))

/-- A command whose running, once its parameters are sound, is steady. -/
theorem Sound.steadyCommand {α : Type} (h : Sound b s) (code : Byte) (ps : List Byte) (p : Option α)
    (run : State → α → State)
    (ran : ∀ t x, Steady t (run t x)) : Sound b (s.takeCommand code ps fun t => t.checked p run) :=
  h.takeCommand code ps _ fun _ k => k.checked p run fun x => k.steady (ran _ x)

theorem Steady.loadOn (h : Steady b s) (a : Nat) (left : List Byte) : Steady b (s.loadOn a left) :=
  .ite ((h.setLcp _).reply _ _) ((h.setLcp _).request _ _)

theorem Steady.readOn (h : Steady b s) (a n : Nat) (got : List Byte) : Steady b (s.readOn a n got) :=
  .ite ((h.setLcp _).reply _ _) ((h.setLcp _).request _ _)

theorem Sound.exportOperationEnd (h : Sound b s) : Sound b s.exportOperationEnd := by
  unfold State.exportOperationEnd
  split
  · exact h
  next r _ =>
    refine (h.endOperation r).steady ?_
    unfold State.exportData
    split
    · exact (Steady.refl _).loadOn _ _
    · exact (Steady.refl _).readOn _ _ _
    · exact Steady.refl _

theorem Steady.responseRead (h : Steady b s) (n : Nat) : Steady b (s.responseRead n) := by
  unfold State.responseRead
  split
  · exact .ite ((h.give _).setLcp _) (h.give _)
  · exact h.give _

theorem Steady.configureWith (h : Steady b s) (g : Settings) : Steady b (s.configureWith g) :=
    ((h.setLcp _).setKcu _).reply _ _

theorem Steady.queueEntry (h : Steady b s) (e : DefEntry) : Steady b (s.queueEntry e) :=
    .ite ((h.setDu _).reply _ _) (h.reply _ _)

theorem Steady.setPane (h : Steady b s) (p : Bool × PaneSource × Nat × Bool) : Steady b (s.setPane p) :=
  (((h.setVw _).setVw _).compose).reply _ _

theorem Steady.giveLines (h : Steady b s) (auto : Bool) (n : Nat) : Steady b (s.giveLines auto n) :=
    (h.setLcp _).reply _ _

theorem Steady.giveNotes (h : Steady b s) (auto : Bool) (n : Nat) : Steady b (s.giveNotes auto n) :=
  have moved : Steady b (if auto then
      s.setNotes { s.notes with unexported := s.notes.unexported - (s.notes.waiting.take n).length } else s) :=
    .ite (h.setNotes _) h
  moved.reply _ _

theorem Steady.giveEvent (h : Steady b s) : Steady b s.giveEvent := by
  unfold State.giveEvent
  split
  · exact (h.setLcp _).reply _ _
  · exact h.reply _ _

theorem Sound.go (h : Sound b s) (ps : List Byte) : Sound b (s.go ps) := by
  refine h.takeCommand _ _ _ fun t k => k.checked _ _ fun _ => ?_
  unfold State.goTaken
  split
  · exact k.reply _ _
  · exact k.goDirectory _

theorem Sound.restart (h : Sound b s) (ps : List Byte) : Sound b (s.restart ps) :=
  h.takeCommand _ _ _ fun _ k => k.checked _ _ fun _ => k.restarted

theorem Sound.flushCache (h : Sound b s) (selector : Byte) (rs : List Byte) (f : Option FenceScope) :
    Sound b (s.flushCache selector rs f) :=
  h.takeCommand _ _ _ fun t k => k.checked _ _ fun f =>
    .ite (k.reply _ _) (k.steady (((Steady.refl t).fence f).raiseGeneration.reply _ _)).settled

theorem Sound.custodyCommand (h : Sound b s) (selector : Byte) (rs : List Byte) (q : CustodyRequest) :
    Sound b (s.custody selector rs q) := by
  refine h.takeCommand _ _ _ fun t k => k.checked _ _ fun _ => ?_
  have flushed : Sound b ((t.takeRequest q).flushFor q) := by
    unfold State.flushFor
    split
    · exact (k.takeRequest _).teRun
    · exact k.takeRequest _
  exact .ite (flushed.reply _ _).offered (k.reply _ _)

/-! ## Every command -/

/-- Every command answers a next state, and is sound. -/
theorem exec_sound (c : Instr) (s : State) : ∃ t, exec c s = .next t ∧ Sound s t := by
  have start := Sound.refl s
  have still := Steady.refl s
  cases c with
  | fullReset src => exact ⟨_, rfl, sound_fullReset s src⟩
  | rawLevelChange n down => exact ⟨_, rfl, (still.rawLevelChange n down).sound⟩
  | settlingTimerExpiry n => exact ⟨_, rfl, (still.settlingExpiry n).sound⟩
  | stuckTimerExpiry n => exact ⟨_, rfl, (still.stuckExpiry n).sound⟩
  | takeStroke => exact ⟨_, rfl, start.takeStroke⟩
  | walkReadEnd => exact ⟨_, rfl, start.walkReadEnd⟩
  | resolveTimerExpiry => exact ⟨_, rfl, start.resolveExpiry⟩
  | retrReadEnd => exact ⟨_, rfl, start.retrReadEnd⟩
  | matchCheck => exact ⟨_, rfl, still.matchCheck.sound⟩
  | replacement => exact ⟨_, rfl, still.replacement.sound⟩
  | duServiceStart => exact ⟨_, rfl, still.duServiceStart.sound⟩
  | defOperationEnd => exact ⟨_, rfl, start.defOperationEnd⟩
  | exportOperationEnd => exact ⟨_, rfl, start.exportOperationEnd⟩
  | characterReceived heading x ok => exact ⟨_, rfl, (still.characterReceived heading x ok).sound⟩
  | frameEndBySilence => exact ⟨_, rfl, still.frameEnd.sound⟩
  | turnaroundGuardExpiry => exact ⟨_, rfl, still.guardExpiry.sound⟩
  | transmitStart => exact ⟨_, rfl, still.transmitStart.sound⟩
  | creditReach => exact ⟨_, rfl, still.creditReach.sound⟩
  | deliverStation => exact ⟨_, rfl, start.deliverStation⟩
  | deliverClaim => exact ⟨_, rfl, start.deliverClaim⟩
  | deliverRelease => exact ⟨_, rfl, start.deliverRelease⟩
  | deliverRefuse => exact ⟨_, rfl, start.deliverRefuse⟩
  | deliverDefine => exact ⟨_, rfl, start.deliverDefine⟩
  | deliverAsk => exact ⟨_, rfl, start.deliverAsk⟩
  | deliverTail => exact ⟨_, rfl, start.deliverTail⟩
  | deliverLine => exact ⟨_, rfl, start.deliverLine⟩
  | beaconTimerExpiry => exact ⟨_, rfl, still.beaconExpiry.sound⟩
  | refreshTimerExpiry => exact ⟨_, rfl, still.refreshExpiry.sound⟩
  | lapseTimerExpiry i => exact ⟨_, rfl, start.lapseExpiry i⟩
  | freeTimerExpiry i => exact ⟨_, rfl, start.freeExpiry i⟩
  | claimTimerExpiry => exact ⟨_, rfl, sound_claimExpiry s⟩
  | settleTimerExpiry => exact ⟨_, rfl, sound_settleExpiry s⟩
  | commitAll => exact ⟨_, rfl, start.commitAll⟩
  | gapTimerExpiry n => exact ⟨_, rfl, (still.gapExpiry n).sound⟩
  | rowSendStart => exact ⟨_, rfl, still.rowSendStart.sound⟩
  | busyChange high => exact ⟨_, rfl, (still.busyChange high).sound⟩
  | rowSendComplete => exact ⟨_, rfl, still.rowSendComplete.sound⟩
  | commandTakeBusy code ps => exact ⟨_, rfl, .ite (still.give _).sound start⟩
  | responseRead clocked => exact ⟨_, rfl, (still.responseRead clocked).sound⟩
  | unknownCommand code ps => exact ⟨_, rfl, start.takeCommand _ _ _ fun _ k => k.reply _ _⟩
  | configure ps => exact ⟨_, rfl, start.steadyCommand _ _ _ _ fun t g => (Steady.refl t).configureWith g⟩
  | load ps => exact ⟨_, rfl, start.steadyCommand _ _ _ _ fun t _ => (Steady.refl t).loadOn _ _⟩
  | readDict ps => exact ⟨_, rfl, start.steadyCommand _ _ _ _ fun t _ => (Steady.refl t).readOn _ _ _⟩
  | go ps => exact ⟨_, rfl, start.go ps⟩
  | restart ps => exact ⟨_, rfl, start.restart ps⟩
  | define ps => exact ⟨_, rfl, start.steadyCommand _ _ _ _ fun t _ => (Steady.refl t).queueEntry _⟩
  | forget ps => exact ⟨_, rfl, start.steadyCommand _ _ _ _ fun t _ => (Steady.refl t).queueEntry _⟩
  | flushCacheAll rs => exact ⟨_, rfl, start.flushCache 0 rs _⟩
  | flushCacheLayer rs => exact ⟨_, rfl, start.flushCache 1 rs _⟩
  | flushCacheStroke rs => exact ⟨_, rfl, start.flushCache 2 rs _⟩
  | flushCacheStrokeLayer rs => exact ⟨_, rfl, start.flushCache 3 rs _⟩
  | custodyClaim rs => exact ⟨_, rfl, start.custodyCommand 0 rs _⟩
  | custodyRelease rs => exact ⟨_, rfl, start.custodyCommand 1 rs _⟩
  | custodyEnterShadow rs => exact ⟨_, rfl, start.custodyCommand 2 rs _⟩
  | custodyLeaveShadow rs => exact ⟨_, rfl, start.custodyCommand 3 rs _⟩
  | custodyHold rs => exact ⟨_, rfl, start.custodyCommand 4 rs _⟩
  | custodyUnhold rs => exact ⟨_, rfl, start.custodyCommand 5 rs _⟩
  | pane ps => exact ⟨_, rfl, start.steadyCommand _ _ _ _ fun t p => (Steady.refl t).setPane p⟩
  | readLinesAuto rs => exact ⟨_, rfl, start.steadyCommand _ _ _ _ fun t n => (Steady.refl t).giveLines true n⟩
  | readLinesPeek rs => exact ⟨_, rfl, start.steadyCommand _ _ _ _ fun t n => (Steady.refl t).giveLines false n⟩
  | readNotesAuto rs => exact ⟨_, rfl, start.steadyCommand _ _ _ _ fun t n => (Steady.refl t).giveNotes true n⟩
  | readNotesPeek rs => exact ⟨_, rfl, start.steadyCommand _ _ _ _ fun t n => (Steady.refl t).giveNotes false n⟩
  | readStatus ps => exact ⟨_, rfl, start.steadyCommand _ _ _ _ fun t _ =>
      ((Steady.refl t).updateCredit.reply _ _).choose⟩
  | readRoster ps => exact ⟨_, rfl, start.steadyCommand _ _ _ _ fun t _ => (Steady.refl t).reply _ _⟩
  | readEvent ps => exact ⟨_, rfl, start.steadyCommand _ _ _ _ fun t _ => (Steady.refl t).giveEvent⟩
  | setMask ps => exact ⟨_, rfl, start.steadyCommand _ _ _ _ fun t _ => ((Steady.refl t).setLcp _).reply _ _⟩
  | fenceComplete => exact ⟨_, rfl, start.fenceComplete⟩
  | startBitSeen atStart => exact ⟨_, rfl, (still.startBitSeen atStart).sound⟩
  | shortCommandTransaction sent => exact ⟨_, rfl, (still.give _).sound⟩

/-- A step keeps memory's form and the agreement of custody, and takes at most the front command from the
queue. -/
theorem step_sound (s : State) : ∃ t, step s = .next t ∧ Sound (s.setPending s.pending.tail) t := by
  unfold step
  split
  next idle =>
    have passes : Steady (s.setPending s.pending.tail) (s.advance 1) :=
      ⟨rfl, rfl, rfl, by rw [(frame_advance s 1).pending, State.setPending_pending, idle, List.tail_nil]⟩
    exact ⟨_, rfl, passes.sound⟩
  next c rest queued =>
    rw [queued]
    exact exec_sound c (s.setPending rest)

end Sys2Proof.Machine

open Sys2Proof Sys2Proof.Machine

/-- Settles O6: what a step does to memory is to serve an operation (`wf_served`), and every other work leaves
it alone. -/
theorem memoryKeepsItsForm : Obligations.MemoryKeepsItsForm := by
  unfold Obligations.MemoryKeepsItsForm
  intro s t wf stepped
  obtain ⟨u, ran, sound⟩ := step_sound s
  cases ran.symm.trans stepped
  exact sound.mem wf

/-- Settles O8: custody state, series, hand-over and timers change together in the Custody Unit's own work, and
in no other. -/
theorem custodyStaysCoherent : Obligations.CustodyStaysCoherent := by
  unfold Obligations.CustodyStaysCoherent
  intro s t agree stepped
  obtain ⟨u, ran, sound⟩ := step_sound s
  cases ran.symm.trans stepped
  exact sound.custody agree

/-- Settles O3. -/
theorem everyCommandCompletes : Obligations.EveryCommandCompletes := by
  unfold Obligations.EveryCommandCompletes
  refine ⟨fun c s => ?_, fun s => ?_⟩
  · obtain ⟨t, ran, sound⟩ := exec_sound c s
    exact ⟨t, ran, sound.pending⟩
  · obtain ⟨t, ran, sound⟩ := step_sound s
    exact ⟨t, ran, sound.pending⟩
end

section
/-! SUPPORT. What the host port owes for its command in flight, and how each work changes it (R185); with it
O9. -/

namespace Sys2Proof.Machine

variable {s t : State} {xs : List Part} {f r j g : Bool}

/-! ## What the port holds -/

/-- Whether a command is in flight, a response READY, an EXPORT job in hand, the work of a GO in hand. -/
structure PortIs (inFlight response job go : Bool) (s : State) : Prop where
  inFlight : s.lcp.inFlight.isSome = inFlight
  response : s.lcp.response.isSome = response
  job : s.lcp.job.isSome = job
  go : s.du.work.isGo = go

/-- No command is in flight, and nothing is owed. -/
abbrev PortIdle (s : State) : Prop := PortIs false false false false s

/-- A command has been taken, and nothing is owed for it yet. -/
abbrev PortTaken (s : State) : Prop := PortIs true false false false s

abbrev PortAnswered (s : State) : Prop := PortIs true true false false s

abbrev PortExporting (s : State) : Prop := PortIs true false true false s

abbrev PortGoing (s : State) : Prop := PortIs true false false true s

theorem one_owed_iff : ∀ f r j g : Bool, r.toNat + j.toNat + g.toNat = f.toNat ↔
    (f = false ∧ r = false ∧ j = false ∧ g = false) ∨ (f = true ∧ r = true ∧ j = false ∧ g = false)
    ∨ (f = true ∧ r = false ∧ j = true ∧ g = false) ∨ (f = true ∧ r = false ∧ j = false ∧ g = true) := by decide

theorem portIs_iff : PortIs f r j g s ↔ s.lcp.inFlight.isSome = f ∧ s.lcp.response.isSome = r ∧
    s.lcp.job.isSome = j
    ∧ s.du.work.isGo = g := ⟨fun ⟨a, b, c, d⟩ => ⟨a, b, c, d⟩, fun ⟨a, b, c, d⟩ => ⟨a, b, c, d⟩⟩

/-- The port is coherent in four ways: idle, answered, exporting, or at work on a GO. -/
theorem portCoherent_iff : PortCoherent s ↔ PortIdle s ∨ PortAnswered s ∨ PortExporting s ∨ PortGoing s := by
  simp only [PortCoherent, one_owed_iff, portIs_iff]

theorem PortAnswered.coherent (h : PortAnswered s) : PortCoherent s := portCoherent_iff.mpr (.inr (.inl h))

theorem PortExporting.coherent (h : PortExporting s) : PortCoherent s :=
    portCoherent_iff.mpr (.inr (.inr (.inl h)))

theorem PortGoing.coherent (h : PortGoing s) : PortCoherent s := portCoherent_iff.mpr (.inr (.inr (.inr h)))

theorem PortCoherent.idle (h : PortCoherent s) (free : s.lcp.inFlight.isSome = false) : PortIdle s := by
  obtain idle | answered | exporting | going := portCoherent_iff.mp h
  · exact idle
  · exact absurd answered.inFlight (by simp [free])
  · exact absurd exporting.inFlight (by simp [free])
  · exact absurd going.inFlight (by simp [free])

theorem PortCoherent.answered (h : PortCoherent s) (ready : s.lcp.response.isSome = true) : PortAnswered s := by
  obtain idle | answered | exporting | going := portCoherent_iff.mp h
  · exact absurd idle.response (by simp [ready])
  · exact answered
  · exact absurd exporting.response (by simp [ready])
  · exact absurd going.response (by simp [ready])

theorem PortCoherent.exporting (h : PortCoherent s) (job : s.lcp.job.isSome = true) : PortExporting s := by
  obtain idle | answered | exporting | going := portCoherent_iff.mp h
  · exact absurd idle.job (by simp [job])
  · exact absurd answered.job (by simp [job])
  · exact exporting
  · exact absurd going.job (by simp [job])

theorem PortCoherent.going (h : PortCoherent s) (go : s.du.work.isGo = true) : PortGoing s := by
  obtain idle | answered | exporting | going := portCoherent_iff.mp h
  · exact absurd idle.go (by simp [go])
  · exact absurd answered.go (by simp [go])
  · exact absurd exporting.go (by simp [go])
  · exact going

/-! ## Work outside the port -/

/-- Work that leaves the port but for its latches, and begins or ends no GO. -/
theorem PortIs.served (h : PortIs f r j g s) (k : SameBut xs s t) (port : Part.lcp ∉ xs)
    (go : t.du.work.isGo = s.du.work.isGo) :
    PortIs f r j g t where
  inFlight := (congrArg (fun l : Lcp => l.inFlight.isSome) (k.port port)).trans h.inFlight
  response := (congrArg (fun l : Lcp => l.response.isSome) (k.port port)).trans h.response
  job := (congrArg (fun l : Lcp => l.job.isSome) (k.port port)).trans h.job
  go := go.trans h.go

theorem PortIs.frame (h : PortIs f r j g s) (k : SameBut xs s t) (port : Part.lcp ∉ xs) (du : Part.du ∉ xs) :
    PortIs f r j g t :=
  h.served k port (by rw [k.du du])

theorem PortCoherent.served (h : PortCoherent s) (k : SameBut xs s t) (port : Part.lcp ∉ xs)
    (go : t.du.work.isGo = s.du.work.isGo) : PortCoherent t := by
  rw [portCoherent_iff] at h ⊢
  exact h.imp (·.served k port go)
      (Or.imp (·.served k port go) (Or.imp (·.served k port go) (·.served k port go)))

theorem PortCoherent.frame (h : PortCoherent s) (k : SameBut xs s t) (port : Part.lcp ∉ xs)
    (du : Part.du ∉ xs) : PortCoherent t :=
  h.served k port (by rw [k.du du])

theorem PortIs.setDu (h : PortIs f r j g s) (x : Du) : PortIs f r j x.work.isGo (s.setDu x) :=
    ⟨h.inFlight, h.response, h.job, rfl⟩

/-! ## Answers -/

theorem PortIs.reply (h : PortIs f r j g s) (c : ReplyCode) (d : List Byte) : PortIs f true j g (s.reply c d) :=
  ⟨h.inFlight, rfl, h.job, h.go⟩

theorem PortTaken.answers (h : PortTaken s) (c : ReplyCode) (d : List Byte) : PortCoherent (s.reply c d) :=
  PortAnswered.coherent (h.reply c d)

theorem PortCoherent.give (h : PortCoherent s) (bs : List Byte) : PortCoherent (s.give bs) := h

theorem PortCoherent.responseRead (h : PortCoherent s) (n : Nat) : PortCoherent (s.responseRead n) := by
  unfold State.responseRead
  split
  next x ready =>
    dsimp only
    split
    next =>
      have answered := h.answered (by simp [ready])
      exact portCoherent_iff.mpr (.inl ⟨rfl, rfl, answered.job, answered.go⟩)
    next => exact h
  next => exact h

/-! ## Takes (R184) -/

/-- A transaction that is taken finds the port idle; one that is not leaves it as it was. -/
theorem PortCoherent.takeCommand (h : PortCoherent s) (code : Byte) (ps : List Byte) (run : State → State)
    (ran : ∀ t, PortTaken t → PortCoherent (run t)) : PortCoherent (s.takeCommand code ps run) := by
  unfold State.takeCommand
  split
  next => exact h.give _
  next free =>
    have idle := h.idle (Bool.eq_false_iff.mpr free)
    have taken : PortTaken (s.taking code ps) := ⟨rfl, idle.response, idle.job, idle.go⟩
    split
    next => exact taken.answers _ _
    next =>
      split
      next => exact ran _ taken
      next => exact taken.answers _ _

theorem PortTaken.checked {α : Type} (h : PortTaken s) (p : Option α) (run : State → α → State)
    (ran : ∀ x, PortCoherent (run s x)) : PortCoherent (s.checked p run) := by
  unfold State.checked
  split
  · exact ran _
  · exact h.answers _ _

/-- A command that is answered as soon as its parameters are checked. -/
theorem PortCoherent.command {α : Type} (h : PortCoherent s) (code : Byte) (ps : List Byte) (p : Option α)
    (run : State → α → State) (ran : ∀ t x, PortTaken t → PortCoherent (run t x)) :
    PortCoherent (s.takeCommand code ps fun t => t.checked p run) :=
  h.takeCommand code ps _ fun t taken => taken.checked p run fun x => ran t x taken

/-! ## LOAD and READ_DICT (R189) -/

theorem PortIs.loadOn (h : PortIs true false j false s) (a : Nat) (left : List Byte) :
    PortCoherent (s.loadOn a left) := by
  unfold State.loadOn
  split
  next => exact PortAnswered.coherent ⟨h.inFlight, rfl, rfl, h.go⟩
  next => exact PortExporting.coherent ⟨h.inFlight, h.response, rfl, h.go⟩

theorem PortIs.readOn (h : PortIs true false j false s) (a n : Nat) (got : List Byte) :
    PortCoherent (s.readOn a n got) := by
  unfold State.readOn
  split
  next => exact PortAnswered.coherent ⟨h.inFlight, rfl, rfl, h.go⟩
  next => exact PortExporting.coherent ⟨h.inFlight, h.response, rfl, h.go⟩

theorem PortCoherent.exportOperationEnd (h : PortCoherent s) : PortCoherent s.exportOperationEnd := by
  unfold State.exportOperationEnd
  split
  next => exact h
  next q _ =>
    have ended := h.frame (frame_endOperation s q) (by decide) (by decide)
    unfold State.exportData
    split
    next job => exact (ended.exporting (congrArg Option.isSome job)).loadOn _ _
    next job => exact (ended.exporting (congrArg Option.isSome job)).readOn _ _ _
    next => exact ended

/-! ## The Definition Unit outside GO -/

theorem writeOn_noGo (s : State) (e : DefEntry) (ref : TextRef) (todo : List PlannedWrite) :
    (s.writeOn e ref todo).du.work.isGo = false := by
  unfold State.writeOn
  split <;> rfl

theorem claimSpace_noGo (s : State) (e : DefEntry) (n m : Nat) (w : Alloc → List PlannedWrite) :
    (s.claimSpace e n m w).du.work.isGo = false := by
  unfold State.claimSpace
  split
  · split
    · exact writeOn_noGo _ _ _ _
    · rfl
  · rfl

theorem planEnds_noGo (s : State) (e : DefEntry) (p : List PlanStep) (k : Option Lookup) :
    (s.planEnds e p k).du.work.isGo = false := by
  unfold State.planEnds
  split
  · unfold State.planDefine
    dsimp only
    split
    · exact claimSpace_noGo _ _ _ _ _
    · split
      · split
        · exact claimSpace_noGo _ _ _ _ _
        · rfl
      · exact claimSpace_noGo _ _ _ _ _
    · rfl
  · unfold State.planForget
    split
    · split
      · exact writeOn_noGo _ _ _ _
      · rfl
    · rfl

theorem planStart_noGo (e : DefEntry) (p : List PlanStep) (n : Nat) (noGo : s.du.work.isGo = false) :
    (s.planStart e p n).du.work.isGo = false := by
  unfold State.planStart
  split
  · rfl
  · rfl
  · exact noGo

theorem planLookup_noGo (e : DefEntry) (p : List PlanStep) (o : LookupOut) (noGo : s.du.work.isGo = false) :
    (s.planLookup e p o).du.work.isGo = false := by
  cases o with
  | read a n k => rfl
  | noEntry k => exact planEnds_noGo _ _ _ _
  | found k bs =>
    unfold State.planLookup State.planFound
    dsimp only
    split
    · exact planStart_noGo _ _ _ noGo
    · exact planEnds_noGo _ _ _ _
  | fault d => rfl

theorem finishEntry_noGo (s : State) (e : DefEntry) (ref : TextRef) :
    (s.finishEntry e ref).du.work.isGo = false := by
  unfold State.finishEntry
  dsimp only
  split
  · rfl
  · split
    · rw [(frame_sendDefinition _ _ _).du (by decide)]
      rfl
    · rfl

theorem PortCoherent.duServiceStart (h : PortCoherent s) : PortCoherent s.duServiceStart := by
  refine h.served (frame_duServiceStart s) (by decide) ?_
  unfold State.duServiceStart
  split
  next idle _ =>
    have noGo : s.du.work.isGo = false := congrArg DuWork.isGo idle
    exact (planStart_noGo _ _ _ (by exact noGo)).trans noGo.symm
  next => rfl

theorem PortCoherent.fenceComplete (h : PortCoherent s) : PortCoherent s.fenceComplete := by
  unfold State.fenceComplete
  split
  next e ref v rest finishing =>
    have fenced : PortCoherent ((s.fence (.strokeLayer v 0)).setDu { s.du with work := .finish e ref rest }) :=
      h.served ((frame_fence s _).chain (frame_setDu _ _) (zs := [.cache, .te, .du]) (by decide) (by decide))
          (by decide)
        (by rw [finishing]; rfl)
    dsimp only
    split
    next =>
      have finished := fenced.served (frame_finishEntry _ e ref) (by decide) (finishEntry_noGo _ e ref)
      exact finished.frame (frame_settled _) (by decide) (by decide)
    next => exact fenced
  next => exact h

/-- A received definition joins the queue and leaves the work in hand. -/
theorem defineAtDu_work (s : State) (f : Frame) : (s.defineAtDu f).du.work = s.du.work := by
  unfold State.defineAtDu
  split
  · split
    · rfl
    · split
      · split
        · unfold State.offerDefine
          split
          · rfl
          · split
            · rfl
            · split <;> rfl
        · rfl
      · rfl
  · rfl

theorem PortCoherent.deliverDefine (h : PortCoherent s) : PortCoherent s.deliverDefine := by
  refine h.served (frame_deliverDefine s) (by decide) (congrArg DuWork.isGo ?_)
  unfold State.deliverDefine State.deliver
  split
  · rfl
  · split
    · rw [defineAtDu_work, (frame_refreshSlot _ _).du (by decide), State.setLnc_du]
    · rfl

/-! ## GO (R190, R191): its work ends with its answer -/

theorem PortIs.goFails (h : PortIs true false false g s) (why : GoReason) : PortCoherent (s.goFails why) :=
  PortTaken.answers (h.setDu { s.du with work := .idle, dir := none }) _ _

theorem PortIs.goComplete (h : PortIs true false false g s) : PortCoherent s.goComplete := by
  have blocks : PortTaken s.blocksAtGo := ⟨h.inFlight, h.response, h.job, rfl⟩
  have viewing := (blocks.frame (frame_publisherAtGo _) (by decide) (by decide)).frame (frame_viewerAtGo _)
      (by decide) (by decide)
  rw [goComplete_eq]
  exact (PortTaken.answers viewing .ok []).frame (frame_choose _) (by decide) (by decide)

theorem PortIs.goRequests (h : PortIs true false false g s) {x : Du} (go : x.work.isGo = true) (op : MemOp) :
    PortCoherent ((s.setDu x).request .defn op) :=
  PortGoing.coherent ⟨h.inFlight, h.response, h.job, go⟩

theorem PortIs.goCountsOn (h : PortIs true false false g s) (todo : List PlannedWrite) :
    PortCoherent (s.goCountsOn todo) := by
  unfold State.goCountsOn
  split
  · exact h.goRequests rfl _
  · exact h.goComplete

theorem PortIs.scanOut (h : PortIs true false false g s) (o : ScanOut) : PortCoherent (s.scanOut o) := by
  cases o with
  | read a n sc => exact h.goRequests rfl _
  | fault d => exact (h.frame (frame_latch s _) (by decide) (by decide)).goFails _
  | done sc => exact (h.setDu _).goCountsOn _

theorem PortIs.goDirectory (h : PortIs true false false g s) (got : List Byte) :
    PortCoherent (s.goDirectory got) := by
  unfold State.goDirectory
  split
  · exact h.goRequests rfl _
  · split
    · exact h.goFails _
    · split
      · exact h.goFails _
      · exact (h.setDu _).scanOut _

theorem PortCoherent.defOperationEnd (h : PortCoherent s) : PortCoherent s.defOperationEnd := by
  unfold State.defOperationEnd
  split
  next => exact h
  next q _ =>
    have ended := h.frame (frame_endOperation s q) (by decide) (by decide)
    unfold State.duData
    split
    next planning =>
      have noGo := congrArg DuWork.isGo planning
      exact ended.served (frame_planLookup _ _ _ _) (by decide) ((planLookup_noGo _ _ _ noGo).trans noGo.symm)
    next writing =>
      have noGo := congrArg DuWork.isGo writing
      exact ended.served ((frame_setDu _ _).chain (frame_writeOn _ _ _ _) (zs := duParts) (by decide)
          (by decide)) (by decide)
        ((writeOn_noGo _ _ _ _).trans noGo.symm)
    next going => exact (ended.going (congrArg DuWork.isGo going)).goDirectory _
    next going => exact (ended.going (congrArg DuWork.isGo going)).scanOut _
    next going => exact (ended.going (congrArg DuWork.isGo going)).goCountsOn _
    next => exact ended

/-! ## Host commands -/

theorem PortCoherent.go (h : PortCoherent s) (ps : List Byte) : PortCoherent (s.go ps) := by
  refine h.command _ _ _ _ fun t _ taken => ?_
  unfold State.goTaken
  split
  · exact taken.answers _ _
  · exact taken.goDirectory _

theorem PortTaken.restarted (h : PortTaken s) : PortCoherent s.restarted :=
    PortAnswered.coherent ⟨h.inFlight, rfl, rfl, rfl⟩

theorem PortTaken.queueEntry (h : PortTaken s) (e : DefEntry) : PortCoherent (s.queueEntry e) := by
  unfold State.queueEntry
  split
  · exact PortAnswered.coherent ⟨h.inFlight, rfl, h.job, h.go⟩
  · exact h.answers _ _

theorem PortCoherent.flushCache (h : PortCoherent s) (selector : Byte) (rs : List Byte)
    (f : Option FenceScope) :
    PortCoherent (s.flushCache selector rs f) := by
  refine h.command _ _ _ _ fun t f taken => ?_
  have raised : PortTaken (t.fence f).raiseGeneration :=
    taken.served ((frame_fence t f).chain (frame_raiseGeneration _) (zs := [.cache, .te, .du]) (by decide)
        (by decide)) (by decide)
      (by rw [← fence_du t f]; rfl)
  unfold State.hostFence
  split
  · exact taken.answers _ _
  · exact (raised.answers .ok []).frame (frame_settled _) (by decide) (by decide)

theorem PortCoherent.custodyCommand (h : PortCoherent s) (selector : Byte) (rs : List Byte)
    (q : CustodyRequest) :
    PortCoherent (s.custody selector rs q) := by
  refine h.command _ _ _ _ fun t _ taken => ?_
  unfold State.hostRequest
  split
  · have flushed := (taken.frame (frame_takeRequest t q) (by decide) (by decide)).frame (frame_flushFor _ q)
        (by decide) (by decide)
    exact (PortTaken.answers flushed _ _).frame (frame_offered _) (by decide) (by decide)
  · exact taken.answers _ _

theorem PortTaken.setPane (h : PortTaken s) (p : Bool × PaneSource × Nat × Bool) : PortCoherent (s.setPane p) :=
  have shown := ((h.frame (frame_setVw s _) (by decide) (by decide)).frame (frame_releasePins _) (by decide)
      (by decide)).frame
    (frame_compose _) (by decide) (by decide)
  PortTaken.answers shown .ok []

/-- An answer after the port's own settings have changed. -/
theorem PortTaken.answersWith (h : PortTaken s) {x : Lcp} (inFlight : x.inFlight = s.lcp.inFlight)
    (job : x.job = s.lcp.job)
    (c : ReplyCode) (d : List Byte) : PortCoherent ((s.setLcp x).reply c d) :=
  PortAnswered.coherent ⟨(congrArg Option.isSome inFlight).trans h.inFlight, rfl,
      (congrArg Option.isSome job).trans h.job, h.go⟩

theorem PortTaken.giveLines (h : PortTaken s) (auto : Bool) (n : Nat) : PortCoherent (s.giveLines auto n) := by
  unfold State.giveLines
  exact h.answersWith rfl rfl _ _

theorem PortTaken.giveNotes (h : PortTaken s) (auto : Bool) (n : Nat) : PortCoherent (s.giveNotes auto n) := by
  unfold State.giveNotes
  dsimp only
  split
  · exact PortAnswered.coherent ⟨h.inFlight, rfl, h.job, h.go⟩
  · exact h.answers _ _

theorem PortTaken.giveEvent (h : PortTaken s) : PortCoherent s.giveEvent := by
  unfold State.giveEvent
  split
  · exact h.answersWith rfl rfl _ _
  · exact h.answers _ _

theorem PortTaken.readStatus (h : PortTaken s) : PortCoherent s.giveStatus.choose :=
  have counted := h.frame (frame_updateCredit s) (by decide) (by decide)
  (PortTaken.answers counted _ _).frame (frame_choose _) (by decide) (by decide)

/-! ## Every command -/

/-- Every command, at a coherent port, leaves a coherent port. -/
theorem exec_portCoherent (c : Instr) (s : State) (h : PortCoherent s) :
    ∃ t, exec c s = .next t ∧ PortCoherent t := by
  cases c with
  | fullReset src => exact ⟨_, rfl, portCoherent_iff.mpr (.inl ⟨rfl, rfl, rfl, rfl⟩)⟩
  | rawLevelChange n down => exact ⟨_, rfl, h.frame (frame_rawLevelChange _ _ _) (by decide) (by decide)⟩
  | settlingTimerExpiry n => exact ⟨_, rfl, h.frame (frame_settlingExpiry _ _) (by decide) (by decide)⟩
  | stuckTimerExpiry n => exact ⟨_, rfl, h.frame (frame_stuckExpiry _ _) (by decide) (by decide)⟩
  | takeStroke => exact ⟨_, rfl, h.frame (frame_takeStroke _) (by decide) (by decide)⟩
  | walkReadEnd => exact ⟨_, rfl, h.frame (frame_walkReadEnd _) (by decide) (by decide)⟩
  | resolveTimerExpiry => exact ⟨_, rfl, h.frame (frame_resolveExpiry _) (by decide) (by decide)⟩
  | retrReadEnd => exact ⟨_, rfl, h.frame (frame_retrReadEnd _) (by decide) (by decide)⟩
  | matchCheck => exact ⟨_, rfl, h.frame (frame_matchCheck _) (by decide) (by decide)⟩
  | replacement => exact ⟨_, rfl, h.frame (frame_replacement _) (by decide) (by decide)⟩
  | duServiceStart => exact ⟨_, rfl, h.duServiceStart⟩
  | defOperationEnd => exact ⟨_, rfl, h.defOperationEnd⟩
  | exportOperationEnd => exact ⟨_, rfl, h.exportOperationEnd⟩
  | characterReceived heading b ok => exact ⟨_, rfl, h.frame (frame_characterReceived _ _ _ _) (by decide)
      (by decide)⟩
  | frameEndBySilence => exact ⟨_, rfl, h.frame (frame_frameEnd _) (by decide) (by decide)⟩
  | turnaroundGuardExpiry => exact ⟨_, rfl, h.frame (frame_guardExpiry _) (by decide) (by decide)⟩
  | transmitStart => exact ⟨_, rfl, h.frame (frame_transmitStart _) (by decide) (by decide)⟩
  | creditReach => exact ⟨_, rfl, h.frame (frame_creditReach _) (by decide) (by decide)⟩
  | deliverStation => exact ⟨_, rfl, h.frame (frame_deliverStation _) (by decide) (by decide)⟩
  | deliverClaim => exact ⟨_, rfl, h.frame (frame_deliverClaim _) (by decide) (by decide)⟩
  | deliverRelease => exact ⟨_, rfl, h.frame (frame_deliverRelease _) (by decide) (by decide)⟩
  | deliverRefuse => exact ⟨_, rfl, h.frame (frame_deliverRefuse _) (by decide) (by decide)⟩
  | deliverDefine => exact ⟨_, rfl, h.deliverDefine⟩
  | deliverAsk => exact ⟨_, rfl, h.frame (frame_deliverAsk _) (by decide) (by decide)⟩
  | deliverTail => exact ⟨_, rfl, h.frame (frame_deliverTail _) (by decide) (by decide)⟩
  | deliverLine => exact ⟨_, rfl, h.frame (frame_deliverLine _) (by decide) (by decide)⟩
  | beaconTimerExpiry => exact ⟨_, rfl, h.frame (frame_beaconExpiry _) (by decide) (by decide)⟩
  | refreshTimerExpiry => exact ⟨_, rfl, h.frame (frame_refreshExpiry _) (by decide) (by decide)⟩
  | lapseTimerExpiry i => exact ⟨_, rfl, h.frame (frame_lapseExpiry _ _) (by decide) (by decide)⟩
  | freeTimerExpiry i => exact ⟨_, rfl, h.frame (frame_freeExpiry _ _) (by decide) (by decide)⟩
  | claimTimerExpiry => exact ⟨_, rfl, h.frame (frame_claimExpiry _) (by decide) (by decide)⟩
  | settleTimerExpiry => exact ⟨_, rfl, h.frame (frame_settleExpiry _) (by decide) (by decide)⟩
  | commitAll => exact ⟨_, rfl, h.frame (frame_commitAll _) (by decide) (by decide)⟩
  | gapTimerExpiry n => exact ⟨_, rfl, h.frame (frame_gapExpiry _ _) (by decide) (by decide)⟩
  | rowSendStart => exact ⟨_, rfl, h.frame (frame_rowSendStart _) (by decide) (by decide)⟩
  | busyChange high => exact ⟨_, rfl, h.frame (frame_busyChange _ _) (by decide) (by decide)⟩
  | rowSendComplete => exact ⟨_, rfl, h.frame (frame_rowSendComplete _) (by decide) (by decide)⟩
  | fenceComplete => exact ⟨_, rfl, h.fenceComplete⟩
  | startBitSeen atStart => exact ⟨_, rfl, h.frame (frame_startBitSeen _ _) (by decide) (by decide)⟩
  | commandTakeBusy code ps =>
    refine ⟨_, rfl, ?_⟩
    unfold State.commandTakeBusy
    split
    · exact h.give _
    · exact h
  | shortCommandTransaction sent => exact ⟨_, rfl, h.give _⟩
  | responseRead clocked => exact ⟨_, rfl, h.responseRead clocked⟩
  | unknownCommand code ps => exact ⟨_, rfl, h.takeCommand _ _ _ fun _ taken => taken.answers _ _⟩
  | configure ps =>
    exact ⟨_, rfl, h.command _ _ _ _ fun _ _ taken => PortAnswered.coherent ⟨taken.inFlight, rfl, taken.job,
        taken.go⟩⟩
  | load ps => exact ⟨_, rfl, h.command _ _ _ _ fun _ _ taken => taken.loadOn _ _⟩
  | readDict ps => exact ⟨_, rfl, h.command _ _ _ _ fun _ _ taken => taken.readOn _ _ _⟩
  | go ps => exact ⟨_, rfl, h.go ps⟩
  | restart ps => exact ⟨_, rfl, h.command _ _ _ _ fun _ _ taken => taken.restarted⟩
  | define ps => exact ⟨_, rfl, h.command _ _ _ _ fun _ _ taken => taken.queueEntry _⟩
  | forget ps => exact ⟨_, rfl, h.command _ _ _ _ fun _ _ taken => taken.queueEntry _⟩
  | flushCacheAll rs => exact ⟨_, rfl, h.flushCache 0 rs _⟩
  | flushCacheLayer rs => exact ⟨_, rfl, h.flushCache 1 rs _⟩
  | flushCacheStroke rs => exact ⟨_, rfl, h.flushCache 2 rs _⟩
  | flushCacheStrokeLayer rs => exact ⟨_, rfl, h.flushCache 3 rs _⟩
  | custodyClaim rs => exact ⟨_, rfl, h.custodyCommand 0 rs _⟩
  | custodyRelease rs => exact ⟨_, rfl, h.custodyCommand 1 rs _⟩
  | custodyEnterShadow rs => exact ⟨_, rfl, h.custodyCommand 2 rs _⟩
  | custodyLeaveShadow rs => exact ⟨_, rfl, h.custodyCommand 3 rs _⟩
  | custodyHold rs => exact ⟨_, rfl, h.custodyCommand 4 rs _⟩
  | custodyUnhold rs => exact ⟨_, rfl, h.custodyCommand 5 rs _⟩
  | pane ps => exact ⟨_, rfl, h.command _ _ _ _ fun _ p taken => taken.setPane p⟩
  | readLinesAuto rs => exact ⟨_, rfl, h.command _ _ _ _ fun _ n taken => taken.giveLines true n⟩
  | readLinesPeek rs => exact ⟨_, rfl, h.command _ _ _ _ fun _ n taken => taken.giveLines false n⟩
  | readNotesAuto rs => exact ⟨_, rfl, h.command _ _ _ _ fun _ n taken => taken.giveNotes true n⟩
  | readNotesPeek rs => exact ⟨_, rfl, h.command _ _ _ _ fun _ n taken => taken.giveNotes false n⟩
  | readStatus ps => exact ⟨_, rfl, h.command _ _ _ _ fun _ _ taken => taken.readStatus⟩
  | readRoster ps => exact ⟨_, rfl, h.command _ _ _ _ fun _ _ taken => taken.answers _ _⟩
  | readEvent ps => exact ⟨_, rfl, h.command _ _ _ _ fun _ _ taken => taken.giveEvent⟩
  | setMask ps => exact ⟨_, rfl, h.command _ _ _ _ fun _ _ taken => taken.answersWith rfl rfl _ _⟩

end Sys2Proof.Machine

open Sys2Proof Sys2Proof.Machine

/-- Settles O9: a take finds the port idle (`PortCoherent.takeCommand`), and what runs answers, exports or
begins GO, which ends with its answer; a step without a command leaves the port alone. -/
theorem portStaysCoherent : Obligations.PortStaysCoherent := by
  unfold Obligations.PortStaysCoherent
  intro s t h stepped
  unfold Sys2Proof.Machine.step at stepped
  split at stepped
  · cases stepped
    exact h.frame (frame_advance s 1) (by decide) (by decide)
  next c rest _ =>
    obtain ⟨u, ran, coherent⟩ := exec_portCoherent c (s.setPending rest) h
    cases ran.symm.trans stepped
    exact coherent
end

section
/-! SUPPORT. The row of a host transaction, the two forms of a step, and the state right after reset; with them
O10, O1, O2 and O5. -/

namespace Sys2Proof

/-! ## The row of a transaction (R184, R186, log 5) -/

/-- The row of a transaction: its code's own, or the one its selecting byte names; UNKNOWN_COMMAND where
neither names one. -/
def Instr.ofTransaction (code : Byte) (ps : List Byte) : Instr :=
  match code, ps with
  | 1, ps => .configure ps
  | 2, ps => .load ps
  | 3, ps => .readDict ps
  | 4, ps => .go ps
  | 5, ps => .restart ps
  | 6, ps => .define ps
  | 7, ps => .forget ps
  | 8, 0 :: rs => .flushCacheAll rs
  | 8, 1 :: rs => .flushCacheLayer rs
  | 8, 2 :: rs => .flushCacheStroke rs
  | 8, 3 :: rs => .flushCacheStrokeLayer rs
  | 9, 0 :: rs => .custodyClaim rs
  | 9, 1 :: rs => .custodyRelease rs
  | 9, 2 :: rs => .custodyEnterShadow rs
  | 9, 3 :: rs => .custodyLeaveShadow rs
  | 9, 4 :: rs => .custodyHold rs
  | 9, 5 :: rs => .custodyUnhold rs
  | 10, ps => .pane ps
  | 11, 0 :: rs => .readLinesAuto rs
  | 11, 1 :: rs => .readLinesPeek rs
  | 12, 0 :: rs => .readNotesAuto rs
  | 12, 1 :: rs => .readNotesPeek rs
  | 13, ps => .readStatus ps
  | 14, ps => .readRoster ps
  | 15, ps => .readEvent ps
  | 16, ps => .setMask ps
  | code, ps => .unknownCommand code ps

theorem ofTransaction_unnamed {code : Byte} {ps : List Byte} (noName : unnamed code ps = true) :
    Instr.ofTransaction code ps = .unknownCommand code ps := by
  unfold Instr.ofTransaction
  split
  case h_27 => rfl
  all_goals exact absurd noName (by simp [unnamed, selectsNone])

/-- A well-formed row that takes a transaction is the row of that transaction. -/
theorem ofTransaction_hostCommand {i : Instr} {code : Byte} {ps : List Byte} (formed : i.wellFormed = true)
    (host : i.hostCommand = some (code, ps)) : Instr.ofTransaction code ps = i := by
  cases i with
  | unknownCommand c qs =>
    cases host
    simp only [Instr.wellFormed, Bool.and_eq_true] at formed
    exact ofTransaction_unnamed formed.1
  | configure | load | readDict | go | restart | define | forget | pane | readStatus | readRoster | readEvent
  | setMask
  | flushCacheAll | flushCacheLayer | flushCacheStroke | flushCacheStrokeLayer
  | custodyClaim | custodyRelease | custodyEnterShadow | custodyLeaveShadow | custodyHold | custodyUnhold
  | readLinesAuto | readLinesPeek | readNotesAuto | readNotesPeek =>
    cases host
    rfl
  | _ => cases host

theorem byte_below {b : Byte} {n : Nat} (low : b.toNat < n) : ∃ k < n, b = BitVec.ofNat 8 k :=
  ⟨b.toNat, low, by simp⟩

/-- Parameters whose first byte selects one of `n` rows. -/
theorem selects_of_not_selectsNone {ps : List Byte} {n : Nat} (selects : ¬ selectsNone ps n = true) :
    ∃ k < n, ∃ rs, ps = BitVec.ofNat 8 k :: rs := by
  cases ps with
  | nil => exact absurd rfl selects
  | cons b rs =>
    obtain ⟨k, low, rfl⟩ := byte_below (b := b) (n := n) (by simpa [selectsNone] using selects)
    exact ⟨k, low, rs, rfl⟩

theorem exists_row {code : Byte} {ps : List Byte} (nonzero : code ≠ 0) (fits : ps.length ≤ 65535) :
    ∃ i : Instr, i.wellFormed = true ∧ i.hostCommand = some (code, ps) := by
  by_cases noName : unnamed code ps = true
  · exact ⟨.unknownCommand code ps, by simp [Instr.wellFormed, noName, paramsOk, fits], rfl⟩
  · simp only [unnamed, Bool.or_eq_true, Bool.and_eq_true, decide_eq_true_eq, not_or, not_and,
        Nat.not_lt] at noName
    obtain ⟨⟨⟨low, flush⟩, custody⟩, reading⟩ := noName
    have params : paramsOk ps = true := decide_eq_true fits
    have rest {b : Byte} {rs : List Byte} (whole : ps = b :: rs) : restOk rs = true := by
      subst whole
      exact decide_eq_true (Nat.le_of_succ_le_succ fits)
    obtain ⟨k, small, rfl⟩ := byte_below (Nat.lt_succ_of_le low)
    interval_cases k
    · exact absurd rfl nonzero
    · exact ⟨.configure ps, params, rfl⟩
    · exact ⟨.load ps, params, rfl⟩
    · exact ⟨.readDict ps, params, rfl⟩
    · exact ⟨.go ps, params, rfl⟩
    · exact ⟨.restart ps, params, rfl⟩
    · exact ⟨.define ps, params, rfl⟩
    · exact ⟨.forget ps, params, rfl⟩
    · obtain ⟨j, row, rs, rfl⟩ := selects_of_not_selectsNone (flush rfl)
      interval_cases j
      · exact ⟨.flushCacheAll rs, rest rfl, rfl⟩
      · exact ⟨.flushCacheLayer rs, rest rfl, rfl⟩
      · exact ⟨.flushCacheStroke rs, rest rfl, rfl⟩
      · exact ⟨.flushCacheStrokeLayer rs, rest rfl, rfl⟩
    · obtain ⟨j, row, rs, rfl⟩ := selects_of_not_selectsNone (custody rfl)
      interval_cases j
      · exact ⟨.custodyClaim rs, rest rfl, rfl⟩
      · exact ⟨.custodyRelease rs, rest rfl, rfl⟩
      · exact ⟨.custodyEnterShadow rs, rest rfl, rfl⟩
      · exact ⟨.custodyLeaveShadow rs, rest rfl, rfl⟩
      · exact ⟨.custodyHold rs, rest rfl, rfl⟩
      · exact ⟨.custodyUnhold rs, rest rfl, rfl⟩
    · exact ⟨.pane ps, params, rfl⟩
    · obtain ⟨j, row, rs, rfl⟩ := selects_of_not_selectsNone (reading (Or.inl rfl))
      interval_cases j
      · exact ⟨.readLinesAuto rs, rest rfl, rfl⟩
      · exact ⟨.readLinesPeek rs, rest rfl, rfl⟩
    · obtain ⟨j, row, rs, rfl⟩ := selects_of_not_selectsNone (reading (Or.inr rfl))
      interval_cases j
      · exact ⟨.readNotesAuto rs, rest rfl, rfl⟩
      · exact ⟨.readNotesPeek rs, rest rfl, rfl⟩
    · exact ⟨.readStatus ps, params, rfl⟩
    · exact ⟨.readRoster ps, params, rfl⟩
    · exact ⟨.readEvent ps, params, rfl⟩
    · exact ⟨.setMask ps, params, rfl⟩

end Sys2Proof

namespace Sys2Proof.Machine

/-! ## The two forms of a step (log 2) -/

theorem step_idle {s : State} (idle : s.pending = []) :
    step s = .next (s.advance 1) := by
  simp only [step, idle]

theorem step_command {s : State} {c : Instr} {rest : List Instr} (front : s.pending = c :: rest) :
    step s = exec c (s.setPending rest) := by simp only [step, front]

/-- Less than a millisecond passes in a character time, so that the clock rises by one at most and no wrap
hides it (R1, R105). -/
theorem clock_advance_one {c : Clock} (part : c.us < 1000) :
    1000 * ((c.advance 1).ms - c.ms).toNat + (c.advance 1).us = c.us + 44 := by
  have rise : ((c.advance 1).ms - c.ms).toNat = (c.us + 44) / 1000 := by
    simp only [Clock.advance, Nat.mul_one, add_sub_cancel_left, BitVec.toNat_ofNat]
    omega
  rw [rise]
  exact Nat.div_add_mod (c.us + 44) 1000

theorem lnc_advance_one (l : Lnc) :
    l.advance 1 = { l with silence := (l.advance 1).silence, quiet := (l.advance 1).quiet }
    ∧ (l.advance 1).silence = if l.busySince = none then l.silence + 1 else l.silence := by
  unfold Lnc.advance
  split
  next busy => exact ⟨rfl, by simp [busy]⟩
  next quiet => exact ⟨rfl, by simp [quiet]⟩

theorem screen_advance (p : Screen) (n : Nat) : p.advance n = { p with send := (p.advance n).send } := by
  unfold Screen.advance
  split
  · rfl
  · split <;> rfl

/-! ## Reset -/

theorem reset_bounded : Bounded State.reset := by
  simp [Bounded, State.reset, StrokeQueue.reset, NotesLog.reset, Du.reset, Te.reset,
    Tb.reset, Lnc.reset, Pub.reset, Cu.reset, Viewer.reset]

theorem reset_coherent : Coherent State.reset := coherent_free (.inl rfl) rfl rfl rfl rfl (by rintro p ⟨⟩)

end Sys2Proof.Machine

open Sys2Proof Sys2Proof.Machine

/-- Settles O10: the row is `Instr.ofTransaction` of the code and the parameters. -/
theorem everyTransactionIsOneRow : Obligations.EveryTransactionIsOneRow := by
  unfold Obligations.EveryTransactionIsOneRow
  refine ⟨fun code ps nonzero fits => exists_row nonzero fits, ?_⟩
  rintro i j ⟨code, ps⟩ formed formed' host host'
  calc i = Instr.ofTransaction code ps := (ofTransaction_hostCommand formed host).symm
    _ = j := ofTransaction_hostCommand formed' host'

/-- Settles O1. -/
theorem aStepRunsTheFrontCommand : Obligations.AStepRunsTheFrontCommand := by
  unfold Obligations.AStepRunsTheFrontCommand
  intro c rest s
  exact step_command (State.setPending_pending s (c :: rest))

/-- Settles O2: an idle step is `State.advance` by one character time. -/
theorem anIdleStepIsOneCharacterTime : Obligations.AnIdleStepIsOneCharacterTime := by
  unfold Obligations.AnIdleStepIsOneCharacterTime
  intro s idle part
  obtain ⟨line, silence⟩ := lnc_advance_one s.lnc
  exact ⟨s.advance 1, step_idle idle, frame_advance s 1, rfl, clock_advance_one part, Nat.mod_lt _ (by decide),
      line, silence,
    screen_advance s.sp 1⟩

/-- Settles O5. -/
theorem resetMeetsTheInvariants : Obligations.ResetMeetsTheInvariants := by
  unfold Obligations.ResetMeetsTheInvariants
  exact ⟨rfl, rfl, reset_bounded, reset_coherent, rfl, List.Pairwise.nil, rfl⟩
end
